-- ==== Sys2Proof/Word.lean ====
section
/-! DEFINITION. The words of the EO-3200 model: bytes on its serial lines and the sets its requests carry as bits.

Counts, times of day, day numbers and indexes are natural numbers: the manual gives each a range, never a word
that wraps, and says of every counter whether it saturates or what it wraps to (spec/00_scope.md, "Quantities").
-/
namespace Sys2Proof

/-- One byte of a serial line (R183). -/
abbrev Byte := BitVec 8

/-- A set of zones 1..24: zone z is bit z - 1 (R183). -/
abbrev ZoneSet := BitVec 24

/-- A set of sites 0..2: site s is bit s (R183, "the lowest-numbered member in the least significant bit"). -/
abbrev SiteSet := BitVec 3

/-- A set of gate stations 1..8: station a is bit a - 1 (R183). -/
abbrev StationSet := BitVec 8

/-- A set of cohorts 1..7: cohort c is bit c - 1 (R183). -/
abbrev CohortSet := BitVec 7

/-- A set of weekdays: Monday is bit 0 and Sunday bit 6 (R13, R14). -/
abbrev WeekdaySet := BitVec 7

end Sys2Proof
end

