-- ==== Sys2Proof/Syntax.lean ====
section
/-! DEFINITION. The commands of the EO-3200: one constructor per row of spec/opcode_table.json.

The first 75 are the host's requests in the order of Table 11-2, so a request's code is its place in that order.
Each carries the host's frame tag and then the fields its rule names, as numbers just as the frame carries them:
the meanings check ranges and codes themselves (R178). The rest are the frames, line events, timer expiries and
steps of the part's own work. An expiry or step command stands for the moment at which it happens.
-/
namespace Sys2Proof

/-- A plan entry as LOAD_PLAN carries it (Table 2-1); fields the action does not use are not read. -/
structure PlanEntryOp where
  minute    : Nat
  siteMask  : Nat
  action    : Nat
  generator : Nat
  pattern   : Nat
  point     : Nat
  deriving DecidableEq, Repr

/-- A route entry with its zone number, as LOAD_ROUTE carries it (R156). -/
structure RouteEntryOp where
  zone          : Nat
  source        : Nat
  quietEligible : Nat
  faultLevel    : Nat
  deriving DecidableEq, Repr

/-- A start group entry as LOAD_GROUP carries it: registration point 0 with site 0 is NOT_DUE (R183). -/
structure GroupEntryOp where
  point : Nat
  site  : Nat
  deriving DecidableEq, Repr

/-- An arrival record in a station reply (Table 10-3). -/
structure GateRecord where
  seq         : Nat
  presentedAs : Nat
  number      : Nat
  direction   : Nat
  reason      : Nat
  deriving DecidableEq, Repr

/-- The commands. -/
inductive Instr where
  -- Time Base requests
  | setTime (tag day second tick : Nat)
  | queryTime (tag : Nat)
  | setDiscipline (tag setting : Nat)
  | setCycleLength (tag length : Nat)
  | setCycleDay (tag day : Nat)
  | loadException (tag date outcome termStart : Nat)
  | dropException (tag date : Nat)
  | queryExceptions (tag date : Nat)
  | loadRule (tag number weekdays cycleDay outcome : Nat)
  | loadWeekday (tag weekday outcome : Nat)
  | queryCalendar (tag : Nat)
  -- Schedule Scanner requests
  | loadPlan (tag plan : Nat) (entries : List PlanEntryOp)
  | queryPlan (tag plan copy : Nat)
  | setSite (tag site : Nat) (offset : Int) (grace confirmDelay notifyEachLate : Nat)
  | setShift (tag site minutes : Nat)
  | selectToday (tag plan : Nat)
  | queryDay (tag : Nat)
  -- Attendance Engine requests: roll
  | loadPupil (tag roll : Nat) (card : Option Nat) (cohort group grace : Nat) (slots : List (Option Nat))
  | dropPupil (tag roll : Nat)
  | queryPupil (tag roll : Nat)
  | queryCard (tag card : Nat)
  | loadContact (tag key mayExcuse mayNotify : Nat) (pupils : List Nat)
  | dropContact (tag key : Nat)
  | queryContact (tag key : Nat)
  | queryContacts (tag key : Nat)
  | loadGroup (tag group : Nat) (entries : List GroupEntryOp)
  | queryGroup (tag group : Nat)
  | clearTallies (tag roll choice : Nat)
  -- Attendance Engine requests: roster, arrivals, excuses
  | deskMark (tag roll mark : Nat)
  | queryRoster (tag roll states : Nat)
  | querySweeps (tag : Nat)
  | snapshot (tag : Nat)
  | queryCounts (tag : Nat)
  | setLateStep (tag step : Nat)
  | queryLateStep (tag : Nat)
  | addExcuse (tag roll kind first last minute : Nat)
  | removeExcuse (tag roll kind day : Nat)
  | queryExcuses (tag day roll : Nat)
  -- Notice Unit requests
  | composeBulletin (tag number cohorts sites : Nat)
  | stopBulletin (tag : Nat)
  | queryFanout (tag : Nat)
  | closeCall (tag number : Nat)
  | queryCalls (tag position : Nat)
  | queryNotice (tag notice : Nat)
  | queryNotices (tag place position : Nat)
  | setNoticeTimes (tag outcomeTimeout fallbackDelay : Nat)
  | queryNoticeTimes (tag : Nat)
  -- Relay Link requests
  | relayStart (tag : Nat)
  | relayStop (tag : Nat)
  | setRelayLink (tag runLength threshold resyncTime attemptLimit silenceLimit autoRestart autoStart : Nat)
  | queryRelayLink (tag : Nat)
  | queryLink (tag : Nat)
  | linkLampMode (tag mode : Nat)
  | lamp (tag level : Nat)
  -- Sounder Unit requests
  | loadPattern (tag number mode n p k r d : Nat)
  | queryPattern (tag number : Nat)
  | loadRoute (tag bank : Nat) (entries : List RouteEntryOp)
  | queryRoute (tag bank : Nat)
  | swapBank (tag : Nat)
  | setQuiet (tag : Nat) (zones : ZoneSet)
  | alertStart (tag : Nat) (zones : ZoneSet)
  | alertStop (tag : Nat)
  | setAlertInput (tag : Nat) (zones : ZoneSet)
  | paStart (tag : Nat) (zones : ZoneSet)
  | paStop (tag : Nat)
  | setPaKey (tag : Nat) (zones : ZoneSet)
  | setSupervision (tag : Nat) (zones : ZoneSet)
  | querySounder (tag : Nat)
  | queryZones (tag : Nat)
  -- Gate Bus requests
  | setStation (tag address enabled site : Nat)
  | queryStations (tag : Nat)
  -- Office Port requests
  | readJournal (tag serial : Nat)
  | status (tag : Nat)
  | setAttentionMask (tag causes : Nat)
  | reset (tag : Nat)
  -- office line events
  | unknownRequest (tag code : Nat)
  | overrun
  | officeBadFrame
  | officeByteTimeout
  | replyComplete
  -- power and reset; a power-up samples the baud strap
  | warmReset
  | powerUp (strapHigh : Bool)
  | retentionLoss (strapHigh : Bool)
  | mainPowerLoss
  -- the clock; the 24 supervision sense lines are sampled with each oscillator tick, a set bit is a GOOD circuit
  | oscillatorTick (sense : ZoneSet)
  | masterMark
  | markSilenceExpiry
  | rolloverStep
  -- sweeps
  | closeSweepStep (point site : Nat)
  | confirmSweepStep (point site : Nat)
  -- gate bus events
  | gateRoundStart
  | poll
  | gateReply (checkAgrees lengthAgrees : Bool) (address fresh : Nat) (records : List GateRecord)
  | gateReplyTimeout
  | arrivalRecord
  -- Notice Unit events; a timeout names the notice whose time has come
  | outcomeTimeout (notice : Nat)
  | relayDownFallback (notice : Nat)
  | fanoutStep
  -- relay line events
  | rxMsg (seq place mark : Nat) (body : List Byte)
  | rxMark (mark : Nat)
  | rxIdle (mark : Nat)
  | rxResync (flag mark : Nat)
  | rxStart
  | rxBadFrame
  | relayByteTimeout
  | txLineFree
  | startTimer
  | markDue
  | idleDue
  | silenceTimeout
  | resyncTimeout
  | autoRestart
  -- sounder events
  | generatorUnit (generator : Nat)
  | alertWarbleUnit
  | alertInput (active : Bool)
  | paKey (held : Bool)
  | idleCheck (zone : Nat)
  -- the last office row of the table
  | wrongBodyLength (tag code : Nat)
  deriving DecidableEq, Repr

end Sys2Proof
end

