-- ==== Sys2Proof/Decode.lean ====
section
/-! DEFINITION. The command a word spells by the table's bits. No row of spec/opcode_table.json gives bits: the commands are
frames and events, not words. Machine/Frames.lean reads the frames that carry them. -/
namespace Sys2Proof

/-- The command an instruction word of `nbits` bits spells: none, since no row gives bits. -/
def decodeTableWord (_nbits _w : Nat) : Option Instr := none

end Sys2Proof
end

