-- ==== Sys2Proof/Config.lean ====
section
/-! DEFINITION. What the manual fixes for the one part it describes: table sizes, ranges and limits.

The manual leaves no value free that this model would have to take from an opaque constant: every result it
gives is stated (NOTES.md, "Assumptions", says which inputs from outside the part are pins held in State).
-/
namespace Sys2Proof.Config

/-- The last day number, 2099-12-31 (spec/00_scope.md, "Times and dates"). -/
def lastDay : Nat := 36524
/-- Seconds in a day. -/
def daySeconds : Nat := 86400
/-- Ticks in a second (section 1.1). -/
def ticksPerSecond : Nat := 64
/-- Minutes in a day. -/
def dayMinutes : Nat := 1440
/-- The last minute of day, to which effective minutes and confirm minutes are clamped (R29, R31). -/
def lastMinute : Nat := 1439
/-- The last second of day, to which deadlines are capped (R38, R79). -/
def lastSecond : Nat := 86399

/-- Slew limit in ticks (Table 1-2). -/
def slewLimit : Nat := 64
/-- Oscillator ticks per slewed tick (R9). -/
def slewPeriod : Nat := 16
/-- Largest difference of two agreeing mark errors (R10). -/
def stepAgreement : Nat := 4
/-- Lock limit in ticks (R8). -/
def lockLimit : Nat := 2
/-- Unlock limit in ticks (R8). -/
def unlockLimit : Nat := 16
/-- Half a minute in ticks, the fold of the mark error (R7). -/
def halfMinuteTicks : Nat := 1920
/-- A minute in ticks (R7). -/
def minuteTicks : Nat := 3840
/-- The double-mark guard, 45 s in oscillator ticks (R7). -/
def markGuardTicks : Nat := 2880
/-- The mark silence limit, 3 minutes in oscillator ticks (R8). -/
def markSilenceTicks : Nat := 11520
/-- The longest timetable cycle (R11). -/
def maxCycle : Nat := 10
/-- Calendar exceptions held at most (R12). -/
def maxExceptions : Nat := 96
/-- Exceptions returned in one reply (R12). -/
def exceptionsPerReply : Nat := 16

/-- Entries of a day plan at most (R24). -/
def maxPlanEntries : Nat := 32
/-- Day shift at most, minutes (R28). -/
def maxShift : Nat := 240

/-- The last roll number (Table 3-1). -/
def maxRoll : Nat := 2400
/-- Grace override at most, minutes (R41). -/
def maxGraceOverride : Nat := 30
/-- Contacts held at most (R47). -/
def maxContacts : Nat := 4096
/-- Pupils a contact lists at most (R46). -/
def maxListed : Nat := 6
/-- Contacts returned in one reply (R54). -/
def contactsPerReply : Nat := 16
/-- Saturation of late points and of unexplained days (R52). -/
def maxPoints : Nat := 255
/-- Saturation of the late-minute total, the lost count, ages and station totals (R52, R89, Table 7-1, Table 10-1). -/
def maxWord : Nat := 65535
/-- Late step at most (R85). -/
def maxLateStep : Nat := 15
/-- Roster entries, excuses, calls, notices and journal records in one reply (R73, R98, R126, R127, R90). -/
def recordsPerReply : Nat := 8

/-- Journal records held at most (R89). -/
def maxJournal : Nat := 1024
/-- The last journal serial, after which comes 1 (R89). -/
def lastSerial : Nat := 16777215
/-- Excuses held at most (R92). -/
def maxExcuses : Nat := 512

/-- The notice queue's limits by class (R111). -/
def queueUrgent : Nat := 256
def queueRoutine : Nat := 240
def queueBulk : Nat := 192
/-- The dispatch ring's limits by class (R114). -/
def ringUrgent : Nat := 64
def ringRoutine : Nat := 56
def ringBulk : Nat := 32
/-- The awaiting-outcome table's size (R115). -/
def maxAwaiting : Nat := 192
/-- The desk call list's size (R125). -/
def maxCalls : Nat := 128
/-- Ring positions are counted modulo this (R131). -/
def placeModulus : Nat := 128
/-- Messages in the rollover hold at most (R19). -/
def maxHeld : Nat := 64

/-- Verdicts stored, and verdicts owed, per station at most (Table 10-1). -/
def maxVerdicts : Nat := 4
/-- The idle check period in seconds (R162). -/
def idleCheckSeconds : Nat := 10
/-- Consecutive checks that move a zone into or out of FAULT (R162). -/
def checksToMove : Nat := 3
/-- Units of one tone of the alert warble (R159). -/
def warbleUnits : Nat := 5
/-- Minutes before the leaving minute from which a sign-out is covered (R64). -/
def leavingLead : Nat := 30

end Sys2Proof.Config
end

