-- ==== Sys2Proof/Machine/State.lean ====
section
/-! DEFINITION. The state of the EO-3200: the eight blocks of Table 0-1, the supplies and input pins, and the queue of
commands. Plain data throughout. What can be worked out from other state (day counts, zone drive, lamps, the attention
line, the ring's write position, the card index, a station's enabled setting) is a view, defined with its block.
-/
namespace Sys2Proof.Machine

/-- Nothing stops the EO-3200: a request it will not take is refused with a result code and a damaged frame is dropped
(R143, R176, R178). So there is no fault. -/
inductive Fault where
  deriving DecidableEq, Repr

/-- The one reason of the interface for a command without a meaning. -/
inductive Refusal where
  /-- A command without a meaning, by its mnemonic; raised by no command of this model. Safe. -/
  | notModelled (mnemonic : String)
  deriving DecidableEq, Repr

/-! ### Time Base -/

/-- Whether the clock has been set since retention was lost (R2). -/
inductive Validity where
  | valid | invalid
  deriving DecidableEq, Repr

/-- Lock to the master clock (R8). -/
inductive DisciplineState where
  | unlocked | locked
  deriving DecidableEq, Repr

/-- What governs a day: a plan 1..8, or CLOSED (section 1.4). -/
inductive DayPlanChoice where
  | closed
  | plan (number : Nat)
  deriving DecidableEq, Repr

/-- A calendar exception; `outcome = none` is 0, no override (Table 1-4). -/
structure CalException where
  date      : Nat
  outcome   : Option DayPlanChoice
  termStart : Bool
  deriving DecidableEq, Repr

/-- A recurring rule; `cycleDay = none` is ANY, an empty weekday set is unused (Table 1-4, R13). -/
structure CalRule where
  weekdays : WeekdaySet
  cycleDay : Option Nat
  outcome  : DayPlanChoice
  deriving DecidableEq, Repr

/-- The kinds of rollover; SET carries the requested day and whether the clock was VALID before (Table 1-6). -/
inductive RolloverKind where
  | midnight
  | step
  | set (day : Nat) (wasValid : Bool)
  | resume
  deriving DecidableEq, Repr

/-- An ACTIVE rollover: kind, step 1..13 and cursor (R16); the midnights a RESUME's step 4 took (R22); the cycle day that
step 5 worked out for step 6 (R15, R22). -/
structure Rollover where
  kind      : RolloverKind
  step      : Nat
  cursor    : Nat
  taken     : Nat
  nextCycle : Nat
  deriving DecidableEq, Repr

/-- Table 1-1. -/
structure TimeBase where
  date         : Nat
  second       : Nat
  tick         : Nat
  validity     : Validity
  disciplined  : Bool
  discipline   : DisciplineState
  balance      : Int
  slewPhase    : Nat
  candidate    : Option Int
  lockCount    : Nat
  unlockCount  : Nat
  markSilence  : Option Nat
  markSeen     : Bool
  lastError    : Option Int
  cycleLength  : Nat
  cycleDay     : Nat
  today        : DayPlanChoice
  exceptions   : List CalException
  rules        : List CalRule
  weekdays     : List DayPlanChoice
  rollover     : Option Rollover
  missed       : Nat
  runningPhase : Nat
  deriving DecidableEq, Repr

/-! ### Schedule Scanner -/

/-- The action of a plan entry, with the fields it uses (Table 2-1). -/
inductive PlanAction where
  | ring (generator pattern : Nat)
  | routeSwap
  | regStart (point : Nat)
  | regClose (point : Nat)
  deriving DecidableEq, Repr

/-- A plan entry (Table 2-1). -/
structure PlanEntry where
  minute : Nat
  sites  : SiteSet
  action : PlanAction
  deriving DecidableEq, Repr

/-- An entry of an active copy with the flags of its pairs (R29). -/
structure PlanSlot where
  entry  : PlanEntry
  fired  : SiteSet
  passed : SiteSet
  deriving DecidableEq, Repr

/-- A day plan's two copies and its PENDING flag (section 2.1). -/
structure DayPlan where
  active  : List PlanSlot
  staged  : List PlanEntry
  pending : Bool
  deriving DecidableEq, Repr

/-- One site's settings and day shift (Table 2-2). -/
structure SiteSettings where
  offset         : Int
  grace          : Nat
  confirmDelay   : Nat
  notifyEachLate : Bool
  shift          : Nat
  deriving DecidableEq, Repr

/-- A confirm point (R32). -/
inductive ConfirmPoint where
  | notSet
  | setAt (minute : Nat)
  | firedToday
  deriving DecidableEq, Repr

/-- Plans 1..8, sites 0..2, and the confirm point of (RP k, site s) at place 3 (k - 1) + s. -/
structure Scanner where
  plans   : List DayPlan
  sites   : List SiteSettings
  confirm : List ConfirmPoint
  deriving DecidableEq, Repr

/-- Site day states (Table 2-4). -/
inductive SiteDayState where
  | closed | before | open | lateInForce
  deriving DecidableEq, Repr

/-! ### Attendance Engine -/

/-- A due point (R51). -/
structure DuePoint where
  point : Nat
  site  : Nat
  deriving DecidableEq, Repr

/-- A pupil record; three contact slots, each a contact index or absent (Table 3-1). -/
structure Pupil where
  roll            : Nat
  card            : Option Nat
  cohort          : Nat
  group           : Nat
  grace           : Nat
  slots           : List (Option Nat)
  latePoints      : Nat
  lateMinutes     : Nat
  unexplainedDays : Nat
  deriving DecidableEq, Repr

/-- A contact record (Table 3-2). -/
structure Contact where
  index     : Nat
  key       : Nat
  mayExcuse : Bool
  mayNotify : Bool
  pupils    : List Nat
  deriving DecidableEq, Repr

/-- Roster states (Table 4-2). -/
inductive RosterState where
  | notDue | expected | excusedAway | present | late | provisional | unexplained | explained | out
  deriving DecidableEq, Repr

/-- Bands (Table 4-1). -/
inductive Band where
  | onTime | grace | late | veryLate | lateExcused | desk
  deriving DecidableEq, Repr

/-- Sign-out reasons. -/
inductive SignOut where
  | appointment | ill | other
  deriving DecidableEq, Repr

/-- Kinds of excuse, in table order (R92). -/
inductive ExcuseKind where
  | absent | lateExpected | leavingEarly
  deriving DecidableEq, Repr

/-- Who gave an excuse; contact index 0 is a contact since dropped (Table 6-1). -/
inductive ExcuseSource where
  | desk
  | contact (index : Nat)
  deriving DecidableEq, Repr

/-- What an excuse has done today (Table 6-1). -/
inductive ExcuseState where
  | pending | applied | overridden
  deriving DecidableEq, Repr

/-- An excuse entry (Table 6-1). -/
structure Excuse where
  pupil  : Nat
  kind   : ExcuseKind
  first  : Nat
  last   : Nat
  minute : Nat
  source : ExcuseSource
  state  : ExcuseState
  deriving DecidableEq, Repr

/-- The excuse a roster entry refers to: the pupil's entry of that kind with that first day (R73, R92). -/
structure ExcuseRef where
  kind  : ExcuseKind
  first : Nat
  deriving DecidableEq, Repr

/-- A roster entry; `atBuild` says whether it was made at the roster build (Table 4-1, R58). -/
structure RosterEntry where
  roll          : Nat
  due           : Option DuePoint
  state         : RosterState
  band          : Option Band
  arrivalSecond : Option Nat
  returnSecond  : Option Nat
  signOut       : Option SignOut
  prior         : Option RosterState
  absenceTag    : Option Nat
  excuseRef     : Option ExcuseRef
  atBuild       : Bool
  deriving DecidableEq, Repr

inductive SweepKind where
  | close | confirm
  deriving DecidableEq, Repr

inductive SweepStatus where
  | running | waiting | paused
  deriving DecidableEq, Repr

/-- A sweep record (Table 4-3). -/
structure Sweep where
  kind   : SweepKind
  point  : Nat
  site   : Nat
  cursor : Nat
  status : SweepStatus
  deriving DecidableEq, Repr

/-- Day counts of one site (Table 4-8). -/
structure SiteCounts where
  due         : Nat
  expected    : Nat
  present     : Nat
  late        : Nat
  veryLate    : Nat
  provisional : Nat
  unexplained : Nat
  explained   : Nat
  excusedAway : Nat
  out         : Nat
  deriving DecidableEq, Repr

/-- The counts of R71: one record a site, the not-due count and the roster size. -/
structure DayCounts where
  sites      : List SiteCounts
  notDue     : Nat
  rosterSize : Nat
  deriving DecidableEq, Repr

/-- The copy a LATCHED snapshot latch holds (R72). -/
structure Snapshot where
  counts : DayCounts
  second : Nat
  deriving DecidableEq, Repr

inductive Direction where
  | inward | outward
  deriving DecidableEq, Repr

/-- Verdict codes (Table 5-4). -/
inductive Verdict where
  | onTime | grace | late | veryLate | lateExcused
  | alreadyIn | notExpected | returned | signedOut | notIn | unknownCard | untimed
  deriving DecidableEq, Repr

/-- A journal record, with the fields of Table 5-5 and no others: a worked case of chapter 5 has the due site carried here too, which
the table and R83 do not give (DEDUCED, log 50). -/
structure JournalRecord where
  serial           : Nat
  date             : Nat
  second           : Nat
  station          : Nat
  roll             : Nat
  card             : Nat
  direction        : Direction
  signOut          : Option SignOut
  verdict          : Verdict
  lateness         : Nat
  wrongSite        : Bool
  excuseOverridden : Bool
  keyed            : Bool
  deriving DecidableEq, Repr

/-- The Attendance Engine. Pupils and roster are in ascending roll number, contacts in ascending key (R46), excuses in the
order of R92, the journal oldest first; `roster = none` while none is held (R56), `latch = none` is RELEASED. -/
structure Attendance where
  pupils     : List Pupil
  contacts   : List Contact
  groups     : List (List (Option DuePoint))
  roster     : Option (List RosterEntry)
  latch      : Option Snapshot
  sweeps     : List Sweep
  excuses    : List Excuse
  journal    : List JournalRecord
  nextSerial : Nat
  lateStep   : Nat
  deriving DecidableEq, Repr

/-! ### Notice Unit -/

/-- Classes of notice (Table 7-2). -/
inductive NoticeClass where
  | urgent | routine | bulk
  deriving DecidableEq, Repr

/-- Acknowledgement codes (Table 6-4, Table 11-9). -/
inductive AckCode where
  | unknownPupil | accepted | notRecorded | notAuthorised | alreadyIn
  deriving DecidableEq, Repr

/-- A notice's kind with the parameters of that kind (Table 7-1, Table 7-2, Table 11-7). -/
inductive NoticeBody where
  | absentUnexplained
  | leftSite (reason : SignOut)
  | arrivedAfterCall (replyTo : Nat)
  | lateRecorded (band : Band) (minutes : Nat)
  | latePattern (points : Nat) (band : Band)
  | ackParent (code : AckCode) (intent roll first last : Nat)
  | bulletin (number : Nat)
  deriving DecidableEq, Repr

/-- A delivery outcome; REPLIED carries the reply code as received (R116). -/
inductive NoticeOutcome where
  | delivered
  | replied (code : Nat)
  | unreachable
  deriving DecidableEq, Repr

/-- A notice record (Table 7-1); its place is the list that holds it. -/
structure Notice where
  tag        : Nat
  body       : NoticeBody
  pupil      : Nat
  contact    : Nat
  key        : Nat
  step       : Nat
  subjectDay : Nat
  composed   : Nat
  age        : Nat
  kept       : Option NoticeOutcome
  deriving DecidableEq, Repr

/-- An entry of the awaiting-outcome table: a notice and the running seconds left (R115). -/
structure Awaiting where
  notice   : Notice
  deadline : Nat
  deriving DecidableEq, Repr

/-- Reasons of desk call entries (Table 7-6). -/
inductive CallReason where
  | noContact | queueFull | relayDown | noOutcome | unreachableAll
  | freeText | notAuthorised | notRecorded | parentUnaware
  deriving DecidableEq, Repr

/-- What a desk call entry holds (Table 7-5). -/
inductive CallContent where
  | notice (n : Notice) (outcome : Option NoticeOutcome) (superseded : Bool)
  | message (contact key roll intent dayCount minute number : Nat)
  | parentUnaware (pupil tag : Nat)
  deriving DecidableEq, Repr

/-- A desk call entry; the reason class is URGENT or ROUTINE (Table 7-5). -/
structure CallEntry where
  number  : Nat
  reason  : CallReason
  urgent  : Bool
  second  : Nat
  date    : Nat
  content : CallContent
  deriving DecidableEq, Repr

/-- The closing reasons the called-today record keeps (R121). -/
inductive CalledReason where
  | sentUntracked | delivered | replied
  deriving DecidableEq, Repr

/-- A filled place of the called-today record (R121). -/
structure CalledToday where
  roll    : Nat
  tag     : Nat
  reason  : CalledReason
  contact : Nat
  key     : Nat
  step    : Nat
  deriving DecidableEq, Repr

inductive FanoutStatus where
  | idle | running | paused
  deriving DecidableEq, Repr

inductive FanoutEnd where
  | notYet | complete | stopped | aborted
  deriving DecidableEq, Repr

/-- The fan-out record (Table 7-4). -/
structure Fanout where
  status   : FanoutStatus
  bulletin : Nat
  cohorts  : CohortSet
  sites    : SiteSet
  cursor   : Nat
  composed : Nat
  passedBy : Nat
  lastEnd  : FanoutEnd
  deriving DecidableEq, Repr

/-- The Notice Unit: the queue in its three class groups (R111), the awaiting-outcome table in order of entry, the desk
call list in list order (R125), the called-today record by roll number, counters and settings. -/
structure NoticeUnit where
  urgent         : List Notice
  routine        : List Notice
  bulk           : List Notice
  awaiting       : List Awaiting
  calls          : List CallEntry
  calledToday    : List CalledToday
  nextTag        : Nat
  nextCall       : Nat
  outcomeTimeout : Nat
  fallbackDelay  : Nat
  fanout         : Fanout
  deriving DecidableEq, Repr

/-! ### Relay Link -/

/-- Link states (Table 8-4). -/
inductive LinkState where
  | off | starting | up | down
  deriving DecidableEq, Repr

/-- Link settings (Table 8-11). -/
structure RelaySettings where
  runLength    : Nat
  threshold    : Nat
  resyncTime   : Nat
  attemptLimit : Nat
  silenceLimit : Nat
  autoRestart  : Nat
  autoStart    : Bool
  deriving DecidableEq, Repr

/-- A held slot of the dispatch ring (Table 8-3). -/
structure RingEntry where
  notice : Notice
  seq    : Nat
  place  : Nat
  deriving DecidableEq, Repr

/-- A run or replay in progress, with the frames of it that have yet to begin (R134, R146). -/
inductive TxActivity where
  | rest
  | rewindRun (left : Nat)
  | clearRun (left : Nat)
  | replay (left : List RingEntry)
  deriving DecidableEq, Repr

/-- A frame the EO-3200 sends on the relay line (Table 8-2). -/
inductive RelayFrame where
  | note (seq place mark : Nat) (notice : Notice)
  | mark (mark : Nat)
  | resyncRewind (mark : Nat)
  | resyncClear (mark : Nat)
  | start
  | idle (mark : Nat)
  deriving DecidableEq, Repr

/-- The content of a MSG frame (Table 11-7). -/
inductive MsgContent where
  | parent (key roll intent dayCount minute number : Nat)
  | outcome (tag outcome code : Nat)
  | unknownKind
  deriving DecidableEq, Repr

/-- A message of the rollover hold with the place of its frame (R19). -/
structure HeldMessage where
  place   : Nat
  content : MsgContent
  deriving DecidableEq, Repr

/-- The Relay Link (Tables 8-3, 8-5, 8-11). The ring is in ring order from the read position. `silence` is the silence
timer in running seconds, none when stopped; `downFor` the running seconds since the link entered DOWN. -/
structure RelayLink where
  link         : LinkState
  settings     : RelaySettings
  lampAuto     : Bool
  lampManual   : Bool
  ring         : List RingEntry
  readPos      : Nat
  sendSeq      : Nat
  lastSeq      : Nat
  lastPlace    : Nat
  collected    : Nat
  hold         : Bool
  rewindCount  : Nat
  clearCount   : Nat
  resyncTimer  : Bool
  attempts     : Nat
  startOwed    : Bool
  runOwed      : Bool
  rewindOwed   : Bool
  furtherOwed  : Bool
  activity     : TxActivity
  markHold     : Option Nat
  restartGuard : Bool
  rolloverHold : List HeldMessage
  silence      : Option Nat
  downFor      : Nat
  frame        : Option RelayFrame
  lastMark     : Nat
  markDue      : Bool
  idleDue      : Bool
  deriving DecidableEq, Repr

/-! ### Sounder Unit -/

inductive PatternMode where
  | ring | pulse | warble | chirp
  deriving DecidableEq, Repr

/-- A pattern entry; fields its mode does not use are held as loaded (Table 9-2). -/
structure Pattern where
  mode : PatternMode
  n    : Nat
  p    : Nat
  k    : Nat
  r    : Nat
  d    : Nat
  deriving DecidableEq, Repr

/-- What a RUNNING generator plays (Table 9-3). -/
structure Playing where
  number  : Nat
  copy    : Pattern
  elapsed : Nat
  deriving DecidableEq, Repr

/-- A generator: IDLE when nothing plays; a waiting slot one deep (Table 9-3). -/
structure Generator where
  playing : Option Playing
  waiting : Option Nat
  deriving DecidableEq, Repr

/-- A route entry; `source = none` is NONE, `steadyFault` the fault level STEADY (Table 9-5). -/
structure RouteEntry where
  source        : Option Nat
  quietEligible : Bool
  steadyFault   : Bool
  deriving DecidableEq, Repr

inductive Bank where
  | a | b
  deriving DecidableEq, Repr

/-- An ACTIVE alert: its zones and the warble's phase 0..9 in units (R159). -/
structure Alert where
  zones : ZoneSet
  phase : Nat
  deriving DecidableEq, Repr

/-- Supervision of one zone; `timer` in running seconds, none when stopped (Table 9-7). -/
structure ZoneSupervision where
  supervised : Bool
  fault      : Bool
  bad        : Nat
  good       : Nat
  timer      : Option Nat
  deriving DecidableEq, Repr

/-- The Sounder Unit. `alertLevel` and `paKeyHeld` are the debounced inputs (R159, R160). -/
structure Sounder where
  patterns        : List Pattern
  generators      : List Generator
  bankA           : List RouteEntry
  bankB           : List RouteEntry
  active          : Bank
  quiet           : ZoneSet
  alert           : Option Alert
  alertLevel      : Bool
  alertInputZones : ZoneSet
  paRequest       : ZoneSet
  paKeyHeld       : Bool
  paKeyZones      : ZoneSet
  zones           : List ZoneSupervision
  deriving DecidableEq, Repr

/-- Zone line levels (Table 9-1), and the output of a generator. -/
inductive Level where
  | silent | steady | toneA | toneB | pa
  deriving DecidableEq, Repr

/-- A zone's demand (R161). -/
inductive Demand where
  | alertWarble
  | paLine
  | silent
  | generator (number : Nat)
  deriving DecidableEq, Repr

/-! ### Gate Bus -/

inductive StationState where
  | disabled | searching | syncing | active | lost
  deriving DecidableEq, Repr

/-- A verdict record (R88); `dueSite` is given when WRONG_SITE is set. -/
structure VerdictRecord where
  verdict  : Verdict
  roll     : Nat
  lateness : Nat
  dueSite  : Option Nat
  second   : Nat
  deriving DecidableEq, Repr

/-- A verdict with the arrival sequence it answers (Table 10-1). -/
structure SeqVerdict where
  seq     : Nat
  verdict : VerdictRecord
  deriving DecidableEq, Repr

/-- A station record (Table 10-1); a station is enabled when its state is not DISABLED (R166). -/
structure Station where
  state       : StationState
  site        : Nat
  misses      : Nat
  stored      : List SeqVerdict
  owed        : List SeqVerdict
  missedTotal : Nat
  repeatTotal : Nat
  deriving DecidableEq, Repr

/-- A frame the EO-3200 sends on the gate bus (R168, R169). -/
inductive GateFrame where
  | broadcast (day second : Nat) (validity : Validity) (schoolDay : Bool) (states : List SiteDayState)
  | poll (address : Nat) (verdicts : List SeqVerdict)
  deriving DecidableEq, Repr

/-- A record of a good reply that has not been taken yet (R171). -/
structure ReplyRecord where
  station : Nat
  record  : GateRecord
  deriving DecidableEq, Repr

/-- The Gate Bus: stations 1..8, the round counter, the address the round has reached (0 at its broadcast, 9 past the last), the
poll in flight, whether its reply is to be dropped, the station having been disabled since the poll (R173), the records of a good reply
still to be taken, and the last frame sent. -/
structure GateBus where
  stations : List Station
  round    : Nat
  reached  : Nat
  inFlight : Option Nat
  replyDropped : Bool
  records  : List ReplyRecord
  frame    : Option GateFrame
  deriving DecidableEq, Repr

/-! ### Office Port -/

/-- Attention causes, in the order of Table 11-3. -/
inductive Cause where
  | clock | day | journal | calls | callsFull | fanout | link | zone | alert | station | overrun | restarted
  deriving DecidableEq, Repr

/-- A set of causes: the cause of code c is bit c - 1 (R179, R183). -/
abbrev CauseSet := BitVec 12

/-- Result codes (Table 11-1). -/
inductive Result where
  | ok | range | busy | locked | full | duplicate | notFound | state | tooLate | unknown | length
  deriving DecidableEq, Repr

/-- Reply flags (Table 11-1). -/
structure ReplyFlags where
  clamped        : Bool := false
  alreadyLatched : Bool := false
  latched        : Bool := false
  noRoster       : Bool := false
  releaseIgnored : Bool := false
  deriving DecidableEq, Repr

/-- What an excuse application did to the roster entry (R65). -/
inductive RosterResult where
  | changed | unchanged | alreadyIn
  deriving DecidableEq, Repr

/-- The reply to QUERY_TIME (R5); the rollover is absent when IDLE. -/
structure TimeReply where
  date        : Nat
  second      : Nat
  tick        : Nat
  validity    : Validity
  disciplined : Bool
  discipline  : DisciplineState
  balance     : Int
  lastError   : Option Int
  cycleLength : Nat
  cycleDay    : Nat
  today       : DayPlanChoice
  rollover    : Option (RolloverKind × Nat)
  exceptions  : Nat
  deriving DecidableEq, Repr

/-- The reply to QUERY_DAY (R39). -/
structure DayReply where
  today      : DayPlanChoice
  schoolDay  : Bool
  sites      : List SiteSettings
  states     : List SiteDayState
  confirm    : List ConfirmPoint
  regStarted : List Bool
  deriving DecidableEq, Repr

/-- Notice counts as QUERY_NOTICES gives them (R127). -/
structure NoticeCounts where
  queue    : List Nat
  awaiting : Nat
  ring     : List Nat
  calls    : Nat
  nextTag  : Nat
  deriving DecidableEq, Repr

/-- Where a notice stands (Table 7-1). -/
inductive Place where
  | queue | ring | awaiting | calls | closed
  deriving DecidableEq, Repr

/-- The reply to QUERY_LINK (R150). -/
structure LinkReply where
  link         : LinkState
  lampAuto     : Bool
  lampLit      : Bool
  hold         : Bool
  rewindCount  : Nat
  clearCount   : Nat
  attempts     : Nat
  start        : Bool
  rewindRun    : Bool
  rewind       : Bool
  replay       : Bool
  readPos      : Nat
  writePos     : Nat
  occupancy    : Nat
  ring         : List Nat
  sendSeq      : Nat
  lastSeq      : Nat
  lastPlace    : Nat
  collected    : Nat
  markHold     : Option Nat
  held         : Nat
  autoRestart  : Option Nat
  deriving DecidableEq, Repr

/-- One generator as QUERY_SOUNDER gives it (R164). -/
structure GeneratorReply where
  number  : Option Nat
  mode    : Option PatternMode
  elapsed : Nat
  length  : Nat
  output  : Level
  waiting : Option Nat
  deriving DecidableEq, Repr

/-- The reply to QUERY_SOUNDER (R164). -/
structure SounderReply where
  generators      : List GeneratorReply
  alert           : Option ZoneSet
  alertLevel      : Bool
  alertInputZones : ZoneSet
  paRequest       : ZoneSet
  paKeyHeld       : Bool
  paKeyZones      : ZoneSet
  active          : Bank
  deriving DecidableEq, Repr

/-- One zone as QUERY_ZONES gives it (R164). -/
structure ZoneReply where
  route      : RouteEntry
  quiet      : Bool
  inAlert    : Bool
  inPa       : Bool
  demand     : Demand
  engaged    : Bool
  level      : Level
  supervised : Bool
  fault      : Bool
  bad        : Nat
  good       : Nat
  deriving DecidableEq, Repr

/-- One station as QUERY_STATIONS gives it (R174). -/
structure StationReply where
  enabled      : Bool
  site         : Nat
  state        : StationState
  misses       : Nat
  lastAccepted : Option Nat
  stored       : Nat
  owed         : Nat
  missedTotal  : Nat
  repeatTotal  : Nat
  deriving DecidableEq, Repr

/-- The reply to STATUS (R181). -/
structure StatusReply where
  causes      : CauseSet
  zones       : ZoneSet
  stations    : StationSet
  validity    : Validity
  discipline  : DisciplineState
  rollover    : Option (RolloverKind × Nat)
  link        : LinkState
  alertActive : Bool
  calls       : Nat
  unread      : Nat
  lost        : Nat
  faults      : ZoneSet
  states      : List StationState
  deriving DecidableEq, Repr

/-- Reply bodies, each the fields its request's rule gives (R178). -/
inductive ReplyBody where
  | empty
  | time (t : TimeReply)
  | exceptions (l : List CalException)
  | calendar (rules : List CalRule) (weekdays : List DayPlanChoice) (cycleLength : Nat)
  | plan (entries : List PlanEntry) (pending : Bool) (flags : List (SiteSet × SiteSet))
  | day (r : DayReply)
  | pupil (p : Pupil) (slots : List (Option (Nat × Nat))) (rollCount : Nat)
  | rollNumber (roll : Nat)
  | contactIndex (index : Nat)
  | contact (c : Contact)
  | contacts (l : List Contact) (held : Nat)
  | group (entries : List (Option DuePoint))
  | recordCount (count : Nat)
  | mark (before after : RosterState)
  | roster (entries : List RosterEntry) (next : Nat)
  | sweeps (l : List Sweep)
  | snapshotSecond (second : Nat)
  | counts (c : DayCounts) (second : Option Nat)
  | lateStep (step : Nat)
  | excuseAdded (first last count : Nat) (result : RosterResult)
  | excuseRemoved (first last : Nat)
  | excuses (l : List (Excuse × Nat)) (count : Nat)
  | fanout (f : Fanout)
  | callClosed (isNotice : Bool) (reason : CallReason)
  | calls (l : List CallEntry) (held : Nat)
  | notice (n : Notice) (place : Place) (call deadline : Option Nat)
  | noticeClosed (pupil : Nat) (reason : CalledReason)
  | notices (place : Place) (l : List (Notice × Option Nat)) (counts : NoticeCounts)
  | noticeTimes (outcomeTimeout fallbackDelay : Nat)
  | relaySettings (s : RelaySettings)
  | link (r : LinkReply)
  | pattern (p : Pattern)
  | route (entries : List RouteEntry) (active : Bank)
  | sounder (r : SounderReply)
  | zones (l : List ZoneReply)
  | stations (round : Nat) (suspended : Bool) (l : List StationReply)
  | journal (l : List JournalRecord) (unread lost : Nat)
  | status (r : StatusReply)
  deriving DecidableEq, Repr

/-- The owning block's answer to a request (R178). -/
structure Answer where
  result : Result
  flags  : ReplyFlags
  body   : ReplyBody
  deriving DecidableEq, Repr

/-- The reply of the request in hand: the request's tag and code and the answer (R177). -/
structure Reply where
  tag    : Nat
  code   : Nat
  answer : Answer
  deriving DecidableEq, Repr

/-- The Office Port (Table 11-4). -/
structure OfficePort where
  inHand          : Option Reply
  causes          : CauseSet
  mask            : CauseSet
  changedZones    : ZoneSet
  changedStations : StationSet
  readCursor      : Nat
  lostCount       : Nat
  deriving DecidableEq, Repr

/-! ### The device and the state -/

/-- The EO-3200: its blocks, the main supply, the baud strap as read at power-up, and the sense lines (a set bit is a GOOD
circuit). -/
structure Device where
  mainPower : Bool
  fastBaud  : Bool
  sense     : ZoneSet
  tb        : TimeBase
  ss        : Scanner
  ae        : Attendance
  nu        : NoticeUnit
  rl        : RelayLink
  su        : Sounder
  gb        : GateBus
  op        : OfficePort
  deriving DecidableEq, Repr

/-- The state: the device, and the commands waiting, first in, first out. -/
structure State where
  dev     : Device
  pending : List Instr
  deriving DecidableEq, Repr

/-! ### Reset: the values after retention loss -/

/-- R23, Table 1-8. An unused rule has no weekday; its cycle day and outcome, which the table does not give, are ANY and CLOSED (DESIGN
CHOICE, log 39). -/
def TimeBase.reset : TimeBase where
  date := 0
  second := 0
  tick := 0
  validity := .invalid
  disciplined := false
  discipline := .unlocked
  balance := 0
  slewPhase := 0
  candidate := none
  lockCount := 0
  unlockCount := 0
  markSilence := none
  markSeen := false
  lastError := none
  cycleLength := 1
  cycleDay := 1
  today := .closed
  exceptions := []
  rules := List.replicate 8 ⟨0, none, .closed⟩
  weekdays := List.replicate 7 .closed
  rollover := none
  missed := 0
  runningPhase := 0

/-- R40, Table 2-5. -/
def Scanner.reset : Scanner where
  plans := List.replicate 8 ⟨[], [], false⟩
  sites := List.replicate 3 ⟨0, 0, 20, false, 0⟩
  confirm := List.replicate 12 .notSet

/-- R55, R74, R91, R107. -/
def Attendance.reset : Attendance where
  pupils := []
  contacts := []
  groups := List.replicate 16 (List.replicate 10 none)
  roster := none
  latch := none
  sweeps := []
  excuses := []
  journal := []
  nextSerial := 1
  lateStep := 0

/-- R128, Table 7-7; the idle fan-out record's other fields are 0 (DESIGN CHOICE, log 39). -/
def NoticeUnit.reset : NoticeUnit where
  urgent := []
  routine := []
  bulk := []
  awaiting := []
  calls := []
  calledToday := []
  nextTag := 1
  nextCall := 1
  outcomeTimeout := 20
  fallbackDelay := 10
  fanout := ⟨.idle, 0, 0, 0, 0, 0, 0, .notYet⟩

/-- R148, Table 8-11. -/
def RelaySettings.reset : RelaySettings where
  runLength := 8
  threshold := 4
  resyncTime := 400
  attemptLimit := 5
  silenceLimit := 5
  autoRestart := 60
  autoStart := false

/-- R151, Table 8-12. The restart guard and the mark of the last frame sent, of which the table gives no value, are clear and 0
(DESIGN CHOICE, log 40). -/
def RelayLink.reset : RelayLink where
  link := .off
  settings := RelaySettings.reset
  lampAuto := true
  lampManual := false
  ring := []
  readPos := 0
  sendSeq := 0
  lastSeq := 0
  lastPlace := 0
  collected := 0
  hold := false
  rewindCount := 0
  clearCount := 0
  resyncTimer := false
  attempts := 0
  startOwed := false
  runOwed := false
  rewindOwed := false
  furtherOwed := false
  activity := .rest
  markHold := none
  restartGuard := false
  rolloverHold := []
  silence := none
  downFor := 0
  frame := none
  lastMark := 0
  markDue := false
  idleDue := false

/-- A pattern entry after retention loss: RING with N = 30 (R165); its unused fields are 0 (DESIGN CHOICE, log 39). -/
def Pattern.reset : Pattern := ⟨.ring, 30, 0, 0, 0, 0⟩
/-- An IDLE generator with an empty slot. -/
def Generator.reset : Generator := ⟨none, none⟩
/-- A route entry after retention loss (R165). -/
def RouteEntry.reset : RouteEntry := ⟨none, false, false⟩
/-- An unsupervised NORMAL zone (R165). -/
def ZoneSupervision.reset : ZoneSupervision := ⟨false, false, 0, 0, none⟩

/-- R165, Table 9-9; the two inputs inactive (DESIGN CHOICE, log 4). -/
def Sounder.reset : Sounder where
  patterns := List.replicate 16 Pattern.reset
  generators := List.replicate 4 Generator.reset
  bankA := List.replicate 24 RouteEntry.reset
  bankB := List.replicate 24 RouteEntry.reset
  active := .a
  quiet := 0
  alert := none
  alertLevel := false
  alertInputZones := BitVec.allOnes 24
  paRequest := 0
  paKeyHeld := false
  paKeyZones := BitVec.allOnes 24
  zones := List.replicate 24 ZoneSupervision.reset

/-- A DISABLED station (R175). -/
def Station.reset : Station := ⟨.disabled, 0, 0, [], [], 0, 0⟩

/-- R175, Table 10-4; a round is due to begin. -/
def GateBus.reset : GateBus where
  stations := List.replicate 8 Station.reset
  round := 0
  reached := 9
  inFlight := none
  replyDropped := false
  records := []
  frame := none

/-- R182, Table 11-4: RESTARTED only, bit 11. -/
def OfficePort.reset : OfficePort where
  inHand := none
  causes := 0x800#12
  mask := BitVec.allOnes 12
  changedZones := 0
  changedStations := 0
  readCursor := 1
  lostCount := 0

/-- The device after retention loss, main power on; strap low and all circuits GOOD (DESIGN CHOICE, logs 4 and 5). -/
def Device.reset : Device where
  mainPower := true
  fastBaud := false
  sense := BitVec.allOnes 24
  tb := TimeBase.reset
  ss := Scanner.reset
  ae := Attendance.reset
  nu := NoticeUnit.reset
  rl := RelayLink.reset
  su := Sounder.reset
  gb := GateBus.reset
  op := OfficePort.reset

/-- The machine right after reset: retention lost, no command waiting. -/
def State.reset : State where
  dev := Device.reset
  pending := []

end Sys2Proof.Machine
end

