-- ==== Sys2Proof/Machine/Flags.lean ====
section
/-! DEFINITION. The attention machine: the cause set, the attention line and the change set (R179, R180). -/
namespace Sys2Proof.Machine

/-- The bit of a cause: position in Table 11-3 less one (R183). -/
def Cause.index : Cause → Nat
  | .clock => 0
  | .day => 1
  | .journal => 2
  | .calls => 3
  | .callsFull => 4
  | .fanout => 5
  | .link => 6
  | .zone => 7
  | .alert => 8
  | .station => 9
  | .overrun => 10
  | .restarted => 11

/-- The set that holds one cause. -/
def Cause.bit (c : Cause) : CauseSet := 1#12 <<< c.index

/-- Whether a cause is held. -/
def OfficePort.holds (op : OfficePort) (c : Cause) : Bool := op.causes.getLsbD c.index

/-- The attention line: asserted while the cause set holds a cause of the mask (R179). -/
def OfficePort.attention (op : OfficePort) : Bool := op.causes &&& op.mask != 0

/-- Sets a cause; a cause already held stays held (R179). -/
def Device.raise (c : Cause) (d : Device) : Device := { d with op.causes := d.op.causes ||| c.bit }

/-- Marks zone z, 1..24, in the change set (R180). -/
def Device.markZone (z : Nat) (d : Device) : Device :=
  { d with op.changedZones := d.op.changedZones ||| (1#24 <<< (z - 1)) }

/-- Marks station a, 1..8, in the change set (R180). -/
def Device.markStation (a : Nat) (d : Device) : Device :=
  { d with op.changedStations := d.op.changedStations ||| (1#8 <<< (a - 1)) }

end Sys2Proof.Machine
end

