-- ==== Sys2Proof/Machine/Ops.lean ====
section
/-! DEFINITION. The operations every block uses: ordered tables, saturating counters, how a command acts on the device,
and how a request is taken and answered (R177, R178). -/
namespace Sys2Proof.Machine

/-! ### Tables -/

/-- Puts `a` before the first member that must follow it; members equal in order stand before it. -/
def insertBefore {α : Type} (before : α → α → Bool) (a : α) : List α → List α
  | [] => [a]
  | b :: l => if before a b then a :: b :: l else b :: insertBefore before a l

/-- Sorts by insertion; members equal in order keep their order. -/
def sortBy {α : Type} (before : α → α → Bool) (l : List α) : List α :=
  l.foldl (fun acc a => insertBefore before a acc) []

/-- A numbered table's member i, counted from 1. -/
def nth {α : Type} (l : List α) (i : Nat) (dflt : α) : α := l.getD (i - 1) dflt

/-- Replaces a numbered table's member i, counted from 1. -/
def setNth {α : Type} (l : List α) (i : Nat) (a : α) : List α := if i = 0 then l else l.set (i - 1) a

/-- A counter that stops at its limit. -/
def satAdd (limit a b : Nat) : Nat := min limit (a + b)

/-- The number after n in a count that runs 1..limit and wraps to 1. -/
def nextOf (limit n : Nat) : Nat := if limit ≤ n then 1 else n + 1

/-- The first number from n on, in a count that runs 1..limit and wraps to 1, that is not held. One more try than
numbers held always finds it. -/
def firstFree (limit : Nat) (held : List Nat) : Nat → Nat → Nat
  | 0, n => n
  | fuel + 1, n => if held.contains n then firstFree limit held fuel (nextOf limit n) else n

/-- Whether m holds no bit at or above width: every member it names exists. -/
def fitsMask (width m : Nat) : Bool := decide (m < 2 ^ width)

/-- Does f n times. -/
def repeated {α : Type} (f : α → α) : Nat → α → α
  | 0, a => a
  | n + 1, a => repeated f n (f a)

/-! ### How a command acts -/

/-- Every command of the block is answered: it takes the device to its next condition and leaves the queue alone. -/
def act (f : Device → Device) (s : State) : Host.Outcome State Fault Refusal := .next { s with dev := f s.dev }

/-- The other blocks are unpowered while main power is off, so nothing reaches them then (section 1.6). -/
def powered (f : Device → Device) (d : Device) : Device := if d.mainPower then f d else d

/-- Whether a rollover is ACTIVE (R16). -/
def Device.rolling (d : Device) : Bool := d.tb.rollover.isSome

/-- Whether the clock is VALID (R2). -/
def Device.clockValid (d : Device) : Bool := d.tb.validity == .valid

/-- The current minute of day. -/
def Device.minute (d : Device) : Nat := d.tb.second / 60

/-! ### Requests -/

/-- An OK answer with its body. -/
def ok (body : ReplyBody) : Answer := ⟨.ok, {}, body⟩

/-- An OK answer that says whether a value was clamped. -/
def okClamped (clamped : Bool) (body : ReplyBody) : Answer := ⟨.ok, { clamped := clamped }, body⟩

/-- A refusal: an empty body, and no state changes (R178). -/
def refuse (r : Result) (d : Device) : Answer × Device := (⟨r, {}, .empty⟩, d)

/-- Makes the checks of a request in order: the first that fails refuses it and nothing changes (R178). -/
def checked (d : Device) : List (Bool × Result) → Answer × Device → Answer × Device
  | [], taken => taken
  | (failed, r) :: rest, taken => if failed then refuse r d else checked d rest taken

/-- Frames the answer as the reply of the request now in hand (R177). -/
def Device.answer (tag code : Nat) (a : Answer) (d : Device) : Device :=
  { d with op.inHand := some ⟨tag, code, a⟩ }

/-- A good request frame: taken by the owning block when no request is in hand; discarded with OVERRUN otherwise (R177). -/
def request (code tag : Nat) (serve : Device → Answer × Device) (d : Device) : Device :=
  powered (fun d =>
    match d.op.inHand with
    | some _ => d.raise .overrun
    | none => ((serve d).2).answer tag code (serve d).1) d

end Sys2Proof.Machine
end

