-- ==== Sys2Proof/Machine/Operands.lean ====
section
/-! DEFINITION. What the numbers a request or frame carries stand for (R183): enumeration codes, plan fields, sets, two-byte
start group entries, and the bytes of a MSG body (Table 11-7). `none` is a value outside the field's table, which a request
refuses RANGE and a frame treats as its chapter says of an unknown value. -/
namespace Sys2Proof.Machine

/-- A plan field that must name a plan or CLOSED: 1..8, or 255 (R183). -/
def planChoice (n : Nat) : Option DayPlanChoice :=
  if n = 255 then some .closed else if 1 ≤ n ∧ n ≤ 8 then some (.plan n) else none

/-- An exception's outcome: 0 is no override (Table 1-4). -/
def exceptionOutcome (n : Nat) : Option (Option DayPlanChoice) :=
  if n = 0 then some none else (planChoice n).map some

/-- A field that is set or clear: set 1, clear 0 (R183). -/
def flagCode : Nat → Option Bool
  | 0 => some false
  | 1 => some true
  | _ => none

/-- ENABLED 1, DISABLED 2. -/
def enabledCode : Nat → Option Bool
  | 1 => some true
  | 2 => some false
  | _ => none

/-- AUTO 1, MANUAL 2 (R149). -/
def autoCode : Nat → Option Bool
  | 1 => some true
  | 2 => some false
  | _ => none

/-- ON 1, OFF 2 (R149). -/
def onCode : Nat → Option Bool
  | 1 => some true
  | 2 => some false
  | _ => none

/-- A bank: A 1, B 2. -/
def bankCode : Nat → Option Bank
  | 1 => some .a
  | 2 => some .b
  | _ => none

/-- A copy of a plan: ACTIVE 1, STAGED 2; true is ACTIVE (R26). -/
def copyCode : Nat → Option Bool
  | 1 => some true
  | 2 => some false
  | _ => none

/-- Kinds of excuse in the order of Table 6-1. -/
def excuseKindCode : Nat → Option ExcuseKind
  | 1 => some .absent
  | 2 => some .lateExpected
  | 3 => some .leavingEarly
  | _ => none

/-- Desk marks in the order of Table 4-6, as the state each makes. -/
def markCode : Nat → Option RosterState
  | 1 => some .present
  | 2 => some .explained
  | 3 => some .excusedAway
  | _ => none

/-- Pattern modes in the order of Table 9-2. -/
def modeCode : Nat → Option PatternMode
  | 1 => some .ring
  | 2 => some .pulse
  | 3 => some .warble
  | 4 => some .chirp
  | _ => none

/-- A route source: NONE 1, PG1..PG4 2..5 (Table 9-5). -/
def sourceCode (n : Nat) : Option (Option Nat) :=
  if n = 1 then some none else if 2 ≤ n ∧ n ≤ 5 then some (some (n - 1)) else none

/-- A fault level: OFF 1, STEADY 2; true is STEADY (Table 9-5). -/
def faultLevelCode : Nat → Option Bool
  | 1 => some false
  | 2 => some true
  | _ => none

/-- Sign-out reasons (Table 11-9); any other value of an OUT record is taken as OTHER (R75). -/
def signOutCode : Nat → SignOut
  | 1 => .appointment
  | 2 => .ill
  | _ => .other

/-- Where QUERY_NOTICES looks, by the places of Table 7-1: QUEUE 1, AWAITING 3; true is QUEUE (R127). -/
def noticesPlaceCode : Nat → Option Bool
  | 1 => some true
  | 3 => some false
  | _ => none

/-- Roster states in the order of Table 4-2, counted from 1. -/
def RosterState.code : RosterState → Nat
  | .notDue => 1
  | .expected => 2
  | .excusedAway => 3
  | .present => 4
  | .late => 5
  | .provisional => 6
  | .unexplained => 7
  | .explained => 8
  | .out => 9

/-- A start group entry: `some none` is NOT_DUE, sent as point 0 with site 0 (R183). -/
def groupEntry (e : GroupEntryOp) : Option (Option DuePoint) :=
  if e.point = 0 ∧ e.site = 0 then some none
  else if 1 ≤ e.point ∧ e.point ≤ 4 ∧ e.site ≤ 2 then some (some ⟨e.point, e.site⟩)
  else none

/-- A plan entry's action with the fields it uses: RING 1, ROUTE_SWAP 2, REG_START 3, REG_CLOSE 4 (Table 2-1). -/
def planAction (e : PlanEntryOp) : Option PlanAction :=
  match e.action with
  | 1 => if 1 ≤ e.generator ∧ e.generator ≤ 4 ∧ 1 ≤ e.pattern ∧ e.pattern ≤ 16 then some (.ring e.generator e.pattern) else none
  | 2 => if e.siteMask = 1 ∨ e.siteMask = 2 ∨ e.siteMask = 4 then some .routeSwap else none
  | 3 => if 1 ≤ e.point ∧ e.point ≤ 4 then some (.regStart e.point) else none
  | 4 => if 1 ≤ e.point ∧ e.point ≤ 4 then some (.regClose e.point) else none
  | _ => none

/-- A plan entry that passes the first check of R24. -/
def planEntry (e : PlanEntryOp) : Option PlanEntry :=
  if e.minute ≤ Config.lastMinute ∧ e.siteMask ≠ 0 ∧ fitsMask 3 e.siteMask then
    (planAction e).map fun a => ⟨e.minute, BitVec.ofNat 3 e.siteMask, a⟩
  else none

/-- A route entry whose fields are values of Table 9-5. -/
def routeEntry (e : RouteEntryOp) : Option RouteEntry :=
  match sourceCode e.source, flagCode e.quietEligible, faultLevelCode e.faultLevel with
  | some src, some quiet, some lvl => some ⟨src, quiet, lvl⟩
  | _, _, _ => none

/-- Decodes every member of a list, or none. -/
def decodeAll {α β : Type} (f : α → Option β) : List α → Option (List β)
  | [] => some []
  | a :: l =>
    match f a, decodeAll f l with
    | some b, some bs => some (b :: bs)
    | _, _ => none

/-- Clamps into lo..hi. -/
def clampNat (lo hi n : Nat) : Nat := max lo (min hi n)

/-- Clamps an integer into lo..hi. -/
def clampInt (lo hi n : Int) : Int := max lo (min hi n)

/-- A number sent most significant byte first (R183). -/
def bigEndian (bytes : List Byte) : Nat := bytes.foldl (fun acc b => acc * 256 + b.toNat) 0

/-- Intent FREE_TEXT (Table 11-9). -/
def freeTextIntent : Nat := 5

/-- A MSG body (Table 11-7), none when its length fails the test of R130: a known content kind has its own length, an
unknown one any of 1..48. -/
def msgContent (body : List Byte) : Option MsgContent :=
  match body with
  | [] => none
  | kind :: rest =>
    if 48 < body.length then none
    else if kind = 1#8 then
      match rest with
      | [k0, k1, k2, k3, r0, r1, i, c, m0, m1, n0, n1] =>
        some (.parent (bigEndian [k0, k1, k2, k3]) (bigEndian [r0, r1]) i.toNat c.toNat (bigEndian [m0, m1]) (bigEndian [n0, n1]))
      | _ => none
    else if kind = 2#8 then
      match rest with
      | [t0, t1, o, c] => some (.outcome (bigEndian [t0, t1]) o.toNat c.toNat)
      | _ => none
    else some .unknownKind

/-- An outcome's value (Table 11-7). -/
def outcomeCode (value code : Nat) : Option NoticeOutcome :=
  match value with
  | 1 => some .delivered
  | 2 => some (.replied code)
  | 3 => some .unreachable
  | _ => none

end Sys2Proof.Machine
end

