-- ==== Sys2Proof/Machine/Roll.lean ====
section
/-! DEFINITION. Reading and changing single records of the roll, the contact table, the excuse table and the roster, and the
day counts. The requests of chapter 3 are in Machine/RollRequests.lean. -/
namespace Sys2Proof.Machine

/-! ### Pupils and contacts -/

/-- The record of a roll number (R44). -/
def Attendance.pupil (ae : Attendance) (roll : Nat) : Option Pupil := ae.pupils.find? (·.roll == roll)

/-- The pupil a card maps to: the card index is a view of the pupil records (R44). -/
def Attendance.cardHolder (ae : Attendance) (card : Nat) : Option Pupil := ae.pupils.find? (·.card == some card)

/-- The contact at an index. -/
def Attendance.contactAt (ae : Attendance) (index : Nat) : Option Contact := ae.contacts.find? (·.index == index)

/-- The contact of a key, found in the key order (R46). -/
def Attendance.contactOf (ae : Attendance) (key : Nat) : Option Contact := ae.contacts.find? (·.key == key)

/-- Changes the record of a roll number. -/
def Attendance.onPupil (roll : Nat) (f : Pupil → Pupil) (ae : Attendance) : Attendance :=
  { ae with pupils := ae.pupils.map fun p => if p.roll == roll then f p else p }

/-- The first slot after `after`, in slot order, whose contact has MAY_NOTIFY, with its number (R110, R117). -/
def notifySlot (ae : Attendance) (after : Nat) : Nat → List (Option Nat) → Option (Nat × Contact)
  | _, [] => none
  | i, slot :: rest =>
    match slot.bind ae.contactAt with
    | some c => if after < i && c.mayNotify then some (i, c) else notifySlot ae after (i + 1) rest
    | none => notifySlot ae after (i + 1) rest

/-- The slot and contact a notice about the pupil goes to after a contact step; step 0 looks from the first slot (R110). -/
def Attendance.notifiable (ae : Attendance) (roll after : Nat) : Option (Nat × Contact) :=
  (ae.pupil roll).bind fun p => notifySlot ae after 1 p.slots

/-- A start group's entry for a cycle day (R50). -/
def Attendance.groupEntry (ae : Attendance) (group cycleDay : Nat) : Option DuePoint :=
  nth (ae.groups.getD group []) cycleDay none

/-- The due point of a pupil for a cycle day (R51). -/
def Attendance.duePoint (ae : Attendance) (p : Pupil) (cycleDay : Nat) : Option DuePoint := ae.groupEntry p.group cycleDay

/-! ### Excuses -/

/-- Whether an excuse covers a date (section 6.1). -/
def Excuse.covers (x : Excuse) (date : Nat) : Bool := x.first ≤ date && date ≤ x.last

/-- The excuse of a pupil and kind that covers a date; at most one does (R92). -/
def Attendance.excuseFor (ae : Attendance) (roll : Nat) (kind : ExcuseKind) (date : Nat) : Option Excuse :=
  ae.excuses.find? fun x => x.pupil == roll && x.kind == kind && x.covers date

/-- Marks the excuse that a reference of a pupil names. -/
def Attendance.markExcuse (roll : Nat) (ref : ExcuseRef) (st : ExcuseState) (ae : Attendance) : Attendance :=
  { ae with excuses := ae.excuses.map fun x =>
      if x.pupil == roll && x.kind == ref.kind && x.first == ref.first then { x with state := st } else x }

/-- The reference that names an excuse (R92). -/
def Excuse.ref (x : Excuse) : ExcuseRef := ⟨x.kind, x.first⟩

/-! ### The roster -/

/-- The roster entry of a roll number, if a roster is held and has one (R56). -/
def Attendance.entry (ae : Attendance) (roll : Nat) : Option RosterEntry :=
  ae.roster.bind fun l => l.find? (·.roll == roll)

/-- Changes the roster entry of a roll number. -/
def Attendance.onEntry (roll : Nat) (f : RosterEntry → RosterEntry) (ae : Attendance) : Attendance :=
  { ae with roster := ae.roster.map fun l => l.map fun e => if e.roll == roll then f e else e }

/-- The device with its Attendance Engine changed. -/
def Device.onAe (f : Attendance → Attendance) (d : Device) : Device := { d with ae := f d.ae }

/-- An entry with every optional field absent (R57). -/
def RosterEntry.blank (roll : Nat) (due : Option DuePoint) (state : RosterState) (atBuild : Bool) : RosterEntry :=
  ⟨roll, due, state, none, none, none, none, none, none, none, atBuild⟩

/-! ### Day counts -/

/-- Whether an entry is due at a site. -/
def RosterEntry.dueAt (e : RosterEntry) (site : Nat) : Bool :=
  match e.due with
  | none => false
  | some q => q.site == site

/-- Whether an entry is due at registration point k of site s. -/
def RosterEntry.isDue (e : RosterEntry) (k s : Nat) : Bool := e.due == some ⟨k, s⟩

/-- The day counts of one site (Table 4-8). -/
def siteCounts (roster : List RosterEntry) (site : Nat) : SiteCounts :=
  let l := roster.filter (·.dueAt site)
  let inState (st : RosterState) : Nat := (l.filter (·.state == st)).length
  let lateBy (b : Band) (e : RosterEntry) : Bool := e.state == .late && e.band == some b
  { due := l.length
    expected := inState .expected
    present := inState .present
    late := (l.filter fun e => lateBy .late e || lateBy .lateExcused e).length
    veryLate := (l.filter (lateBy .veryLate)).length
    provisional := inState .provisional
    unexplained := inState .unexplained
    explained := inState .explained
    excusedAway := inState .excusedAway
    out := inState .out }

/-- The live counts of R71, a view of the roster; all 0 while none is held. -/
def Attendance.counts (ae : Attendance) : DayCounts :=
  let l := ae.roster.getD []
  ⟨[siteCounts l 0, siteCounts l 1, siteCounts l 2], (l.filter (·.due == none)).length, l.length⟩

end Sys2Proof.Machine
end

