-- ==== Sys2Proof/Machine/Notices.lean ====
section
/-! DEFINITION. The Notice Unit's moves (chapter 7): tags, the queue, the desk call list, receipts, outcomes, escalation,
the relay-down fallback and the absence-notice rule, with the roster effects that outcomes have (R67, R68). -/
namespace Sys2Proof.Machine

/-! ### Classes, room and tags -/

/-- Table 7-2. -/
def NoticeBody.cls : NoticeBody → NoticeClass
  | .absentUnexplained => .urgent
  | .leftSite _ => .urgent
  | .arrivedAfterCall _ => .urgent
  | .lateRecorded _ _ => .routine
  | .latePattern _ _ => .routine
  | .ackParent _ _ _ _ _ => .routine
  | .bulletin _ => .bulk

def Notice.cls (n : Notice) : NoticeClass := n.body.cls

/-- The queue's count (R111). -/
def NoticeUnit.queueCount (nu : NoticeUnit) : Nat := nu.urgent.length + nu.routine.length + nu.bulk.length

/-- The notices of the queue in queue order (R111). -/
def NoticeUnit.queued (nu : NoticeUnit) : List Notice := nu.urgent ++ nu.routine ++ nu.bulk

/-- Whether a queue of a count has room for a class (R111). -/
def roomFor (c : NoticeClass) (count : Nat) : Bool :=
  match c with
  | .urgent => count < Config.queueUrgent
  | .routine => count < Config.queueRoutine
  | .bulk => count < Config.queueBulk

/-- The notice of a desk call entry. -/
def CallEntry.notice? (e : CallEntry) : Option Notice :=
  match e.content with
  | .notice n _ _ => some n
  | .message _ _ _ _ _ _ _ => none
  | .parentUnaware _ _ => none

/-- Every tag that R108 forbids to give: those of the queue, the ring, the awaiting-outcome table, the desk call list, the
called-today record and the roster. -/
def Device.heldTags (d : Device) : List Nat :=
  d.nu.queued.map (·.tag) ++ d.rl.ring.map (·.notice.tag) ++ d.nu.awaiting.map (·.notice.tag)
    ++ d.nu.calls.filterMap (fun e => e.notice?.map (·.tag)) ++ d.nu.calledToday.map (·.tag)
    ++ (d.ae.roster.getD []).filterMap (·.absenceTag)

/-- The tag the next composition gives (R108). -/
def Device.freeTag (d : Device) : Nat := firstFree Config.maxWord d.heldTags (d.heldTags.length + 1) d.nu.nextTag

/-- The tag counter moves on past a tag given (R108). -/
def Device.tagGiven (tag : Nat) (d : Device) : Device := { d with nu.nextTag := nextOf Config.maxWord tag }

/-! ### The queue -/

/-- A notice enters the queue at the end of its class's group (R111). -/
def NoticeUnit.enqueue (n : Notice) (nu : NoticeUnit) : NoticeUnit :=
  match n.cls with
  | .urgent => { nu with urgent := nu.urgent ++ [n] }
  | .routine => { nu with routine := nu.routine ++ [n] }
  | .bulk => { nu with bulk := nu.bulk ++ [n] }

/-- A notice leaves the queue. -/
def NoticeUnit.dequeue (tag : Nat) (nu : NoticeUnit) : NoticeUnit :=
  { nu with
    urgent := nu.urgent.filter (·.tag != tag)
    routine := nu.routine.filter (·.tag != tag)
    bulk := nu.bulk.filter (·.tag != tag) }

/-- A PAUSED sweep becomes RUNNING (R61). -/
def Sweep.resumed (w : Sweep) : Sweep := if w.status = .paused then { w with status := .running } else w

/-- A PAUSED fan-out becomes RUNNING (R124). -/
def Fanout.resumed (f : Fanout) : Fanout := if f.status = .paused then { f with status := .running } else f

/-- The queue's count has fallen: below 256 every PAUSED sweep resumes (R61), below 192 a PAUSED fan-out does (R124). -/
def queueFell (d : Device) : Device :=
  let c := d.nu.queueCount
  { d with
    ae.sweeps := if c < Config.queueUrgent then d.ae.sweeps.map Sweep.resumed else d.ae.sweeps
    nu.fanout := if c < Config.queueBulk then d.nu.fanout.resumed else d.nu.fanout }

/-- A notice is taken out of the queue, and what waited for the place resumes (R112). -/
def leaveQueue (tag : Nat) (d : Device) : Device := queueFell { d with nu := d.nu.dequeue tag }

/-- A fan-out ends (R123, R124). -/
def endFanout (how : FanoutEnd) (d : Device) : Device :=
  ({ d with nu.fanout := { d.nu.fanout with status := .idle, lastEnd := how } }).raise .fanout

/-! ### The desk call list -/

/-- Whether the desk call list holds all it can (R125). -/
def Device.callsFull (d : Device) : Bool := Config.maxCalls ≤ d.nu.calls.length

/-- A new desk call entry, at the end of its reason class's group; refused with CALLS_FULL when 128 are held (R125). -/
def addCall (reason : CallReason) (urgent : Bool) (content : CallContent) (d : Device) : Device :=
  if d.callsFull then d.raise .callsFull
  else
    let held := d.nu.calls.map (·.number)
    let number := firstFree Config.maxWord held (held.length + 1) d.nu.nextCall
    let e : CallEntry := ⟨number, reason, urgent, d.tb.second, d.tb.date, content⟩
    let calls := if urgent then d.nu.calls.filter (·.urgent) ++ e :: d.nu.calls.filter (!·.urgent) else d.nu.calls ++ [e]
    ({ d with nu.calls := calls, nu.nextCall := nextOf Config.maxWord number }).raise .calls

/-- The reason class of a notice entry: the notice's own class for QUEUE_FULL, otherwise URGENT (Table 7-6). -/
def CallReason.urgentFor (reason : CallReason) (n : Notice) : Bool := reason != .queueFull || n.cls == .urgent

/-- A notice goes to the desk call list with an outcome, SUPERSEDED clear; it closes DROPPED when the list is full (R125).
Its place is then CALLS, where no outcome is kept with it. -/
def toCalls (reason : CallReason) (outcome : Option NoticeOutcome) (n : Notice) (d : Device) : Device :=
  addCall reason (reason.urgentFor n) (.notice { n with kept := none } outcome false) d

/-- The CALL lamp (R125). -/
def Device.callLamp (d : Device) : Bool := !d.nu.calls.isEmpty

/-! ### Composition -/

/-- A notice record filled at composition (R108). -/
def Device.newNotice (d : Device) (body : NoticeBody) (pupil contact key step subjectDay : Nat) : Notice :=
  ⟨d.freeTag, body, pupil, contact, key, step, subjectDay, d.tb.second, 0, none⟩

/-- A notice enters the queue if it has room for its class (R111). A notice asked for by an event that finds none goes to
the desk call list with reason QUEUE_FULL (R112). -/
def submit (n : Notice) (d : Device) : Device :=
  if roomFor n.cls d.nu.queueCount then { d with nu := d.nu.enqueue n } else toCalls .queueFull none n d

/-- Composes a notice that an event asks for (R108, R112); its tag is `d.freeTag`. -/
def compose (body : NoticeBody) (pupil contact key step subjectDay : Nat) (d : Device) : Device :=
  submit (d.newNotice body pupil contact key step subjectDay) (d.tagGiven d.freeTag)

/-- Composes a notice without a contact: contact index 0 and step 1, to the desk call list with reason NO_CONTACT (R110). Its key,
which the rule does not give, is 0 (DESIGN CHOICE, log 43). -/
def composeNoContact (body : NoticeBody) (pupil : Nat) (d : Device) : Device :=
  toCalls .noContact none (d.newNotice body pupil 0 0 1 d.tb.date) (d.tagGiven d.freeTag)

/-- LEFT_SITE about a pupil, to the first contact that may be notified or without one (R64, R110). -/
def composeLeftSite (reason : SignOut) (roll : Nat) (d : Device) : Device :=
  match d.ae.notifiable roll 0 with
  | some (step, c) => compose (.leftSite reason) roll c.index c.key step d.tb.date d
  | none => composeNoContact (.leftSite reason) roll d

/-- A lateness notice about a pupil; not composed when no contact may be notified (R86, R110). -/
def composeLateness (body : NoticeBody) (roll : Nat) (d : Device) : Device :=
  match d.ae.notifiable roll 0 with
  | some (step, c) => compose body roll c.index c.key step d.tb.date d
  | none => d

/-! ### Receipts and outcomes -/

/-- An ABSENT_UNEXPLAINED notice whose subject day is today closes SENT_UNTRACKED, DELIVERED or REPLIED: its pupil's
called-today place is written (R121). Any other notice just closes. -/
def closeCalled (n : Notice) (reason : CalledReason) (d : Device) : Device :=
  if n.body = .absentUnexplained ∧ n.subjectDay = d.tb.date then
    let others := d.nu.calledToday.filter (·.roll != n.pupil)
    let place : CalledToday := ⟨n.pupil, n.tag, reason, n.contact, n.key, n.step⟩
    { d with nu.calledToday := insertBefore (fun a b => a.roll < b.roll) place others }
  else d

/-- Whether the pupil's roster entry holds the tag and stands in UNEXPLAINED (R117, R118). -/
def Device.stillWanted (n : Notice) (d : Device) : Bool :=
  match d.ae.entry n.pupil with
  | none => false
  | some e => e.absenceTag == some n.tag && e.state == .unexplained

/-- The contact a notice is addressed to, found while its index is still held under the notice's key: a contact dropped since is not
found, whoever takes the freed index (R49, R67; log 46). -/
def Attendance.addressee (ae : Attendance) (n : Notice) : Option Contact := (ae.contactAt n.contact).filter (·.key == n.key)

/-- The reply code of a notice closed REPLIED acts on the pupil's entry when it holds the notice's tag (R67). -/
def takeReplyCode (n : Notice) (code : Nat) (d : Device) : Device :=
  if d.stillWanted n then
    if code = 1 ∨ code = 2 then
      match d.ae.addressee n with
      | some c => if c.mayExcuse then d.onAe (·.onEntry n.pupil fun e => { e with state := .explained }) else d
      | none => d
    else if code = 3 then addCall .parentUnaware true (.parentUnaware n.pupil n.tag) d
    else d
  else d

/-- The roster entry's absence notice tag follows an escalation (R68). -/
def retag (roll old new : Nat) (d : Device) : Device :=
  d.onAe (·.onEntry roll fun e => if e.absenceTag = some old then { e with absenceTag := some new } else e)

/-- UNREACHABLE for a notice taken out of its place (R117). -/
def unreachable (n : Notice) (d : Device) : Device :=
  if n.body = .absentUnexplained ∧ !d.stillWanted n then d
  else if n.body ≠ .absentUnexplained ∧ n.subjectDay < d.tb.date then toCalls .unreachableAll none n d
  else match d.ae.notifiable n.pupil n.step with
    | some (step, c) =>
      let escalated := compose n.body n.pupil c.index c.key step n.subjectDay d
      if n.body = .absentUnexplained then retag n.pupil n.tag d.freeTag escalated else escalated
    | none => toCalls .unreachableAll (some .unreachable) n d

/-- An outcome acts on a notice that has left the awaiting-outcome table (R116). -/
def outcomeActs (o : NoticeOutcome) (n : Notice) (d : Device) : Device :=
  match o with
  | .delivered => closeCalled n .delivered d
  | .replied code => takeReplyCode n code (closeCalled n .replied d)
  | .unreachable => unreachable n d

/-- The receipt of a notice retired from the ring (R115). -/
def receipt (n : Notice) (d : Device) : Device :=
  match n.cls with
  | .routine => d
  | .bulk => d
  | .urgent =>
    match n.kept with
    | some o => outcomeActs o { n with kept := none } d
    | none =>
      if d.nu.awaiting.length < Config.maxAwaiting then
        { d with nu.awaiting := d.nu.awaiting ++ [⟨n, d.nu.outcomeTimeout * 60⟩] }
      else closeCalled n .sentUntracked d

/-- The awaiting-outcome entry of a tag. -/
def NoticeUnit.awaitingOf (nu : NoticeUnit) (tag : Nat) : Option Awaiting := nu.awaiting.find? (·.notice.tag == tag)

/-- A notice leaves the awaiting-outcome table. -/
def leaveAwaiting (tag : Nat) (d : Device) : Device :=
  { d with nu.awaiting := d.nu.awaiting.filter (·.notice.tag != tag) }

/-- A desk call entry holding a notice of the tag. -/
def CallEntry.holdsTag (tag : Nat) (e : CallEntry) : Bool :=
  match e.content with
  | .notice n _ _ => n.tag == tag
  | .message _ _ _ _ _ _ _ => false
  | .parentUnaware _ _ => false

/-- The outcome written into a notice entry (R116). -/
def CallEntry.withOutcome (o : NoticeOutcome) (e : CallEntry) : CallEntry :=
  match e.content with
  | .notice n _ sup => { e with content := .notice n (some o) sup }
  | .message _ _ _ _ _ _ _ => e
  | .parentUnaware _ _ => e

/-- A notice entry marked SUPERSEDED (R121). -/
def CallEntry.supersede (e : CallEntry) : CallEntry :=
  match e.content with
  | .notice n o _ => { e with content := .notice n o true }
  | .message _ _ _ _ _ _ _ => e
  | .parentUnaware _ _ => e

/-- Changes the desk call entries that hold a notice of the tag, with cause CALLS (R116, R121). -/
def touchCall (tag : Nat) (f : CallEntry → CallEntry) (d : Device) : Device :=
  ({ d with nu.calls := d.nu.calls.map fun (e : CallEntry) => if e.holdsTag tag then f e else e }).raise .calls

/-- An inbound OUTCOME message (R116). -/
def takeOutcome (tag value code : Nat) (d : Device) : Device :=
  match outcomeCode value code with
  | none => d
  | some o =>
    match d.nu.awaitingOf tag with
    | some w => outcomeActs o w.notice (leaveAwaiting tag d)
    | none =>
      if d.rl.ring.any (·.notice.tag == tag) then
        { d with rl.ring := d.rl.ring.map fun r => if r.notice.tag == tag then { r with notice.kept := some o } else r }
      else if d.nu.calls.any (CallEntry.holdsTag tag) then touchCall tag (CallEntry.withOutcome o) d
      else d

/-- The deadline of an awaiting notice has reached 0 (R118). -/
def outcomeTimedOut (tag : Nat) (d : Device) : Device :=
  match d.nu.awaitingOf tag with
  | none => d
  | some w =>
    let left := leaveAwaiting tag d
    if w.notice.body = .absentUnexplained ∧ !d.stillWanted w.notice then left else toCalls .noOutcome none w.notice left

/-! ### The relay-down fallback -/

/-- The fallback delay in running seconds. -/
def NoticeUnit.fallbackSeconds (nu : NoticeUnit) : Nat := nu.fallbackDelay * 60

/-- A queued URGENT notice goes to the desk with reason RELAY_DOWN (R119). -/
def fallBack (n : Notice) (d : Device) : Device := toCalls .relayDown none n (leaveQueue n.tag d)

/-- Every queued URGENT notice old enough falls back (R119), in queue order, which the rule does not give (DESIGN CHOICE, log 47). -/
def fallBackAll (d : Device) : Device :=
  (d.nu.urgent.filter (d.nu.fallbackSeconds ≤ ·.age)).foldl (fun acc n => fallBack n acc) d

/-- A queued URGENT notice's age has reached the fallback delay while the link is not UP (R119). The command says that the
age has reached the delay, so a lower count is raised to it. -/
def fallbackDue (tag : Nat) (d : Device) : Device :=
  if d.rl.link = .up then d
  else match d.nu.urgent.find? (·.tag == tag) with
    | none => d
    | some n => fallBack { n with age := max n.age d.nu.fallbackSeconds } d

/-! ### Notices returned from the ring -/

/-- Puts a returned notice after the `k` already returned in this event and before every other of its class (R113). -/
def insertAt {α : Type} (k : Nat) (a : α) (l : List α) : List α := l.take k ++ a :: l.drop k

/-- The notices of an emptied ring, oldest first, each tested for room (R113). `u`, `r` and `b` count those already placed
in each class by this event. -/
def returnNotices : List Notice → Nat → Nat → Nat → Device → Device
  | [], _, _, _, d => d
  | n :: rest, u, r, b, d =>
    match n.cls with
    | .urgent =>
      if roomFor .urgent d.nu.queueCount then returnNotices rest (u + 1) r b { d with nu.urgent := insertAt u n d.nu.urgent }
      else returnNotices rest u r b (toCalls .queueFull none n d)
    | .routine =>
      if roomFor .routine d.nu.queueCount then returnNotices rest u (r + 1) b { d with nu.routine := insertAt r n d.nu.routine }
      else returnNotices rest u r b (toCalls .queueFull none n d)
    | .bulk =>
      if roomFor .bulk d.nu.queueCount then returnNotices rest u r (b + 1) { d with nu.bulk := insertAt b n d.nu.bulk }
      else returnNotices rest u r b d

/-! ### The absence-notice rule -/

/-- ARRIVED_AFTER_CALL to the contact of the absence notice (R70, R110). -/
def composeArrived (roll tag contact key step : Nat) (d : Device) : Device :=
  compose (.arrivedAfterCall tag) roll contact key step d.tb.date d

/-- The absence-notice rule for a tag of a pupil, as an arrival or as an explanation (Table 4-7, R121). -/
def absenceRule (asArrival : Bool) (roll tag : Nat) (d : Device) : Device :=
  if d.nu.queued.any (·.tag == tag) then leaveQueue tag d
  else match d.rl.ring.find? (·.notice.tag == tag) with
    | some r => if asArrival then composeArrived roll tag r.notice.contact r.notice.key r.notice.step d else d
    | none =>
      match d.nu.awaitingOf tag with
      | some w =>
        if asArrival then composeArrived roll tag w.notice.contact w.notice.key w.notice.step (leaveAwaiting tag d)
        else leaveAwaiting tag d
      | none =>
        if d.nu.calls.any (CallEntry.holdsTag tag) then touchCall tag CallEntry.supersede d
        else match d.nu.calledToday.find? (fun c => c.roll == roll && c.tag == tag) with
          | some c => if asArrival then composeArrived roll tag c.contact c.key c.step d else d
          | none => d

/-- The rule for an entry that holds an absence notice tag (R70). -/
def absenceRuleFor (asArrival : Bool) (roll : Nat) (tag : Option Nat) (d : Device) : Device :=
  match tag with
  | none => d
  | some t => absenceRule asArrival roll t d

end Sys2Proof.Machine
end

