-- ==== Sys2Proof/Machine/Excuses.lean ====
section
/-! DEFINITION. Recording and applying excuses (R92 to R95, R57, R65, R66). -/
namespace Sys2Proof.Machine

/-- The kinds' order in the table (R92). -/
def ExcuseKind.rank : ExcuseKind → Nat
  | .absent => 0
  | .lateExpected => 1
  | .leavingEarly => 2

/-- The table's order: first day, then roll number, then kind (R92). -/
def excuseBefore (a b : Excuse) : Bool :=
  a.first < b.first || (a.first == b.first && (a.pupil < b.pupil || (a.pupil == b.pupil && a.kind.rank < b.kind.rank)))

/-- Whether a held entry has the new excuse's pupil and kind and overlaps or touches its days (R92, R93). -/
def Excuse.meets (new held : Excuse) : Bool :=
  held.pupil == new.pupil && held.kind == new.kind && held.first ≤ new.last + 1 && new.first ≤ held.last + 1

/-- The one entry that replaces the entries found (R93). -/
def Excuse.merged (new : Excuse) (found : List Excuse) : Excuse :=
  { new with
    first := (found.map (·.first)).foldl min new.first
    last := (found.map (·.last)).foldl max new.last
    state :=
      if found.any (·.state == .overridden) then .overridden
      else if found.any (·.state == .applied) then .applied
      else .pending }

/-- The merged entry a new excuse makes in a table (R93). -/
def mergedIn (new : Excuse) (table : List Excuse) : Excuse := new.merged (table.filter new.meets)

/-- The table after a new excuse is merged into it (R93). -/
def recordIn (new : Excuse) (table : List Excuse) : List Excuse :=
  insertBefore excuseBefore (mergedIn new table) (table.filter (!new.meets ·))

/-- Whether a list of new excuses leaves more than 512 entries (R94). -/
def overfull (news : List Excuse) (table : List Excuse) : Bool :=
  Config.maxExcuses < (news.foldl (fun t x => recordIn x t) table).length

/-- A new excuse is recorded; the roster entry's reference to an entry found moves to the merged entry (R66, R93). -/
def recordExcuse (new : Excuse) (d : Device) : Device :=
  let found := d.ae.excuses.filter new.meets
  let m := new.merged found
  d.onAe fun ae =>
    ({ ae with excuses := recordIn new ae.excuses }).onEntry new.pupil fun e =>
      match e.excuseRef with
      | none => e
      | some r => if found.any (fun x => x.ref == r) then { e with excuseRef := some m.ref } else e

/-- Table 4-5: the state an excuse of a kind makes of an entry's state, if it changes it, and the roster result. -/
def applied (kind : ExcuseKind) (st : RosterState) : Option RosterState × RosterResult :=
  match kind, st with
  | .leavingEarly, _ => (none, .unchanged)
  | .absent, .expected => (some .excusedAway, .changed)
  | .lateExpected, .expected => (none, .unchanged)
  | _, .provisional => (some .explained, .changed)
  | _, .unexplained => (some .explained, .changed)
  | _, .present => (none, .alreadyIn)
  | _, .late => (none, .alreadyIn)
  | _, .out => (none, .alreadyIn)
  | _, .notDue => (none, .unchanged)
  | _, .excusedAway => (none, .unchanged)
  | _, .explained => (none, .unchanged)

/-- The entry takes a new state from an excuse, which becomes its reference and is marked APPLIED (R57, R65). -/
def Attendance.excuseTaken (x : Excuse) (st : RosterState) (ae : Attendance) : Attendance :=
  (ae.onEntry x.pupil fun e => { e with state := st, excuseRef := some x.ref }).markExcuse x.pupil x.ref .applied

/-- The roster entry an excuse acts on today: none when the excuse does not cover today or no roster is held (R95). -/
def Device.actsOn (x : Excuse) (d : Device) : Option RosterEntry :=
  if x.covers d.tb.date then d.ae.entry x.pupil else none

/-- A recorded excuse is applied to its pupil's entry; an UNEXPLAINED entry it explains brings the absence-notice rule as
an explanation (R65, R70, R95). -/
def applyExcuse (x : Excuse) (d : Device) : RosterResult × Device :=
  match d.actsOn x with
  | none => (.unchanged, d)
  | some e =>
    match applied x.kind e.state with
    | (none, r) => (r, d)
    | (some st, r) =>
      let taken := d.onAe (·.excuseTaken x st)
      (r, if e.state = .unexplained then absenceRuleFor false x.pupil e.absenceTag taken else taken)

/-- A new excuse is recorded and the merged entry applied (R93, R95). -/
def recordAndApply (new : Excuse) (d : Device) : RosterResult × Device :=
  applyExcuse (mergedIn new d.ae.excuses) (recordExcuse new d)

/-- The excuses of one message, recorded and applied in order, with their roster results (R103). -/
def recordAll : List Excuse → Device → List RosterResult × Device
  | [], d => ([], d)
  | x :: rest, d =>
    let one := recordAndApply x d
    let others := recordAll rest one.2
    (one.1 :: others.1, others.2)

/-- Each ABSENT excuse covering the date moves its pupil's EXPECTED entry to EXCUSED_AWAY, in table order (R57). -/
def applyAbsences (date : Nat) (ae : Attendance) : Attendance :=
  (ae.excuses.filter fun x => x.kind == .absent && x.covers date).foldl (fun acc x =>
    match acc.entry x.pupil with
    | none => acc
    | some e => if e.state = .expected then acc.excuseTaken x .excusedAway else acc) ae

end Sys2Proof.Machine
end

