-- ==== Sys2Proof/Machine/Roster.lean ====
section
/-! DEFINITION. The day roster: building it (R57), the change of day kind (R58), and the registration sweeps (R59 to R62). -/
namespace Sys2Proof.Machine

/-! ### Building the roster -/

/-- The entry made at the build for a pupil (R57). -/
def builtEntry (schoolDay : Bool) (due : Option DuePoint) (roll : Nat) : RosterEntry :=
  match schoolDay, due with
  | true, some q => .blank roll (some q) .expected true
  | _, _ => .blank roll none .notDue true

/-- The build takes one roll number: a pupil held there gets an entry at the end of the roster so far (R57). -/
def buildAt (schoolDay : Bool) (cycleDay roll : Nat) (ae : Attendance) : Attendance :=
  match ae.pupil roll with
  | none => ae
  | some p => { ae with roster := ae.roster.map (· ++ [builtEntry schoolDay (ae.duePoint p cycleDay) roll]) }

/-! ### Change of day kind -/

/-- From a plan to CLOSED (R58). -/
def RosterEntry.toClosedDay (e : RosterEntry) : RosterEntry :=
  match e.state with
  | .expected => { e with due := none, excuseRef := none, state := .notDue }
  | .excusedAway => { e with due := none, excuseRef := none, state := .notDue }
  | .present => { e with due := none, excuseRef := none, state := .notDue }
  | .late => { e with due := none, excuseRef := none, state := .notDue }
  | .out => { e with due := none, excuseRef := none, prior := some .notDue }
  | .notDue => { e with due := none, excuseRef := none }
  | .provisional => { e with due := none, excuseRef := none }
  | .unexplained => { e with due := none, excuseRef := none }
  | .explained => { e with due := none, excuseRef := none }

/-- From CLOSED to a plan, for an entry made at the build that is given a due point (R58). -/
def RosterEntry.toSchoolDay (q : DuePoint) (e : RosterEntry) : RosterEntry :=
  match e.state with
  | .notDue =>
    match e.arrivalSecond with
    | none => { e with due := some q, state := .expected }
    | some _ => { e with due := some q, state := .present, band := some .onTime }
  | .out => { e with due := some q, prior := some .present, band := some .onTime }
  | .expected => { e with due := some q }
  | .excusedAway => { e with due := some q }
  | .present => { e with due := some q }
  | .late => { e with due := some q }
  | .provisional => { e with due := some q }
  | .unexplained => { e with due := some q }
  | .explained => { e with due := some q }

/-- The entry of a pupil on a day that becomes a school day (R58). -/
def Attendance.openedEntry (ae : Attendance) (cycleDay : Nat) (e : RosterEntry) : RosterEntry :=
  if e.atBuild then
    match (ae.pupil e.roll).bind (ae.duePoint · cycleDay) with
    | none => e
    | some q => e.toSchoolDay q
  else e

/-- A change of day kind handed by SELECT_TODAY (R58). -/
def changeDayKind (toClosed : Bool) (d : Device) : Device :=
  if toClosed then d.onAe fun ae => { ae with roster := ae.roster.map (·.map RosterEntry.toClosedDay) }
  else d.onAe fun ae => applyAbsences d.tb.date { ae with roster := ae.roster.map (·.map (ae.openedEntry d.tb.cycleDay)) }

/-! ### Sweeps -/

/-- Whether a record is the sweep of a kind for (RP k, site s). -/
def Sweep.isFor (kind : SweepKind) (k s : Nat) (w : Sweep) : Bool := w.kind == kind && w.point == k && w.site == s

/-- The sweep of a kind for (k, s), if in the list. -/
def Attendance.sweep (ae : Attendance) (kind : SweepKind) (k s : Nat) : Option Sweep := ae.sweeps.find? (·.isFor kind k s)

/-- A registration close adds a CLOSE sweep (R59), behind those in the list (DESIGN CHOICE, log 45). -/
def registrationClose (k s : Nat) : Device → Device :=
  Device.onAe fun ae => { ae with sweeps := ae.sweeps ++ [⟨.close, k, s, 1, .running⟩] }

/-- A confirm sweep enters the list at its end (DESIGN CHOICE, log 45), WAITING behind a CLOSE sweep of the same (k, s) (R60). -/
def confirmSweep (k s : Nat) : Device → Device :=
  Device.onAe fun ae =>
    { ae with sweeps := ae.sweeps ++ [⟨.confirm, k, s, 1, if (ae.sweep .close k s).isSome then .waiting else .running⟩] }

/-- A WAITING confirm sweep of (k, s) becomes RUNNING (R60). -/
def Sweep.released (k s : Nat) (w : Sweep) : Sweep :=
  if w.isFor .confirm k s && w.status == .waiting then { w with status := .running } else w

/-- A sweep's cursor moves on; the step that takes roll number 2400 ends the sweep, and the end of a CLOSE sweep releases
its confirm sweep (R59, R60). -/
def Attendance.sweepOn (kind : SweepKind) (k s : Nat) (ae : Attendance) : Attendance :=
  match ae.sweep kind k s with
  | none => ae
  | some w =>
    if w.cursor < Config.maxRoll then
      { ae with sweeps := ae.sweeps.map fun v => if v.isFor kind k s then { v with cursor := w.cursor + 1 } else v }
    else
      let rest := ae.sweeps.filter (!·.isFor kind k s)
      { ae with sweeps := if kind = .close then rest.map (·.released k s) else rest }

/-- A step of the CLOSE sweep of (k, s): an EXPECTED entry due there becomes PROVISIONAL (R59). -/
def closeStep (k s : Nat) (d : Device) : Device :=
  match d.ae.sweep .close k s with
  | none => d
  | some w =>
    d.onAe fun ae =>
      (ae.onEntry w.cursor fun e => if e.isDue k s && e.state == .expected then { e with state := .provisional } else e).sweepOn
        .close k s

/-- An entry made UNEXPLAINED with its absence notice tag (R60). -/
def RosterEntry.confirmed (tag : Nat) (e : RosterEntry) : RosterEntry :=
  { e with state := .unexplained, absenceTag := some tag }

/-- A confirm sweep pauses with its cursor held (R61). -/
def Attendance.pauseSweep (k s : Nat) (ae : Attendance) : Attendance :=
  { ae with sweeps := ae.sweeps.map fun v => if v.isFor .confirm k s then { v with status := .paused } else v }

/-- A PROVISIONAL entry of (k, s) is confirmed: explained by a LATE_EXPECTED excuse, or made UNEXPLAINED with its notice, or
left while the sweep pauses on a full queue (R60). -/
def confirmEntry (k s : Nat) (e : RosterEntry) (d : Device) : Device :=
  let on := Device.onAe (·.sweepOn .confirm k s)
  match d.ae.excuseFor e.roll .lateExpected d.tb.date with
  | some x => on (d.onAe (·.excuseTaken x .explained))
  | none =>
    match d.ae.notifiable e.roll 0 with
    | some (step, c) =>
      if d.nu.queueCount < Config.queueUrgent then
        on ((compose .absentUnexplained e.roll c.index c.key step d.tb.date d).onAe
          (·.onEntry e.roll (RosterEntry.confirmed d.freeTag)))
      else d.onAe (·.pauseSweep k s)
    | none =>
      on ((composeNoContact .absentUnexplained e.roll d).onAe (·.onEntry e.roll (RosterEntry.confirmed d.freeTag)))

/-- A step of the RUNNING confirm sweep of (k, s) (R60). -/
def confirmStep (k s : Nat) (d : Device) : Device :=
  match d.ae.sweep .confirm k s with
  | none => d
  | some w =>
    if w.status = .running then
      match d.ae.entry w.cursor with
      | none => d.onAe (·.sweepOn .confirm k s)
      | some e =>
        if e.isDue k s && e.state == .provisional then confirmEntry k s e d else d.onAe (·.sweepOn .confirm k s)
    else d

/-- A warm reset restarts the sweeps: cursors 1, CLOSE and PAUSED sweeps RUNNING, a confirm sweep whose CLOSE sweep is in
the list WAITING (R62). -/
def Sweep.restarted (w : Sweep) : Sweep := { w with cursor := 1, status := if w.status = .waiting then .waiting else .running }

end Sys2Proof.Machine
end

