-- ==== Sys2Proof/Machine/Sounders.lean ====
section
/-! DEFINITION. The Sounder Unit's working parts: patterns and generators (R153 to R155), zone drive (R161) and zone
supervision (R162). The requests and events of chapter 9 are in Machine/SounderUnit.lean. -/
namespace Sys2Proof.Machine

/-! ### Patterns and generators -/

/-- A pattern's length in units (Table 9-4). -/
def Pattern.length (p : Pattern) : Nat :=
  match p.mode with
  | .ring => p.n
  | .pulse => p.p * p.r
  | .warble => p.d
  | .chirp => p.n + 1

/-- A pattern's output in unit u (Table 9-4). -/
def Pattern.output (p : Pattern) (u : Nat) : Level :=
  match p.mode with
  | .ring => if u < p.n then .steady else .silent
  | .pulse => if u % p.p < p.k then .steady else .silent
  | .warble => if u % p.p < (p.p + 1) / 2 then .toneA else .toneB
  | .chirp => if u = p.n then .steady else .silent

/-- A generator's output: SILENT when IDLE (R153). -/
def Generator.output (g : Generator) : Level :=
  match g.playing with
  | none => .silent
  | some q => q.copy.output q.elapsed

/-- Pattern entry i, 1..16. -/
def Sounder.pattern (su : Sounder) (i : Nat) : Pattern := nth su.patterns i Pattern.reset

/-- Generator g, PG1..PG4. -/
def Sounder.generator (su : Sounder) (g : Nat) : Generator := nth su.generators g Generator.reset

/-- Pattern i begins on a generator: it copies the entry as the table then stands (R153). -/
def Sounder.begun (su : Sounder) (i : Nat) (waiting : Option Nat) : Generator := ⟨some ⟨i, su.pattern i, 0⟩, waiting⟩

/-- A start of pattern i on a generator: a PULSE or WARBLE is played out and the start waits; anything else gives way (R154). -/
def Sounder.started (su : Sounder) (i : Nat) (g : Generator) : Generator :=
  match g.playing with
  | none => su.begun i g.waiting
  | some q =>
    match q.copy.mode with
    | .ring => su.begun i g.waiting
    | .chirp => su.begun i g.waiting
    | .pulse => { g with waiting := some i }
    | .warble => { g with waiting := some i }

/-- 100 ms pass on a generator: elapsed rises by one, and at the pattern's length the pattern ends and the waiting slot
begins, or the generator becomes IDLE (R153, R155). -/
def Sounder.unitPassed (su : Sounder) (g : Generator) : Generator :=
  match g.playing with
  | none => g
  | some q =>
    if q.elapsed + 1 < q.copy.length then { g with playing := some { q with elapsed := q.elapsed + 1 } }
    else match g.waiting with
      | some i => su.begun i none
      | none => ⟨none, none⟩

/-! ### Zone drive -/

/-- Whether zone z, 1..24, is in a zone set. -/
def inZones (zs : ZoneSet) (z : Nat) : Bool := zs.getLsbD (z - 1)

/-- The zones, 1..24. -/
def allZones : List Nat := List.range' 1 24

/-- The entries of a bank. -/
def Sounder.bank (su : Sounder) : Bank → List RouteEntry
  | .a => su.bankA
  | .b => su.bankB

/-- The active bank's entry of zone z. -/
def Sounder.route (su : Sounder) (z : Nat) : RouteEntry := nth (su.bank su.active) z RouteEntry.reset

/-- The PA zones: the request mask, and the key mask while the key is held (R160). -/
def Sounder.paZones (su : Sounder) : ZoneSet := if su.paKeyHeld then su.paRequest ||| su.paKeyZones else su.paRequest

/-- The zones of an ACTIVE alert. -/
def Sounder.alertZones (su : Sounder) : ZoneSet :=
  match su.alert with
  | none => 0
  | some a => a.zones

/-- The alert warble at its present phase: TONE_A for 5 units, then TONE_B for 5 (R159). -/
def Alert.level (a : Alert) : Level := if a.phase < Config.warbleUnits then .toneA else .toneB

/-- R161: ALERT, then PA, then silence while the clock is INVALID, the source is NONE or the zone is quiet, then the
routed generator. -/
def demand (clockValid : Bool) (su : Sounder) (z : Nat) : Demand :=
  if inZones su.alertZones z then .alertWarble
  else if inZones su.paZones z then .paLine
  else if !clockValid || (inZones su.quiet z && (su.route z).quietEligible) then .silent
  else match (su.route z).source with
    | none => .silent
    | some g => .generator g

/-- The level a demand has at this moment (R161). -/
def demandLevel (su : Sounder) : Demand → Level
  | .alertWarble =>
    match su.alert with
    | none => .silent
    | some a => a.level
  | .paLine => .pa
  | .silent => .silent
  | .generator g => (su.generator g).output

/-- Whether a demand engages its zone: the warble, PA, or a RUNNING generator (R161). -/
def demandEngages (su : Sounder) : Demand → Bool
  | .alertWarble => true
  | .paLine => true
  | .silent => false
  | .generator g => (su.generator g).playing.isSome

/-- Zone z's supervision. -/
def Sounder.zone (su : Sounder) (z : Nat) : ZoneSupervision := nth su.zones z ZoneSupervision.reset

/-- The demand of zone z of the device. -/
def Device.demand (d : Device) (z : Nat) : Demand := Machine.demand d.clockValid d.su z

/-- Whether zone z is engaged (R161). -/
def Device.engaged (d : Device) (z : Nat) : Bool := demandEngages d.su (d.demand z)

/-- Zone z's line: the demand's level, or the active-bank fault level while the zone is in FAULT (R161). -/
def Device.lineLevel (d : Device) (z : Nat) : Level :=
  if (d.su.zone z).fault then (if (d.su.route z).steadyFault then .steady else .silent)
  else demandLevel d.su (d.demand z)

/-! ### Supervision -/

/-- A check counted in the zone's state (R162): the third BAD in a row enters FAULT, the third GOOD returns to NORMAL. -/
def ZoneSupervision.counted (good : Bool) (v : ZoneSupervision) : ZoneSupervision :=
  if v.fault then
    if good then
      if v.good + 1 < Config.checksToMove then { v with good := v.good + 1 } else { v with fault := false, bad := 0, good := 0 }
    else { v with good := 0 }
  else
    if good then { v with bad := 0 }
    else if v.bad + 1 < Config.checksToMove then { v with bad := v.bad + 1 }
    else { v with fault := true, bad := 0, good := 0 }

/-- Writes zone z's supervision; a move into or out of FAULT sets ZONE and marks the zone (R162, R163). -/
def Device.putZone (z : Nat) (v : ZoneSupervision) (d : Device) : Device :=
  let d' := { d with su.zones := setNth d.su.zones z v }
  if (d.su.zone z).fault = v.fault then d' else (d'.raise .zone).markZone z

/-- A check of zone z: its sense line is read once and counted (R162). -/
def Device.checkZone (z : Nat) (d : Device) : Device :=
  d.putZone z ((d.su.zone z).counted (inZones d.sense z))

/-- Zone z after a change that may have moved its demand: a supervised zone that goes from idle to engaged stops its timer
and is checked (a sounding start); one that becomes idle starts its timer from 0 (R162). -/
def Device.settleZone (was : Bool) (z : Nat) (d : Device) : Device :=
  if !(d.su.zone z).supervised || was == d.engaged z then d
  else if was then { d with su.zones := setNth d.su.zones z { d.su.zone z with timer := some 0 } }
  else ({ d with su.zones := setNth d.su.zones z { d.su.zone z with timer := none } }).checkZone z

/-- Makes a change of anything a demand depends on, and settles every zone after it (R161, R162). -/
def settling (change : Device → Device) (d : Device) : Device :=
  allZones.foldl (fun acc z => acc.settleZone (d.engaged z) z) (change d)

/-! ### Changes other blocks make -/

/-- A start of pattern i on generator g, handed by the Schedule Scanner (R154). -/
def startPattern (g i : Nat) : Device → Device :=
  settling fun d => { d with su.generators := setNth d.su.generators g (d.su.started i (d.su.generator g)) }

/-- The route banks are exchanged (R157). -/
def exchangeBanks : Device → Device :=
  settling fun d => { d with su.active := match d.su.active with | .a => .b | .b => .a }

/-- The clock's validity changes: attention cause CLOCK (R2), and the zones follow (R161). -/
def setValidity (v : Validity) (d : Device) : Device :=
  if d.tb.validity = v then d else settling (fun d => ({ d with tb.validity := v }).raise .clock) d

end Sys2Proof.Machine
end

