-- ==== Sys2Proof/Machine/Scanner.lean ====
section
/-! DEFINITION. The Schedule Scanner at work: effective minutes, firing, confirm points and reassessment (R29 to R34), and
what it tells other blocks (R37, R38). Its requests are in Machine/ScannerRequests.lean. -/
namespace Sys2Proof.Machine

/-- The sites. -/
def allSites : List Nat := [0, 1, 2]

/-- A site's settings as reset leaves them. -/
def SiteSettings.reset : SiteSettings := ⟨0, 0, 20, false, 0⟩

/-- Settings of site s. -/
def Scanner.site (ss : Scanner) (s : Nat) : SiteSettings := ss.sites.getD s SiteSettings.reset

/-- Plan p, 1..8. -/
def Scanner.plan (ss : Scanner) (p : Nat) : DayPlan := nth ss.plans p ⟨[], [], false⟩

/-- The active copy of today's plan; none on a CLOSED day (R30). -/
def Device.slots (d : Device) : List PlanSlot :=
  match d.tb.today with
  | .closed => []
  | .plan p => (d.ss.plan p).active

/-- The effective minute of an entry minute on a site (R29). -/
def Scanner.effective (ss : Scanner) (m s : Nat) : Nat :=
  (clampInt 0 Config.lastMinute ((m : Int) + (ss.site s).offset + (ss.site s).shift)).toNat

/-- The flag of site s alone. -/
def siteBit (s : Nat) : SiteSet := 1#3 <<< s

/-- A pair of site s: its entry names the site. -/
def PlanSlot.names (sl : PlanSlot) (s : Nat) : Bool := sl.entry.sites.getLsbD s

/-- Whether the pair of site s is open: neither fired nor passed (R29). -/
def PlanSlot.isOpen (sl : PlanSlot) (s : Nat) : Bool := sl.names s && !sl.fired.getLsbD s && !sl.passed.getLsbD s

/-- Flags set for some sites. -/
def withSites (set : SiteSet) (sites : List Nat) : SiteSet := sites.foldl (fun acc s => acc ||| siteBit s) set

/-- Changes slot i, counted from 0, of today's active copy. -/
def Device.onSlot (i : Nat) (f : PlanSlot → PlanSlot) (d : Device) : Device :=
  match d.tb.today with
  | .closed => d
  | .plan p =>
    let pl := d.ss.plan p
    { d with ss.plans := setNth d.ss.plans p { pl with active := pl.active.modify i f } }

/-! ### Confirm points -/

/-- The place of the confirm point of (RP k, site s). -/
def confirmIndex (k s : Nat) : Nat := 3 * (k - 1) + s

/-- The twelve pairs (k, s) in order of registration point and then of site. -/
def confirmPairs : List (Nat × Nat) := [1, 2, 3, 4].flatMap fun k => allSites.map fun s => (k, s)

/-- The confirm point of (RP k, site s). -/
def Scanner.confirmPoint (ss : Scanner) (k s : Nat) : ConfirmPoint := ss.confirm.getD (confirmIndex k s) .notSet

/-- Writes a confirm point. -/
def Device.putConfirm (k s : Nat) (c : ConfirmPoint) (d : Device) : Device :=
  { d with ss.confirm := d.ss.confirm.set (confirmIndex k s) c }

/-- A confirm point fires: its confirm sweep is handed and it is FIRED (R32). -/
def firePoint (k s : Nat) (d : Device) : Device := confirmSweep k s (d.putConfirm k s .firedToday)

/-! ### Firing -/

/-- A REG_CLOSE of (k, s) is handed: the close sweep, then the confirm point, which fires straight after the close when its
minute n is at or past already (R31, R32). -/
def handClose (n k s minute : Nat) (d : Device) : Device :=
  let c := min (d.ss.effective minute s + (d.ss.site s).confirmDelay) Config.lastMinute
  let closed := registrationClose k s d
  if c ≤ n then firePoint k s closed else closed.putConfirm k s (.setAt c)

/-- The pairs of entry i for some sites fire at minute n: the flags are set and the actions handed in site order; the pairs
of one RING make one start (R30, R31). A registration start changes no entry of the roster (section 4.3). -/
def fireSlot (n i : Nat) (sl : PlanSlot) (sites : List Nat) (d : Device) : Device :=
  let marked := d.onSlot i fun sl => { sl with fired := withSites sl.fired sites }
  match sl.entry.action with
  | .ring g p => startPattern g p marked
  | .routeSwap => exchangeBanks marked
  | .regStart _ => marked
  | .regClose k => sites.foldl (fun acc s => handClose n k s sl.entry.minute acc) marked

/-- Does f with each slot of today's active copy in plan order, each as it then stands. -/
def overSlots (f : Nat → PlanSlot → Device → Device) (d : Device) : Device :=
  (List.range d.slots.length).foldl (fun acc i =>
    match acc.slots[i]? with
    | none => acc
    | some sl => f i sl acc) d

/-- The open pairs of the sites chosen with E = n fire, in plan order (R30). -/
def fireDue (sites : List Nat) (n : Nat) : Device → Device :=
  overSlots fun i sl d =>
    match sites.filter fun s => sl.isOpen s && d.ss.effective sl.entry.minute s == n with
    | [] => d
    | due => fireSlot n i sl due d

/-- The open pairs of the sites chosen with E < n, in plan order: a RING pair is passed, any other is handed (R33, part 2). -/
def catchUp (sites : List Nat) (n : Nat) : Device → Device :=
  overSlots fun i sl d =>
    match sites.filter fun s => sl.isOpen s && d.ss.effective sl.entry.minute s < n with
    | [] => d
    | behind =>
      match sl.entry.action with
      | .ring _ _ => d.onSlot i fun sl => { sl with passed := withSites sl.passed behind }
      | .routeSwap => fireSlot n i sl behind d
      | .regStart _ => fireSlot n i sl behind d
      | .regClose _ => fireSlot n i sl behind d

/-- The confirm points of the sites chosen that are SET with minute n fire, by point and then site (R30). -/
def firePointsAt (sites : List Nat) (n : Nat) (d : Device) : Device :=
  confirmPairs.foldl (fun acc q =>
    if sites.contains q.2 && acc.ss.confirmPoint q.1 q.2 == .setAt n then firePoint q.1 q.2 acc else acc) d

/-- The confirm points of the sites chosen that are SET at or before n, in ascending minute, then point, then site. -/
def pointsBehind (sites : List Nat) (n : Nat) (ss : Scanner) : List (Nat × Nat × Nat) :=
  sortBy (fun a b => a.1 < b.1) (confirmPairs.filterMap fun q =>
    match ss.confirmPoint q.1 q.2 with
    | .setAt m => if sites.contains q.2 && m ≤ n then some (m, q.1, q.2) else none
    | .notSet => none
    | .firedToday => none)

/-- Whether the scanner holds pairs and confirm points at all: not while the clock is INVALID or the day CLOSED (R2, R30). -/
def Device.scanning (d : Device) : Bool := d.clockValid && d.tb.today != .closed

/-- The Time Base hands the top of a minute (R30). -/
def topOfMinute (d : Device) : Device :=
  if d.scanning then firePointsAt allSites d.minute (fireDue allSites d.minute d) else d

/-- A reassessment of the sites chosen at the current minute (R33). -/
def reassess (sites : List Nat) (d : Device) : Device :=
  if d.scanning then
    let n := d.minute
    let part1 := (pointsBehind sites n d.ss).foldl (fun acc q => firePoint q.2.1 q.2.2 acc) d
    firePointsAt sites n (fireDue sites n (catchUp sites n part1))
  else d

/-- A jump notice from an old minute to the present one: forward makes a reassessment, backward changes nothing (R4, R33, R34). -/
def jumpNotice (old : Nat) (d : Device) : Device := if old < d.minute then reassess allSites d else d

/-! ### What the scanner tells other blocks -/

/-- The start minute of (RP k, site s), absent when today's plan holds none (R37). -/
def Device.startMinute (d : Device) (k s : Nat) : Option Nat :=
  (d.slots.find? fun sl => sl.entry.action == .regStart k && sl.names s).map fun sl => d.ss.effective sl.entry.minute s

/-- The close minute of (RP k, site s) (R37). -/
def Device.closeMinute (d : Device) (k s : Nat) : Option Nat :=
  (d.slots.find? fun sl => sl.entry.action == .regClose k && sl.names s).map fun sl => d.ss.effective sl.entry.minute s

/-- Whether an action is a REG_START. -/
def PlanAction.isStart : PlanAction → Bool
  | .regStart _ => true
  | .ring _ _ => false
  | .routeSwap => false
  | .regClose _ => false

/-- Whether a REG_START of site s has fired today, in any plan (R27, R28). -/
def Scanner.regStarted (ss : Scanner) (s : Nat) : Bool :=
  ss.plans.any fun pl => pl.active.any fun sl => sl.entry.action.isStart && sl.fired.getLsbD s

/-- The effective minute of the latest REG_START of site s that has fired in today's plan (R38). -/
def Device.latestStart (d : Device) (s : Nat) : Option Nat :=
  (d.slots.filter fun sl => sl.entry.action.isStart && sl.fired.getLsbD s).foldl
    (fun acc sl => some (max (acc.getD 0) (d.ss.effective sl.entry.minute s))) none

/-- A deadline: bell second plus grace, capped at the last second of the day (R38, R79). -/
def deadline (bell grace : Nat) : Nat := min (bell + 60 * grace) Config.lastSecond

/-- The site day state (R38). -/
def Device.dayState (d : Device) (s : Nat) : SiteDayState :=
  if !d.clockValid || !(d.slots.any fun sl => sl.entry.action.isStart && sl.names s) then .closed
  else match d.latestStart s with
    | none => .before
    | some e => if d.tb.second ≤ deadline (60 * e) (d.ss.site s).grace then .open else .lateInForce

/-- Whether today is a school day (R14). -/
def Device.schoolDay (d : Device) : Bool := d.tb.today != .closed

/-- The confirm points as the scanner holds them: none on a CLOSED day (R30). QUERY_DAY gives the twelve by registration point and then
by site, an order R39 does not give (DESIGN CHOICE, log 31). -/
def Device.confirmView (d : Device) : List ConfirmPoint :=
  if d.schoolDay then d.ss.confirm else d.ss.confirm.map fun _ => .notSet

end Sys2Proof.Machine
end

