-- ==== Sys2Proof/Machine/Arrivals.lean ====
section
/-! DEFINITION. Taking an arrival: resolution, the lateness arithmetic, the roster transition, tallies, the journal, the
notices and the verdict (chapter 5, R63, R64). -/
namespace Sys2Proof.Machine

/-- An arrival record as handed to the Attendance Engine (Table 5-1). -/
structure Arrival where
  station : Nat
  site    : Nat
  number  : Nat
  keyed   : Bool
  inward  : Bool
  reason  : SignOut
  deriving DecidableEq, Repr

/-! ### The lateness arithmetic -/

/-- The band decision of Table 5-2, from the arrival second, bell, close and deadline (R80). -/
def bandAt (a bell close dl : Nat) : Band :=
  if a ≤ bell then .onTime else if close < a then .veryLate else if a ≤ dl then .grace else .late

/-- Lateness minutes: ceiling((a - B) / 60) (R81). -/
def latenessMinutes (a bell : Nat) : Nat := (a - bell + 59) / 60

/-- Whether a band is LATE or VERY_LATE. -/
def Band.isLate : Band → Bool
  | .late => true
  | .veryLate => true
  | .onTime => false
  | .grace => false
  | .lateExcused => false
  | .desk => false

/-- Whether an excuse makes a late arrival at second a LATE_EXCUSED: up to the last second of its minute (R82). -/
def Excuse.inTime (x : Excuse) (a : Nat) : Bool := a ≤ 60 * x.minute + 59

/-- The LATE_EXPECTED excuse that excuses a late arrival of the pupil now (R82). -/
def Device.lateExcuse (d : Device) (roll : Nat) : Option Excuse :=
  (d.ae.excuseFor roll .lateExpected d.tb.date).filter (·.inTime d.tb.second)

/-- The grace of a pupil due at site s (R78). -/
def Device.graceFor (d : Device) (p : Pupil) (s : Nat) : Nat := if p.grace = 0 then (d.ss.site s).grace else p.grace

/-- The band and lateness minutes of an arrival now of a pupil due at q (R79 to R82). A point today's plan does not open
gives ON_TIME. -/
def Device.judgeAt (d : Device) (p : Pupil) (q : DuePoint) : Band × Nat :=
  match d.startMinute q.point q.site with
  | none => (.onTime, 0)
  | some es =>
    let bell := 60 * es
    let close := ((d.closeMinute q.point q.site).map (60 * ·)).getD Config.lastSecond
    let band := bandAt d.tb.second bell close (deadline bell (d.graceFor p q.site))
    if band.isLate then
      (if (d.lateExcuse p.roll).isSome then .lateExcused else band, latenessMinutes d.tb.second bell)
    else (band, 0)

/-- The band of an arrival of an entry; an entry without a due point is not judged by any time (R78, log 32). -/
def Device.judge (d : Device) (p : Pupil) (e : RosterEntry) : Band × Nat :=
  match e.due with
  | none => (.onTime, 0)
  | some q => d.judgeAt p q

/-! ### Tallies (R84) -/

/-- Late points a band raises (Table 5-3). -/
def Band.points : Band → Nat
  | .late => 1
  | .veryLate => 2
  | .onTime => 0
  | .grace => 0
  | .lateExcused => 0
  | .desk => 0

/-- The tallies after a judged arrival; the minutes of an ON_TIME or GRACE band are 0 (R81, R84). -/
def Pupil.tallied (band : Band) (minutes : Nat) (p : Pupil) : Pupil :=
  { p with
    latePoints := satAdd Config.maxPoints p.latePoints band.points
    lateMinutes := satAdd Config.maxWord p.lateMinutes minutes }

/-! ### Journal (R89) -/

/-- The unread records: from the read cursor to the newest (R89). -/
def Device.unread (d : Device) : List JournalRecord := d.ae.journal.dropWhile (·.serial != d.op.readCursor)

/-- One record is appended with the next serial; at 1024 the oldest goes first, and an unread one moves the cursor on and
is counted lost (R89). -/
def appendJournal (r : JournalRecord) (d : Device) : Device :=
  let lostOne := match d.ae.journal with
    | [] => false
    | oldest :: _ => Config.maxJournal ≤ d.ae.journal.length && oldest.serial == d.op.readCursor
  let kept := if Config.maxJournal ≤ d.ae.journal.length then d.ae.journal.tail else d.ae.journal
  ({ d with
      ae.journal := kept ++ [{ r with serial := d.ae.nextSerial }]
      ae.nextSerial := nextOf Config.lastSerial d.ae.nextSerial
      op.readCursor := if lostOne then nextOf Config.lastSerial d.op.readCursor else d.op.readCursor
      op.lostCount := if lostOne then satAdd Config.maxWord d.op.lostCount 1 else d.op.lostCount }).raise .journal

/-- The journal record of an arrival; an unresolved or carded record keeps the number presented (Table 5-5, R76). -/
def journalOf (a : Arrival) (resolved : Bool) (v : VerdictRecord) (overridden : Bool) (date : Nat) : JournalRecord where
  serial := 0
  date := date
  second := v.second
  station := a.station
  roll := v.roll
  card := if a.keyed && resolved then 0 else a.number
  direction := if a.inward then .inward else .outward
  signOut := if a.inward then none else some a.reason
  verdict := v.verdict
  lateness := v.lateness
  wrongSite := v.dueSite.isSome
  excuseOverridden := overridden
  keyed := a.keyed

/-! ### The roster transition -/

/-- The verdict of a band (Table 5-4). -/
def Band.verdict : Band → Verdict
  | .onTime => .onTime
  | .grace => .grace
  | .late => .late
  | .veryLate => .veryLate
  | .lateExcused => .lateExcused
  | .desk => .alreadyIn

/-- The state a band makes (R63). -/
def Band.rosterState : Band → RosterState
  | .onTime => .present
  | .grace => .present
  | .late => .late
  | .veryLate => .late
  | .lateExcused => .late
  | .desk => .present

/-- The states an IN arrival is judged from (R84). -/
def RosterState.judged : RosterState → Bool
  | .expected => true
  | .provisional => true
  | .unexplained => true
  | .explained => true
  | .excusedAway => true
  | .notDue => false
  | .present => false
  | .late => false
  | .out => false

/-- The absence states an arrival ends with EXCUSE_OVERRIDDEN (R63). -/
def RosterState.absence : RosterState → Bool
  | .provisional => true
  | .unexplained => true
  | .explained => true
  | .excusedAway => true
  | .expected => false
  | .notDue => false
  | .present => false
  | .late => false
  | .out => false

/-- The states whose referenced excuse an arrival marks OVERRIDDEN (R63). -/
def RosterState.excusedState : RosterState → Bool
  | .explained => true
  | .excusedAway => true
  | .expected => false
  | .provisional => false
  | .unexplained => false
  | .notDue => false
  | .present => false
  | .late => false
  | .out => false

/-- The states whose absence notice tag an arrival hands to the absence-notice rule (R63). -/
def RosterState.notified : RosterState → Bool
  | .unexplained => true
  | .explained => true
  | .expected => false
  | .excusedAway => false
  | .provisional => false
  | .notDue => false
  | .present => false
  | .late => false
  | .out => false

/-- The excuse that R63 marks OVERRIDDEN in a judged arrival. -/
def RosterEntry.overridden (e : RosterEntry) : Option ExcuseRef := if e.state.excusedState then e.excuseRef else none

/-- The roster transition and excuse marks of a judged arrival: R63 first, then R82's reference for LATE_EXCUSED. -/
def judgedEntry (e : RosterEntry) (band : Band) (second : Nat) (excuse : Option Excuse) (ae : Attendance) : Attendance :=
  let moved := ae.onEntry e.roll fun e => { e with state := band.rosterState, band := some band, arrivalSecond := some second }
  let marked := match e.overridden with
    | some r => moved.markExcuse e.roll r .overridden
    | none => moved
  match band, excuse with
  | .lateExcused, some x =>
    if e.overridden = some x.ref then marked
    else (marked.markExcuse e.roll x.ref .applied).onEntry e.roll fun e => { e with excuseRef := some x.ref }
  | _, _ => marked

/-- LATE_RECORDED, when the due site notifies each lateness (R86). -/
def askLateRecorded (e : RosterEntry) (band : Band) (minutes : Nat) (d : Device) : Device :=
  match e.due with
  | none => d
  | some q => if (d.ss.site q.site).notifyEachLate then composeLateness (.lateRecorded band minutes) e.roll d else d

/-- LATE_PATTERN, when the points crossed a multiple of a nonzero late step (R86). -/
def askLatePattern (roll : Nat) (band : Band) (old new : Nat) (d : Device) : Device :=
  if d.ae.lateStep ≠ 0 ∧ old / d.ae.lateStep < new / d.ae.lateStep then composeLateness (.latePattern new band) roll d else d

/-- The notices a judged arrival calls for, in the order of R86. -/
def judgedNotices (e : RosterEntry) (band : Band) (minutes old new : Nat) (d : Device) : Device :=
  let followed := if e.state.notified then absenceRuleFor true e.roll e.absenceTag d else d
  if band.isLate then askLatePattern e.roll band old new (askLateRecorded e band minutes followed) else followed

/-- The due site, when the station stands on another (R83). -/
def wrongSite (e : RosterEntry) (stationSite : Nat) : Option Nat :=
  match e.due with
  | none => none
  | some q => if q.site = stationSite then none else some q.site

/-- A judged arrival (R75, R84). -/
def judgedArrival (a : Arrival) (p : Pupil) (e : RosterEntry) (d : Device) : VerdictRecord × Device :=
  let j := d.judge p e
  let v : VerdictRecord := ⟨j.1.verdict, p.roll, j.2, wrongSite e a.site, d.tb.second⟩
  let p' := p.tallied j.1 j.2
  let moved := d.onAe fun ae =>
    (judgedEntry e j.1 d.tb.second (d.lateExcuse p.roll) ae).onPupil p.roll fun _ => p'
  (v, judgedNotices e j.1 j.2 p.latePoints p'.latePoints (appendJournal (journalOf a true v e.state.absence d.tb.date) moved))

/-- A timed IN arrival from a state that is not judged: the verdict kind and the entry after (R63). -/
def unjudgedIn (second : Nat) (e : RosterEntry) : Verdict × RosterEntry :=
  match e.state with
  | .notDue => (.notExpected, { e with arrivalSecond := some (e.arrivalSecond.getD second) })
  | .out => (.returned, { e with state := e.prior.getD .notDue, returnSecond := some second, prior := none })
  | _ => (.alreadyIn, e)

/-- Whether an OUT arrival signs the pupil out (R64). -/
def RosterState.canSignOut : RosterState → Bool
  | .present => true
  | .late => true
  | .notDue => true
  | .expected => false
  | .excusedAway => false
  | .provisional => false
  | .unexplained => false
  | .explained => false
  | .out => false

/-- The LEAVING_EARLY excuse that covers a sign-out now (R64). -/
def Device.leavingExcuse (d : Device) (roll : Nat) : Option Excuse :=
  (d.ae.excuseFor roll .leavingEarly d.tb.date).filter fun x => 60 * (x.minute - Config.leavingLead) ≤ d.tb.second

/-- The entry of a pupil who signs out (R64). -/
def RosterEntry.signedOut (reason : SignOut) (e : RosterEntry) : RosterEntry :=
  { e with state := .out, prior := some e.state, signOut := some reason, returnSecond := none }

/-- A sign-out: covered by an excuse, or asking for LEFT_SITE (R64). -/
def signOutArrival (a : Arrival) (e : RosterEntry) (d : Device) : VerdictRecord × Device :=
  let v : VerdictRecord := ⟨.signedOut, e.roll, 0, wrongSite e a.site, d.tb.second⟩
  let left := d.onAe (·.onEntry e.roll (RosterEntry.signedOut a.reason))
  let record := journalOf a true v false d.tb.date
  match d.leavingExcuse e.roll with
  | some x => (v, appendJournal record (left.onAe (·.excuseTaken x .out)))
  | none => (v, composeLeftSite a.reason e.roll (appendJournal record left))

/-- A timed arrival that only changes its entry, with a verdict kind. -/
def plainArrival (a : Arrival) (verdict : Verdict) (e after : RosterEntry) (d : Device) : VerdictRecord × Device :=
  let v : VerdictRecord := ⟨verdict, e.roll, 0, wrongSite e a.site, d.tb.second⟩
  (v, appendJournal (journalOf a true v false d.tb.date) (d.onAe (·.onEntry e.roll fun _ => after)))

/-- A timed arrival (R75 stages 3 to 7). -/
def timedArrival (a : Arrival) (p : Pupil) (e : RosterEntry) (d : Device) : VerdictRecord × Device :=
  if a.inward then
    if e.state.judged then judgedArrival a p e d
    else plainArrival a (unjudgedIn d.tb.second e).1 e (unjudgedIn d.tb.second e).2 d
  else if e.state.canSignOut then signOutArrival a e d
  else plainArrival a .notIn e e d

/-- The pupil a record resolves to (R76). -/
def Device.resolve (d : Device) (a : Arrival) : Option Pupil :=
  if a.keyed then (if 1 ≤ a.number ∧ a.number ≤ Config.maxRoll then d.ae.pupil a.number else none)
  else d.ae.cardHolder a.number

/-- The roster entry of a timed arrival: the clock VALID and a roster held (R77). -/
def Device.timedEntry (d : Device) (roll : Nat) : Option RosterEntry := if d.clockValid then d.ae.entry roll else none

/-- The Attendance Engine takes an arrival record as one event and hands back its verdict (R75, R88). -/
def takeArrival (a : Arrival) (d : Device) : VerdictRecord × Device :=
  match d.resolve a with
  | none =>
    let v : VerdictRecord := ⟨.unknownCard, 0, 0, none, d.tb.second⟩
    (v, appendJournal (journalOf a false v false d.tb.date) d)
  | some p =>
    match d.timedEntry p.roll with
    | none =>
      let v : VerdictRecord := ⟨.untimed, p.roll, 0, none, d.tb.second⟩
      (v, appendJournal (journalOf a true v false d.tb.date) d)
    | some e => timedArrival a p e d

end Sys2Proof.Machine
end

