-- ==== Sys2Proof/Machine/Messages.lean ====
section
/-! DEFINITION. Taking a parent message as one event (R99 to R105), and handing a MSG content to its block (R142). -/
namespace Sys2Proof.Machine

/-- A parent message (Table 6-2). -/
structure ParentMessage where
  key      : Nat
  roll     : Nat
  intent   : Nat
  dayCount : Nat
  minute   : Nat
  number   : Nat
  deriving DecidableEq, Repr

/-- The known sender of a message; key 0 is never held (R99). -/
def Attendance.sender (ae : Attendance) (key : Nat) : Option Contact := if key = 0 then none else ae.contactOf key

/-- The target pupils (R100). -/
def targets (roll : Nat) (c : Contact) : List Nat := if roll ≠ 0 ∧ c.pupils.contains roll then [roll] else c.pupils

/-- The day count as taken: 0 is 1, above 14 is 14 (R103). -/
def takenDays (n : Nat) : Nat := clampNat 1 14 n

/-- The last day an ABSENT_DAYS message covers (Table 6-3). -/
def lastAbsentDay (today dayCount : Nat) : Nat := min Config.lastDay (today + takenDays dayCount - 1)

/-- The excuse a message makes for a pupil; none for an intent the part does not know (Table 6-3). -/
def excuseMade (today : Nat) (m : ParentMessage) (c : Contact) (pupil : Nat) : Option Excuse :=
  match m.intent with
  | 1 => some ⟨pupil, .absent, today, today, 0, .contact c.index, .pending⟩
  | 2 => some ⟨pupil, .absent, today, lastAbsentDay today m.dayCount, 0, .contact c.index, .pending⟩
  | 3 => some ⟨pupil, .lateExpected, today, today, min Config.lastMinute m.minute, .contact c.index, .pending⟩
  | 4 => some ⟨pupil, .leavingEarly, today, today, min Config.lastMinute m.minute, .contact c.index, .pending⟩
  | _ => none

/-- The excuses a message records, one a target; none when it cannot be recorded: an unknown intent, the clock INVALID, or
a table without room for them all (R103). -/
def Device.recordable (m : ParentMessage) (c : Contact) (d : Device) : Option (List Excuse) :=
  match decodeAll (excuseMade d.tb.date m c) (targets m.roll c) with
  | none => none
  | some news => if !d.clockValid || overfull news d.ae.excuses then none else some news

/-- A desk call MESSAGE entry, with the fields as received (R102, Table 6-5). -/
def messageCall (reason : CallReason) (urgent : Bool) (contact : Nat) (m : ParentMessage) : Device → Device :=
  addCall reason urgent (.message contact m.key m.roll m.intent m.dayCount m.minute m.number)

/-- The pupil an ACK_PARENT is about: the named pupil of a known sender's list, otherwise 0 (Table 7-1). -/
def Device.ackPupil (m : ParentMessage) (d : Device) : Nat :=
  match d.ae.sender m.key with
  | none => 0
  | some c => if c.pupils.contains m.roll then m.roll else 0

/-- The one ACK_PARENT of a message (R105). -/
def acknowledge (code : AckCode) (m : ParentMessage) (contact first last : Nat) (d : Device) : Device :=
  compose (.ackParent code m.intent m.roll first last) (d.ackPupil m) contact m.key 1 d.tb.date d

/-- The code for a FREE_TEXT message, from whether its sender has pupils and whether the desk call list took the entry
(R102, Table 6-4). -/
def freeTextCode (hasPupils refused : Bool) : AckCode :=
  if !hasPupils then .unknownPupil else if refused then .notRecorded else .accepted

/-- A FREE_TEXT message is held for the desk (R102). -/
def takeFreeText (m : ParentMessage) (contact : Nat) (hasPupils : Bool) (d : Device) : Device :=
  acknowledge (freeTextCode hasPupils d.callsFull) m contact 0 0 (messageCall .freeText false contact m d)

/-- The code for recorded excuses, from the roster results (Table 6-4, orders 5 and 6). -/
def resultCode (results : List RosterResult) : AckCode :=
  if results.contains .alreadyIn && !results.contains .changed then .alreadyIn else .accepted

/-- The days an acknowledgement of recorded excuses carries: those of the excuse made, for ABSENT_DAYS (R105). -/
def ackDays (today : Nat) (m : ParentMessage) : Nat × Nat :=
  if m.intent = 2 then (today, lastAbsentDay today m.dayCount) else (0, 0)

/-- An excusing message from a contact with MAY_EXCUSE and a target (R103, R105). -/
def takeExcusing (m : ParentMessage) (c : Contact) (d : Device) : Device :=
  match d.recordable m c with
  | none => acknowledge .notRecorded m c.index 0 0 (messageCall .notRecorded true c.index m d)
  | some news =>
    let r := recordAll news d
    acknowledge (resultCode r.1) m c.index (ackDays d.tb.date m).1 (ackDays d.tb.date m).2 r.2

/-- The Attendance Engine takes a parent message (R99 to R105). -/
def takeMessage (m : ParentMessage) (d : Device) : Device :=
  match d.ae.sender m.key with
  | none => if m.intent = freeTextIntent then takeFreeText m 0 false d else acknowledge .unknownPupil m 0 0 0 d
  | some c =>
    if m.intent = freeTextIntent then takeFreeText m c.index (!c.pupils.isEmpty) d
    else if c.pupils.isEmpty then acknowledge .unknownPupil m c.index 0 0 d
    else if !c.mayExcuse then acknowledge .notAuthorised m c.index 0 0 (messageCall .notAuthorised false c.index m d)
    else takeExcusing m c d

/-- A taken message's content is handed on: a parent message to the Attendance Engine, an outcome to the Notice Unit; an
unknown content kind is discarded (R142). -/
def takeContent : MsgContent → Device → Device
  | .parent key roll intent dayCount minute number => takeMessage ⟨key, roll, intent, dayCount, minute, number⟩
  | .outcome tag outcome code => takeOutcome tag outcome code
  | .unknownKind => id

end Sys2Proof.Machine
end

