-- ==== Sys2Proof/Machine/Relay.lean ====
section
/-! DEFINITION. The Relay Link at work: the dispatch ring (R131 to R133), use of the line (R134, R135), link states (R136 to
R140), receiving in UP (R142 to R145), rewind and replay (R146, R147). Its requests are in Machine/RelayRequests.lean. -/
namespace Sys2Proof.Machine

/-! ### The dispatch ring -/

/-- The number of notices held (Table 8-3). -/
def RelayLink.occupancy (rl : RelayLink) : Nat := rl.ring.length

/-- The position the next notice takes (Table 8-3). -/
def RelayLink.writePos (rl : RelayLink) : Nat := (rl.readPos + rl.ring.length) % Config.placeModulus

/-- The oldest notice leaves its slot and is handed to the Notice Unit as a receipt (R133). -/
def retireOne (d : Device) : Device :=
  match d.rl.ring with
  | [] => d
  | r :: rest => receipt r.notice { d with rl.ring := rest, rl.readPos := (d.rl.readPos + 1) % Config.placeModulus }

/-- The k oldest notices are retired, oldest first (R133). -/
def retire : Nat → Device → Device
  | 0, d => d
  | k + 1, d => retire k (retireOne d)

/-- How far a mark lies past the read position, modulo 128 (R133). -/
def RelayLink.markAhead (rl : RelayLink) (m : Nat) : Nat :=
  (m + (Config.placeModulus - rl.readPos % Config.placeModulus)) % Config.placeModulus

/-- A mark is applied to the ring: in window it retires the notices before it, out of window it is ignored (R133). -/
def applyMark (m : Nat) (d : Device) : Device :=
  if d.rl.markAhead m ≤ d.rl.occupancy then retire (d.rl.markAhead m) d else d

/-- Whether a replay is in progress. -/
def TxActivity.isReplay : TxActivity → Bool
  | .replay _ => true
  | .rest => false
  | .rewindRun _ => false
  | .clearRun _ => false

/-- Whether a CLEAR run is in progress. -/
def TxActivity.isClearRun : TxActivity → Bool
  | .clearRun _ => true
  | .rest => false
  | .rewindRun _ => false
  | .replay _ => false

/-- Whether a REWIND run is in progress. -/
def TxActivity.isRewindRun : TxActivity → Bool
  | .rewindRun _ => true
  | .rest => false
  | .clearRun _ => false
  | .replay _ => false

/-- A mark is taken: applied, or placed in the mark hold during a replay (R133). -/
def takeMark (m : Nat) (d : Device) : Device :=
  if d.rl.activity.isReplay then { d with rl.markHold := some (m % Config.placeModulus) } else applyMark m d

/-- A count of notices by class, in the order URGENT, ROUTINE, BULK. -/
def classCounts (l : List Notice) : List Nat :=
  [(l.filter (·.cls == .urgent)).length, (l.filter (·.cls == .routine)).length, (l.filter (·.cls == .bulk)).length]

/-! ### Use of the line -/

/-- A frame begins: it carries a mark, and the 100 ms and 1 s begin again (R134, R135). -/
def send (f : RelayFrame) (mark : Nat) (d : Device) : Device :=
  { d with rl.frame := some f, rl.lastMark := mark, rl.markDue := false, rl.idleDue := false }

/-- The collected mark becomes another. A MARK stays due only while it differs from the last one sent: when it comes to differ again, the
100 ms begin again (R135). -/
def RelayLink.collect (mark : Nat) (rl : RelayLink) : RelayLink :=
  { rl with collected := mark, markDue := rl.markDue && mark != rl.lastMark }

/-- Whether the Relay Link can take a new notice (R134). -/
def RelayLink.canTake (rl : RelayLink) : Bool :=
  rl.link == .up && !rl.hold && !rl.startOwed && !rl.runOwed && !rl.rewindOwed && !rl.furtherOwed && rl.activity == .rest

/-- Whether a ring of an occupancy has room for a class (R114). -/
def ringRoom (c : NoticeClass) (occupancy : Nat) : Bool :=
  match c with
  | .urgent => occupancy < Config.ringUrgent
  | .routine => occupancy < Config.ringRoutine
  | .bulk => occupancy < Config.ringBulk

/-- The notice the Notice Unit offers (R114). -/
def Device.offered (d : Device) : Option Notice :=
  if !d.rolling && d.rl.canTake then d.nu.queued.find? fun n => ringRoom n.cls d.rl.occupancy else none

/-- A notice leaves the queue, enters the ring at the write position and begins to go out as a NOTE (R132). -/
def dispatch (n : Notice) (d : Device) : Device :=
  let seq := nextOf 255 d.rl.sendSeq
  let place := (d.rl.writePos + 1) % Config.placeModulus
  let entered := { d with rl.ring := d.rl.ring ++ [⟨n, seq, place⟩], rl.sendSeq := seq }
  send (.note seq place d.rl.collected n) d.rl.collected (leaveQueue n.tag entered)

/-- A replay ends: the mark hold is applied and emptied, and a further rewind becomes the one owed (R146). -/
def endReplay (d : Device) : Device :=
  let ended := { d with
    rl.activity := .rest
    rl.rewindOwed := d.rl.rewindOwed || d.rl.furtherOwed
    rl.furtherOwed := false
    rl.markHold := none }
  match d.rl.markHold with
  | none => ended
  | some m => applyMark m ended

/-- The frame going out has ended; a run or replay whose last frame that was ends with it (R134, R146). -/
def lineFalls (d : Device) : Device :=
  let free := { d with rl.frame := none }
  match d.rl.activity with
  | .rewindRun 0 => { free with rl.activity := .rest }
  | .clearRun 0 => if d.rl.ring.isEmpty then endReplay free else { free with rl.activity := .replay d.rl.ring }
  | .replay [] => endReplay free
  | .rewindRun (_ + 1) => free
  | .clearRun (_ + 1) => free
  | .replay (_ :: _) => free
  | .rest => free

/-- The choices 3 to 7 of R134. -/
def chooseNew (d : Device) : Device :=
  if d.rl.runOwed then
    send (.resyncRewind d.rl.collected) d.rl.collected
      { d with rl.runOwed := false, rl.activity := .rewindRun (d.rl.settings.runLength - 1) }
  else if d.rl.rewindOwed then
    send (.resyncClear d.rl.collected) d.rl.collected
      { d with rl.rewindOwed := false, rl.activity := .clearRun (d.rl.settings.runLength - 1) }
  else match d.offered with
    | some n => dispatch n d
    | none =>
      if d.rl.markDue && d.rl.collected != d.rl.lastMark then send (.mark d.rl.collected) d.rl.collected d
      else if d.rl.idleDue then send (.idle d.rl.collected) d.rl.collected d
      else d

/-- The transmitter takes the first choice of R134 that applies. -/
def choose (d : Device) : Device :=
  if d.rl.startOwed then send .start 0 { d with rl.startOwed := false }
  else match d.rl.activity with
    | .rewindRun (n + 1) => send (.resyncRewind d.rl.collected) d.rl.collected { d with rl.activity := .rewindRun n }
    | .clearRun (n + 1) => send (.resyncClear d.rl.collected) d.rl.collected { d with rl.activity := .clearRun n }
    | .replay (e :: rest) =>
      send (.note e.seq e.place d.rl.collected e.notice) d.rl.collected { d with rl.activity := .replay rest }
    | .rewindRun 0 => chooseNew d
    | .clearRun 0 => chooseNew d
    | .replay [] => chooseNew d
    | .rest => chooseNew d

/-- The line falls free, or is looked at again while at rest (R134; R137 in STARTING). -/
def lineFree (d : Device) : Device :=
  match d.rl.link with
  | .up => choose (lineFalls d)
  | .starting => { d with rl.frame := none }
  | .off => d
  | .down => d

/-! ### Link states -/

/-- The link enters STARTING and sends a START at once; a change of link state sets LINK (R136, R137). -/
def enterStarting (d : Device) : Device := (send .start 0 { d with rl.link := .starting }).raise .link

/-- What entering UP, or a relay restart, sets (R137, R140). -/
def RelayLink.opened (rl : RelayLink) : RelayLink :=
  { rl with
    sendSeq := 0, readPos := 0, ring := []
    lastSeq := 0, lastPlace := 0, collected := 0
    hold := false, rewindCount := 0, clearCount := 0, resyncTimer := false, attempts := 0, markHold := none
    startOwed := true, silence := some 0, restartGuard := true }

/-- The link enters UP (R137). -/
def enterUp (d : Device) : Device := ({ d with rl := { d.rl.opened with link := .up } }).raise .link

/-- What the link discards when it empties; the ring goes back to the Notice Unit (R138). -/
def RelayLink.emptied (rl : RelayLink) : RelayLink :=
  { rl with
    ring := [], readPos := 0, frame := none
    startOwed := false, runOwed := false, rewindOwed := false, furtherOwed := false, activity := .rest
    hold := false, rewindCount := 0, clearCount := 0, resyncTimer := false, attempts := 0
    markHold := none, rolloverHold := [], markDue := false, idleDue := false }

/-- The Relay Link empties in one event (R138). -/
def emptyLink (d : Device) : Device := returnNotices (d.rl.ring.map (·.notice)) 0 0 0 { d with rl := d.rl.emptied }

/-- The link leaves UP for DOWN or OFF: it empties, and every old enough URGENT notice falls back (R119, R138). -/
def leaveUp (next : LinkState) (d : Device) : Device :=
  let emptied := emptyLink d
  fallBackAll (({ emptied with rl.link := next, rl.silence := none, rl.downFor := 0, rl.restartGuard := false }).raise .link)

/-- A relay restart (R140). -/
def relayRestart (d : Device) : Device :=
  let emptied := emptyLink d
  ({ emptied with rl := emptied.rl.opened }).raise .link

/-! ### Receiving in UP -/

/-- Receive hold is entered (R143). -/
def enterHold (d : Device) : Device :=
  { d with rl.hold := true, rl.rewindCount := 0, rl.runOwed := true, rl.resyncTimer := true, rl.attempts := 0 }

/-- A bad frame in UP: both counts fall to 0, and out of hold the receiver enters hold (R143, R144). Elsewhere it is
ignored (R130). -/
def badFrame (d : Device) : Device :=
  if d.rl.link = .up then
    let counted := { d with rl.rewindCount := 0, rl.clearCount := 0 }
    if d.rl.hold then counted else enterHold counted
  else d

/-- A sound frame other than a RESYNC or START is heard in UP: the silence timer restarts, the restart guard is cleared and
both counts fall to 0 (R137, R138, R144). -/
def heard (d : Device) : Device :=
  { d with rl.silence := some 0, rl.restartGuard := false, rl.rewindCount := 0, rl.clearCount := 0 }

/-- How far a place lies behind the last taken place, modulo 128 (R142). -/
def RelayLink.placeBehind (rl : RelayLink) (place : Nat) : Nat :=
  (rl.lastPlace + (Config.placeModulus - place % Config.placeModulus)) % Config.placeModulus

/-- A MSG next in sequence: its mark first, then its place, then its content handed on or held (R19, R142). -/
def takeMsg (seq place mark : Nat) (c : MsgContent) (d : Device) : Device :=
  let marked := takeMark mark d
  let p := place % Config.placeModulus
  let taken := { marked with rl.lastSeq := seq, rl.lastPlace := p }
  if d.rolling then { taken with rl.rolloverHold := taken.rl.rolloverHold ++ [⟨p, c⟩] }
  else takeContent c { taken with rl := taken.rl.collect p }

/-- A sound MSG in UP and out of hold: with 64 messages held during a rollover it is dropped and hold entered, whatever its seq
(R19); otherwise it is judged by its seq (R142). -/
def judgeMsg (seq place mark : Nat) (c : MsgContent) (d : Device) : Device :=
  if d.rolling && Config.maxHeld ≤ d.rl.rolloverHold.length then enterHold d
  else if seq = nextOf 255 d.rl.lastSeq then takeMsg seq place mark c d
  else if d.rl.placeBehind place ≤ 63 then takeMark mark d
  else enterHold d

/-- A MSG frame whose check agrees (R130, R142). -/
def receiveMsg (seq place mark : Nat) (body : List Byte) (d : Device) : Device :=
  if d.rl.link = .up then
    match msgContent body with
    | none => badFrame d
    | some c => if d.rl.hold then heard d else judgeMsg seq place mark c (heard d)
  else d

/-- A sound MARK or IDLE (R142). -/
def receiveMark (mark : Nat) (d : Device) : Device :=
  if d.rl.link = .up then if d.rl.hold then heard d else takeMark mark (heard d) else d

/-- A rewind request, by what the transmitter is doing (R146). -/
def rewindRequest (d : Device) : Device :=
  if d.rl.activity.isClearRun || d.rl.activity.isReplay then { d with rl.furtherOwed := true }
  else { d with rl.rewindOwed := true }

/-- A sound RESYNC with flag REWIND in UP (R144). -/
def receiveRewind (mark : Nat) (d : Device) : Device :=
  let reached := d.rl.rewindCount + 1 == d.rl.settings.threshold
  let counted := { d with
    rl.silence := some 0, rl.restartGuard := false, rl.clearCount := 0
    rl.rewindCount := min d.rl.settings.threshold (d.rl.rewindCount + 1) }
  if reached then takeMark mark (rewindRequest counted)
  else if d.rl.hold then counted else takeMark mark counted

/-- A sound RESYNC with flag CLEAR in UP (R144). -/
def receiveClear (mark : Nat) (d : Device) : Device :=
  let reached := d.rl.clearCount + 1 == d.rl.settings.threshold
  let counted := { d with
    rl.silence := some 0, rl.restartGuard := false, rl.rewindCount := 0
    rl.clearCount := min d.rl.settings.threshold (d.rl.clearCount + 1) }
  if d.rl.hold then
    if reached then takeMark mark { counted with rl.hold := false, rl.resyncTimer := false, rl.attempts := 0 } else counted
  else takeMark mark counted

/-- A RESYNC frame whose check agrees: flag REWIND 1, CLEAR 2, anything else a bad frame (R130, R144). -/
def receiveResync (flag mark : Nat) (d : Device) : Device :=
  if d.rl.link = .up then
    if flag = 1 then receiveRewind mark d else if flag = 2 then receiveClear mark d else badFrame d
  else d

/-- A sound START (R137, R140). -/
def receiveStart (d : Device) : Device :=
  match d.rl.link with
  | .starting => enterUp d
  | .up =>
    if d.rl.restartGuard then { d with rl.silence := some 0, rl.rewindCount := 0, rl.clearCount := 0 } else relayRestart d
  | .off => d
  | .down => d

/-- The resync timer reaches the resync time (R145). -/
def resyncExpired (d : Device) : Device :=
  if d.rl.link = .up ∧ d.rl.hold ∧ d.rl.resyncTimer then
    if d.rl.attempts + 1 < d.rl.settings.attemptLimit then
      { d with rl.attempts := d.rl.attempts + 1, rl.runOwed := d.rl.runOwed || !d.rl.activity.isRewindRun }
    else leaveUp .down d
  else d

/-! ### The commands of the relay line -/

/-- RX_MSG (R142). -/
def execRxMsg (seq place mark : Nat) (body : List Byte) : State → Host.Outcome State Fault Refusal :=
  act (powered (receiveMsg seq place mark body))

/-- RX_MARK (R142). -/
def execRxMark (mark : Nat) : State → Host.Outcome State Fault Refusal := act (powered (receiveMark mark))

/-- RX_IDLE (R142). -/
def execRxIdle (mark : Nat) : State → Host.Outcome State Fault Refusal := act (powered (receiveMark mark))

/-- RX_RESYNC (R144). -/
def execRxResync (flag mark : Nat) : State → Host.Outcome State Fault Refusal := act (powered (receiveResync flag mark))

/-- RX_START (R137, R140). -/
def execRxStart : State → Host.Outcome State Fault Refusal := act (powered receiveStart)

/-- RX_BAD_FRAME (R130, R143). -/
def execRxBadFrame : State → Host.Outcome State Fault Refusal := act (powered badFrame)

/-- RELAY_BYTE_TIMEOUT: the frame is bad (R130, R143). -/
def execRelayByteTimeout : State → Host.Outcome State Fault Refusal := act (powered badFrame)

/-- TX_LINE_FREE (R134). -/
def execTxLineFree : State → Host.Outcome State Fault Refusal := act (powered lineFree)

/-- START_TIMER: every 250 ms in STARTING a START is sent (R137). -/
def execStartTimer : State → Host.Outcome State Fault Refusal :=
  act (powered fun d => if d.rl.link = .starting then send .start 0 d else d)

/-- MARK_DUE: in UP and out of hold a MARK falls due while the collected mark differs from the last one sent (R135, R143). -/
def execMarkDue : State → Host.Outcome State Fault Refusal :=
  act (powered fun d =>
    if d.rl.link = .up ∧ !d.rl.hold ∧ d.rl.collected ≠ d.rl.lastMark then { d with rl.markDue := true } else d)

/-- IDLE_DUE: in UP, 1 s after the last frame sent ended (R135). -/
def execIdleDue : State → Host.Outcome State Fault Refusal :=
  act (powered fun d => if d.rl.link = .up ∧ d.rl.frame = none then { d with rl.idleDue := true } else d)

/-- SILENCE_TIMEOUT (R138). -/
def execSilenceTimeout : State → Host.Outcome State Fault Refusal :=
  act (powered fun d => if d.rl.link = .up then leaveUp .down d else d)

/-- RESYNC_TIMEOUT (R145). -/
def execResyncTimeout : State → Host.Outcome State Fault Refusal := act (powered resyncExpired)

/-- AUTO_RESTART (R139). -/
def execAutoRestart : State → Host.Outcome State Fault Refusal :=
  act (powered fun d => if d.rl.link = .down ∧ d.rl.settings.autoRestart ≠ 0 then enterStarting d else d)

end Sys2Proof.Machine
end

