-- ==== Sys2Proof/Machine/NoticeRequests.lean ====
section
/-! DEFINITION. The Notice Unit's requests (R120, R123, R124, R126, R127), the bulletin fan-out's step (R123) and the unit's
two expiries (R118, R119). -/
namespace Sys2Proof.Machine

/-! ### The bulletin fan-out -/

/-- COMPOSE_BULLETIN (R123). -/
def serveComposeBulletin (number cohorts sites : Nat) (d : Device) : Answer × Device :=
  checked d
    [(number == 0 || cohorts == 0 || sites == 0 || !fitsMask 7 cohorts || !fitsMask 3 sites, .range), (d.rolling, .busy),
     (d.nu.fanout.status != .idle, .state)]
    (ok .empty, { d with nu.fanout :=
      ⟨.running, number, BitVec.ofNat 7 cohorts, BitVec.ofNat 3 sites, 1, 0, 0, d.nu.fanout.lastEnd⟩ })

/-- STOP_BULLETIN (R124). -/
def serveStopBulletin (d : Device) : Answer × Device :=
  checked d [(d.rolling, .busy)] (ok .empty, if d.nu.fanout.status = .idle then d else endFanout .stopped d)

/-- QUERY_FANOUT (R124). -/
def serveQueryFanout (d : Device) : Answer × Device := checked d [(d.rolling, .busy)] (ok (.fanout d.nu.fanout), d)

/-- Whether a pupil's start group names a site of the mask on a cycle day of the present cycle; a mask of all three sites
matches every pupil (R123). -/
def Device.sitesMatch (sites : SiteSet) (p : Pupil) (d : Device) : Bool :=
  sites == BitVec.allOnes 3 ||
    ((d.ae.groups.getD p.group []).take d.tb.cycleLength).any fun q =>
      match q with
      | none => false
      | some at' => sites.getLsbD at'.site

/-- Whether a bulletin concerns a pupil (R123). -/
def Device.concerned (p : Pupil) (d : Device) : Bool :=
  d.nu.fanout.cohorts.getLsbD (p.cohort - 1) && d.sitesMatch d.nu.fanout.sites p

/-- The fan-out's cursor moves on; the step that takes roll number 2400 ends it COMPLETE (R123), and leaves the cursor at 2400, the end
of Table 7-4's range (DESIGN CHOICE, log 48). -/
def fanoutOn (d : Device) : Device :=
  if d.nu.fanout.cursor < Config.maxRoll then { d with nu.fanout.cursor := d.nu.fanout.cursor + 1 }
  else endFanout .complete d

/-- A fan-out's pupil: passed by for want of a contact, paused on a full queue, or sent the bulletin (R123). -/
def bulletinFor (p : Pupil) (d : Device) : Device :=
  match d.ae.notifiable p.roll 0 with
  | none => fanoutOn { d with nu.fanout.passedBy := d.nu.fanout.passedBy + 1 }
  | some (step, c) =>
    if Config.queueBulk ≤ d.nu.queueCount then { d with nu.fanout.status := .paused }
    else
      let sent := compose (.bulletin d.nu.fanout.bulletin) p.roll c.index c.key step d.tb.date d
      fanoutOn { sent with nu.fanout.composed := sent.nu.fanout.composed + 1 }

/-- A step of a RUNNING fan-out (R123). -/
def fanoutStep (d : Device) : Device :=
  if d.nu.fanout.status = .running then
    match d.ae.pupil d.nu.fanout.cursor with
    | none => fanoutOn d
    | some p => if d.concerned p then bulletinFor p d else fanoutOn d
  else d

/-! ### The desk call list -/

/-- Whether a desk call entry is a notice entry. -/
def CallEntry.isNotice (e : CallEntry) : Bool := e.notice?.isSome

/-- CLOSE_CALL (R126). -/
def serveCloseCall (number : Nat) (d : Device) : Answer × Device :=
  match d.nu.calls.find? (·.number == number) with
  | none => checked d [(d.rolling, .busy)] (refuse .notFound d)
  | some e =>
    checked d [(d.rolling, .busy)]
      (ok (.callClosed e.isNotice e.reason), { d with nu.calls := d.nu.calls.filter (·.number != number) })

/-- QUERY_CALLS (R126). -/
def serveQueryCalls (position : Nat) (d : Device) : Answer × Device :=
  checked d [(position == 0 || Config.maxCalls < position, .range), (d.rolling, .busy)]
    (ok (.calls ((d.nu.calls.drop (position - 1)).take Config.recordsPerReply) d.nu.calls.length), d)

/-! ### Reading notices -/

/-- Where a tag is held, as QUERY_NOTICE gives it (R127). -/
def Device.noticeReply (tag : Nat) (d : Device) : Option ReplyBody :=
  match d.nu.queued.find? (·.tag == tag) with
  | some n => some (.notice n .queue none none)
  | none =>
    match d.rl.ring.find? (·.notice.tag == tag) with
    | some r => some (.notice r.notice .ring none none)
    | none =>
      match d.nu.awaitingOf tag with
      | some w => some (.notice w.notice .awaiting none (some w.deadline))
      | none =>
        match d.nu.calls.find? (CallEntry.holdsTag tag) with
        | some e => e.notice?.map fun n => .notice n .calls (some e.number) none
        | none => (d.nu.calledToday.find? (·.tag == tag)).map fun c => .noticeClosed c.roll c.reason

/-- QUERY_NOTICE (R127). -/
def serveQueryNotice (tag : Nat) (d : Device) : Answer × Device :=
  match d.noticeReply tag with
  | none => checked d [(d.rolling, .busy)] (refuse .notFound d)
  | some body => checked d [(d.rolling, .busy)] (ok body, d)

/-- The counts QUERY_NOTICES gives (R127). -/
def Device.noticeCounts (d : Device) : NoticeCounts where
  queue := [d.nu.urgent.length, d.nu.routine.length, d.nu.bulk.length]
  awaiting := d.nu.awaiting.length
  ring := classCounts (d.rl.ring.map (·.notice))
  calls := d.nu.calls.length
  nextTag := d.nu.nextTag

/-- QUERY_NOTICES (R127). -/
def serveQueryNotices (place position : Nat) (d : Device) : Answer × Device :=
  match noticesPlaceCode place with
  | none => refuse .range d
  | some inQueue =>
    let l := if inQueue then d.nu.queued.map fun n => (n, none) else d.nu.awaiting.map fun w => (w.notice, some w.deadline)
    checked d [(position == 0, .range), (d.rolling, .busy)]
      (ok (.notices (if inQueue then .queue else .awaiting) ((l.drop (position - 1)).take Config.recordsPerReply)
        d.noticeCounts), d)

/-! ### Times -/

/-- SET_NOTICE_TIMES (R120). -/
def serveSetNoticeTimes (timeout delay : Nat) (d : Device) : Answer × Device :=
  let t := clampNat 5 120 timeout
  let f := clampNat 1 60 delay
  let set := { d with nu.outcomeTimeout := t, nu.fallbackDelay := f }
  checked d [(d.rolling, .busy)]
    (okClamped (t != timeout || f != delay) .empty, if d.rl.link = .up then set else fallBackAll set)

/-- QUERY_NOTICE_TIMES (R120). -/
def serveQueryNoticeTimes (d : Device) : Answer × Device :=
  checked d [(d.rolling, .busy)] (ok (.noticeTimes d.nu.outcomeTimeout d.nu.fallbackDelay), d)

/-! ### The commands -/

/-- COMPOSE_BULLETIN (R123). -/
def execComposeBulletin (tag number cohorts sites : Nat) : State → Host.Outcome State Fault Refusal :=
  act (request 39 tag (serveComposeBulletin number cohorts sites))

/-- STOP_BULLETIN (R124). -/
def execStopBulletin (tag : Nat) : State → Host.Outcome State Fault Refusal := act (request 40 tag serveStopBulletin)

/-- QUERY_FANOUT (R124). -/
def execQueryFanout (tag : Nat) : State → Host.Outcome State Fault Refusal := act (request 41 tag serveQueryFanout)

/-- CLOSE_CALL (R126). -/
def execCloseCall (tag number : Nat) : State → Host.Outcome State Fault Refusal := act (request 42 tag (serveCloseCall number))

/-- QUERY_CALLS (R126). -/
def execQueryCalls (tag position : Nat) : State → Host.Outcome State Fault Refusal :=
  act (request 43 tag (serveQueryCalls position))

/-- QUERY_NOTICE (R127). -/
def execQueryNotice (tag notice : Nat) : State → Host.Outcome State Fault Refusal :=
  act (request 44 tag (serveQueryNotice notice))

/-- QUERY_NOTICES (R127). -/
def execQueryNotices (tag place position : Nat) : State → Host.Outcome State Fault Refusal :=
  act (request 45 tag (serveQueryNotices place position))

/-- SET_NOTICE_TIMES (R120). -/
def execSetNoticeTimes (tag outcomeTimeout fallbackDelay : Nat) : State → Host.Outcome State Fault Refusal :=
  act (request 46 tag (serveSetNoticeTimes outcomeTimeout fallbackDelay))

/-- QUERY_NOTICE_TIMES (R120). -/
def execQueryNoticeTimes (tag : Nat) : State → Host.Outcome State Fault Refusal := act (request 47 tag serveQueryNoticeTimes)

/-- OUTCOME_TIMEOUT (R118). -/
def execOutcomeTimeout (notice : Nat) : State → Host.Outcome State Fault Refusal := act (powered (outcomeTimedOut notice))

/-- RELAY_DOWN_FALLBACK (R119). -/
def execRelayDownFallback (notice : Nat) : State → Host.Outcome State Fault Refusal := act (powered (fallbackDue notice))

/-- FANOUT_STEP (R123). -/
def execFanoutStep : State → Host.Outcome State Fault Refusal := act (powered fanoutStep)

end Sys2Proof.Machine
end

