-- ==== Sys2Proof/Machine/Gate.lean ====
section
/-! DEFINITION. The Gate Bus: the poll round (R167 to R169), station states (R170), arrival records and repeats (R171, R172),
and the requests SET_STATION and QUERY_STATIONS (R166, R174). -/
namespace Sys2Proof.Machine

/-! ### The station table -/

/-- Station at an address 1..8. -/
def GateBus.station (gb : GateBus) (a : Nat) : Station := nth gb.stations a Station.reset

/-- Writes a station record. -/
def Device.putStation (a : Nat) (st : Station) (d : Device) : Device := { d with gb.stations := setNth d.gb.stations a st }

/-- Whether a station is enabled (R166). -/
def Station.enabled (st : Station) : Bool := st.state != .disabled

/-- The station addresses, 1..8. -/
def allStations : List Nat := List.range' 1 8

/-- A station with its verdicts forgotten (R166, R171). -/
def Station.forgotten (st : Station) : Station := { st with stored := [], owed := [] }

/-! ### The poll round -/

/-- Whether the round of the present counter polls the station at an address (R167). -/
def GateBus.pollable (gb : GateBus) (a : Nat) : Bool :=
  match (gb.station a).state with
  | .syncing => true
  | .active => true
  | .searching => gb.round + 1 == a
  | .lost => gb.round + 1 == a
  | .disabled => false

/-- The next address of the round to poll. -/
def GateBus.nextPoll (gb : GateBus) : Option Nat := allStations.find? fun a => gb.reached ≤ a && gb.pollable a

/-- Whether an exchange has ended with all its records taken: a round and a poll wait for that (DESIGN CHOICE, log 27). -/
def GateBus.atRest (gb : GateBus) : Bool := gb.inFlight == none && gb.records.isEmpty

/-- Behind its broadcast, with no poll in flight, the round reaches the next address it polls, or its end, past address 8: addresses
passed by, and a round that has ended, stay so whatever their stations become. At its broadcast, address 0, no station's address is
reached yet (R167). -/
def GateBus.settled (gb : GateBus) : GateBus :=
  if gb.inFlight = none ∧ gb.reached ≠ 0 then { gb with reached := gb.nextPoll.getD 9 } else gb

/-- The round settles after an event on the bus. -/
def settleRound (d : Device) : Device := { d with gb := d.gb.settled }

/-- The BROADCAST frame (R168). -/
def Device.broadcast (d : Device) : GateFrame :=
  .broadcast d.tb.date d.tb.second d.tb.validity d.schoolDay (allSites.map d.dayState)

/-- A round begins once the one before has ended, while no rollover is ACTIVE: it stands at its broadcast (R18, R167). -/
def beginRound (d : Device) : Device :=
  if !d.rolling && d.gb.atRest && d.gb.nextPoll == none then
    { d with gb.round := (d.gb.round + 1) % 8, gb.reached := 0, gb.frame := some d.broadcast }
  else d

/-- The poll of a station: its owed verdicts go out and are emptied (R169). -/
def pollStation (a : Nat) (d : Device) : Device :=
  let st := d.gb.station a
  let polled := d.putStation a { st with owed := [] }
  { polled with gb.inFlight := some a, gb.replyDropped := false, gb.reached := a + 1, gb.frame := some (.poll a st.owed) }

/-- The next poll of the round, at the first address from the one reached that is polled now; with none the round has ended (R18,
R167, R169). That it waits for the records of the reply before is the model's (DESIGN CHOICE, log 27). -/
def pollNext (d : Device) : Device :=
  if !d.rolling && d.gb.atRest then
    match d.gb.nextPoll with
    | none => { d with gb.reached := 9 }
    | some a => pollStation a d
  else d

/-! ### Station states -/

/-- The state and miss count after a good reply (Table 10-2). -/
def Station.good (st : Station) : Station :=
  match st.state with
  | .searching => { st with state := .syncing }
  | .syncing => { st with state := .active, misses := 0 }
  | .active => { st with misses := 0 }
  | .lost => { st with state := .syncing }
  | .disabled => st

/-- The state, miss count and missed total after a missed reply (Table 10-2, R169). -/
def Station.missed (st : Station) : Station :=
  let counted := { st with missedTotal := satAdd Config.maxWord st.missedTotal 1 }
  match st.state with
  | .searching => counted
  | .syncing => { counted with state := .searching }
  | .active => if st.misses + 1 < 2 then { counted with misses := st.misses + 1 } else { counted with state := .lost, misses := 0 }
  | .lost => counted
  | .disabled => st

/-- Whether a state is one whose entry is reported (R170). -/
def StationState.reported : StationState → Bool
  | .active => true
  | .lost => true
  | .disabled => false
  | .searching => false
  | .syncing => false

/-- A station's record moves; an entry into ACTIVE or LOST sets STATION and marks the station (R170). -/
def moveStation (a : Nat) (st : Station) (d : Device) : Device :=
  let moved := d.putStation a st
  if st.state ≠ (d.gb.station a).state ∧ st.state.reported then (moved.raise .station).markStation a else moved

/-! ### Replies -/

/-- Whether a record's values are those of Table 10-3: sequence 0..15, CARD 1 or KEYED 2, IN 1 or OUT 2, and a keyed number
in two bytes (R169). -/
def GateRecord.known (r : GateRecord) : Bool :=
  r.seq < 16 && (r.presentedAs == 1 || (r.presentedAs == 2 && r.number < 65536)) && (r.direction == 1 || r.direction == 2)

/-- The tests of a good reply to the poll of station a (R169). -/
def goodReply (a : Nat) (checkAgrees lengthAgrees : Bool) (address fresh : Nat) (records : List GateRecord) : Bool :=
  checkAgrees && lengthAgrees && address == a && fresh < 2 && records.length ≤ 4 && records.all GateRecord.known

/-- The poll in flight ends without a good reply (R169, R170). -/
def missedReply (a : Nat) (d : Device) : Device :=
  settleRound (moveStation a (d.gb.station a).missed { d with gb.inFlight := none })

/-- A good reply: the station's state moves, FRESH empties its verdicts, and its records wait to be taken (R170, R171). -/
def takeReply (a : Nat) (fresh : Nat) (records : List GateRecord) (d : Device) : Device :=
  let st := (d.gb.station a).good
  settleRound (moveStation a (if fresh = 1 then st.forgotten else st)
    { d with gb.inFlight := none, gb.records := records.map fun r => ⟨a, r⟩ })

/-- The exchange with a station disabled since its poll ends: its reply is dropped, and no record is taken, no state moves and no missed
total rises (R169, R173). -/
def dropReply (d : Device) : Device := settleRound { d with gb.inFlight := none, gb.replyDropped := false }

/-- A reply to the poll in flight; with none in flight, or from a station disabled since its poll, it is dropped (R18, R169, R173). -/
def receiveReply (checkAgrees lengthAgrees : Bool) (address fresh : Nat) (records : List GateRecord) (d : Device) : Device :=
  match d.gb.inFlight with
  | none => d
  | some a =>
    if d.gb.replyDropped then dropReply d
    else if goodReply a checkAgrees lengthAgrees address fresh records then takeReply a fresh records d else missedReply a d

/-- 20 ms pass without the reply, or within it (R169). R173 says of a station disabled since its poll what a reply that arrives does not
do; that one which does not arrive counts no missed reply either is the model's (DESIGN CHOICE, log 42). -/
def replyTimedOut (d : Device) : Device :=
  match d.gb.inFlight with
  | none => d
  | some a => if d.gb.replyDropped then dropReply d else missedReply a d

/-! ### Arrival records -/

/-- A repeat: the stored verdict is owed again (R171). -/
def Station.repeated (v : SeqVerdict) (st : Station) : Station :=
  { st with
    owed := st.owed.filter (·.seq != v.seq) ++ [v]
    repeatTotal := satAdd Config.maxWord st.repeatTotal 1 }

/-- A new verdict is stored and owed; four are stored at most (R171). -/
def Station.accepted (v : SeqVerdict) (st : Station) : Station :=
  { st with
    stored := (if Config.maxVerdicts ≤ st.stored.length then st.stored.tail else st.stored) ++ [v]
    owed := st.owed ++ [v] }

/-- The arrival record handed on (Table 5-1). -/
def arrivalOf (a site : Nat) (r : GateRecord) : Arrival where
  station := a
  site := site
  number := r.number
  keyed := r.presentedAs == 2
  inward := r.direction == 1
  reason := signOutCode r.reason

/-- One record of a good reply is taken as a repeat or accepted as new (R171). -/
def takeRecord (a : Nat) (r : GateRecord) (d : Device) : Device :=
  let st := d.gb.station a
  match st.stored.find? (·.seq == r.seq) with
  | some v => d.putStation a (st.repeated v)
  | none =>
    let taken := takeArrival (arrivalOf a st.site r) d
    taken.2.putStation a (st.accepted ⟨r.seq, taken.1⟩)

/-- The first record waiting is taken (R171). -/
def takeNextRecord (d : Device) : Device :=
  match d.gb.records with
  | [] => d
  | r :: rest => takeRecord r.station r.record { d with gb.records := rest }

/-- Every record waiting is taken: an event that R173 sets against the reply finds the records of a reply that came before it
already taken, as ARRIVAL_RECORD takes them one by one (DESIGN CHOICE, log 26). -/
def takeWaiting (d : Device) : Device := repeated takeNextRecord d.gb.records.length d

/-- A rollover starts, or a reset falls: no poll is in flight and the round is over (R18, R173, R175). -/
def GateBus.suspended (gb : GateBus) : GateBus := { gb with inFlight := none, replyDropped := false, records := [], reached := 9 }

/-! ### Requests -/

/-- SET_STATION's effect on a record (R166). -/
def Station.set (enabled : Bool) (site : Nat) (st : Station) : Station :=
  let written := { st with site := site }
  if enabled then
    if st.enabled then written else { written.forgotten with state := .searching, misses := 0 }
  else if st.enabled then { written.forgotten with state := .disabled, misses := 0 }
  else written

/-- A disabled station's reply is dropped when it arrives (R173), whatever SET_STATION does before that
(DESIGN CHOICE, log 42). The exchange goes on until then,
or until 20 ms pass without it, and no other poll begins before (R169). -/
def GateBus.dropStation (a : Nat) (gb : GateBus) : GateBus :=
  { gb with replyDropped := gb.replyDropped || gb.inFlight == some a }

/-- SET_STATION's effect: records waiting were taken before it, the record is written, a disable has the reply of the poll in flight to
the station dropped, and the round settles (R166, R167, R173). -/
def setStation (a : Nat) (enabled : Bool) (site : Nat) (d : Device) : Device :=
  let taken := takeWaiting d
  let set := taken.putStation a ((taken.gb.station a).set enabled site)
  settleRound (if enabled then set else { set with gb := set.gb.dropStation a })

/-- SET_STATION (R166). -/
def serveSetStation (address enabled site : Nat) (d : Device) : Answer × Device :=
  match flagCode enabled with
  | none => refuse .range d
  | some on =>
    checked d [(address == 0 || 8 < address || 2 < site, .range), (d.rolling, .busy)]
      (ok .empty, setStation address on site d)

/-- One station as QUERY_STATIONS gives it (R174). -/
def Station.reply (st : Station) : StationReply where
  enabled := st.enabled
  site := st.site
  state := st.state
  misses := st.misses
  lastAccepted := st.stored.getLast?.map (·.seq)
  stored := st.stored.length
  owed := st.owed.length
  missedTotal := st.missedTotal
  repeatTotal := st.repeatTotal

/-- QUERY_STATIONS (R174). -/
def serveQueryStations (d : Device) : Answer × Device :=
  (ok (.stations d.gb.round d.rolling (d.gb.stations.map Station.reply)), d)

/-! ### The commands of the gate bus -/

/-- SET_STATION (R166). -/
def execSetStation (tag address enabled site : Nat) : State → Host.Outcome State Fault Refusal :=
  act (request 70 tag (serveSetStation address enabled site))

/-- QUERY_STATIONS (R174). -/
def execQueryStations (tag : Nat) : State → Host.Outcome State Fault Refusal := act (request 71 tag serveQueryStations)

/-- GATE_ROUND_START (R167, R168). -/
def execGateRoundStart : State → Host.Outcome State Fault Refusal := act (powered beginRound)

/-- POLL (R169). -/
def execPoll : State → Host.Outcome State Fault Refusal := act (powered pollNext)

/-- GATE_REPLY (R169, R170). -/
def execGateReply (checkAgrees lengthAgrees : Bool) (address fresh : Nat) (records : List GateRecord) :
    State → Host.Outcome State Fault Refusal :=
  act (powered (receiveReply checkAgrees lengthAgrees address fresh records))

/-- GATE_REPLY_TIMEOUT (R169, R170). -/
def execGateReplyTimeout : State → Host.Outcome State Fault Refusal := act (powered replyTimedOut)

/-- ARRIVAL_RECORD (R171). -/
def execArrivalRecord : State → Host.Outcome State Fault Refusal := act (powered takeNextRecord)

end Sys2Proof.Machine
end

