-- ==== Sys2Proof/Machine/TimeBase.lean ====
section
/-! DEFINITION. The Time Base at work: the clock (R1, R9), running seconds (section 7.1), the master clock (R7 to R10) and the
start of a rollover (R16). Its requests are in Machine/TimeBaseRequests.lean, the rollover's steps in Machine/Rollover.lean. -/
namespace Sys2Proof.Machine

/-! ### The clock -/

/-- A rollover of a kind starts: ACTIVE at step 1; the Gate Bus is suspended (R16, R18). What starts one while the clock runs
takes the records waiting first, with the clock as it stood (R173). -/
def startRollover (kind : RolloverKind) (d : Device) : Device :=
  { d with tb.rollover := some ⟨kind, 1, 1, 0, d.tb.cycleDay⟩, gb := d.gb.suspended }

/-- A midnight that no rollover can take now is counted (R1, R22). The count stops at the end of the range Table 1-1 gives it,
36,524; no rule says that it saturates there (DESIGN CHOICE, log 41). -/
def missMidnight (d : Device) : Device := { d with tb.missed := satAdd Config.lastDay d.tb.missed 1 }

/-- The clock crosses into 00:00:00, with the kind of rollover the crossing starts; records waiting are taken before one
starts (R1, R10, R22, R173). -/
def crossMidnight (kind : RolloverKind) (d : Device) : Device :=
  if d.clockValid then
    if d.rolling || !d.mainPower then missMidnight { d with tb.second := 0 }
    else startRollover kind { takeWaiting d with tb.second := 0 }
  else { d with tb.second := 0 }

/-- The second has reached a multiple of 60: the minute is handed to the scanner while the clock is VALID, no rollover is
ACTIVE and the scanner is powered (R1). -/
def handMinute (d : Device) : Device := if !d.rolling && d.mainPower then topOfMinute d else d

/-- The clock advances by one second (R1). -/
def advanceSecond (d : Device) : Device :=
  if d.tb.second + 1 < Config.daySeconds then
    let on := { d with tb.second := d.tb.second + 1 }
    if on.tb.second % 60 = 0 then handMinute on else on
  else handMinute (crossMidnight .midnight d)

/-- The clock advances by one tick (R1). -/
def advanceTick (d : Device) : Device :=
  if d.tb.tick + 1 < Config.ticksPerSecond then { d with tb.tick := d.tb.tick + 1 }
  else advanceSecond { d with tb.tick := 0 }

/-- The end of an oscillator tick: one advance, or on every 16th none while the balance is positive and two while it is
negative (R1, R9). -/
def slewedAdvance (d : Device) : Device :=
  if d.tb.slewPhase + 1 < Config.slewPeriod then advanceTick { d with tb.slewPhase := d.tb.slewPhase + 1 }
  else
    let at16 := { d with tb.slewPhase := 0 }
    if 0 < d.tb.balance then { at16 with tb.balance := d.tb.balance - 1 }
    else if d.tb.balance < 0 then advanceTick (advanceTick { at16 with tb.balance := d.tb.balance + 1 })
    else advanceTick at16

/-! ### Running seconds -/

/-- A notice's age rises (Table 7-1). -/
def Notice.older (n : Notice) : Notice := { n with age := satAdd Config.maxWord n.age 1 }

/-- The age of a desk call entry's notice rises. -/
def CallEntry.older (e : CallEntry) : CallEntry :=
  match e.content with
  | .notice n o sup => { e with content := .notice n.older o sup }
  | .message _ _ _ _ _ _ _ => e
  | .parentUnaware _ _ => e

/-- A second passes in the Notice Unit: ages rise and deadlines fall (section 7.1, R118). -/
def NoticeUnit.secondPassed (nu : NoticeUnit) : NoticeUnit :=
  { nu with
    urgent := nu.urgent.map Notice.older
    routine := nu.routine.map Notice.older
    bulk := nu.bulk.map Notice.older
    awaiting := nu.awaiting.map fun (w : Awaiting) => { notice := w.notice.older, deadline := w.deadline - 1 }
    calls := nu.calls.map CallEntry.older }

/-- A second passes in the Relay Link: ages in the ring, the silence timer and the time since DOWN (R138, R139). -/
def RelayLink.secondPassed (rl : RelayLink) : RelayLink :=
  { rl with
    ring := rl.ring.map fun (r : RingEntry) => { r with notice := r.notice.older }
    silence := rl.silence.map (· + 1)
    downFor := if rl.link = .down then satAdd Config.maxWord rl.downFor 1 else rl.downFor }

/-- An idle check timer runs on to its 10 s (R162). -/
def ZoneSupervision.secondPassed (v : ZoneSupervision) : ZoneSupervision :=
  { v with timer := v.timer.map fun t => satAdd Config.idleCheckSeconds t 1 }

/-- A running second passes in every block that counts one. -/
def secondPassed (d : Device) : Device :=
  { d with
    nu := d.nu.secondPassed
    rl := d.rl.secondPassed
    su.zones := d.su.zones.map ZoneSupervision.secondPassed }

/-- The crystal's count towards the next running second (section 7.1). -/
def runningTick (d : Device) : Device :=
  if d.tb.runningPhase + 1 < Config.ticksPerSecond then { d with tb.runningPhase := d.tb.runningPhase + 1 }
  else secondPassed { d with tb.runningPhase := 0 }

/-- The mark silence timer counts oscillator ticks up to its 3 minutes (R7, R8). -/
def silenceTick (d : Device) : Device :=
  { d with tb.markSilence := d.tb.markSilence.map fun t => satAdd Config.markSilenceTicks t 1 }

/-- An oscillator tick, with the sense lines as they stand. On the backup supply only the clock counts (R1, R22). -/
def oscillatorTick (sense : ZoneSet) (d : Device) : Device :=
  let seen := { d with sense := sense }
  slewedAdvance (if d.mainPower then runningTick (silenceTick seen) else seen)

/-! ### The master clock -/

/-- The mark error at the present phase of the minute (R7). -/
def TimeBase.markError (tb : TimeBase) : Int :=
  let p := (tb.second % 60) * Config.ticksPerSecond + tb.tick
  if p < Config.halfMinuteTicks then p else (p : Int) - Config.minuteTicks

/-- Whether 45 s have passed since the last taken mark, or none counts (R7). -/
def TimeBase.markGuardPassed (tb : TimeBase) : Bool :=
  !tb.markSeen ||
    match tb.markSilence with
    | none => true
    | some t => Config.markGuardTicks ≤ t

/-- Whether a mark is taken now (R7). -/
def Device.takesMark (d : Device) : Bool := d.tb.disciplined && d.clockValid && d.tb.markGuardPassed

/-- Changes the discipline state, with both counts cleared; a change sets CLOCK (R6, R8). -/
def setDiscipline (st : DisciplineState) (d : Device) : Device :=
  let cleared := { d with tb.discipline := st, tb.lockCount := 0, tb.unlockCount := 0 }
  if d.tb.discipline = st then cleared else cleared.raise .clock

/-- The lock rule of a taken mark with error e (R8). -/
def lockRule (e : Int) (d : Device) : Device :=
  if e.natAbs ≤ Config.lockLimit then
    if d.tb.lockCount + 1 < 2 then { d with tb.lockCount := d.tb.lockCount + 1, tb.unlockCount := 0 } else setDiscipline .locked d
  else if Config.unlockLimit < e.natAbs then
    if d.tb.unlockCount + 1 < 2 then { d with tb.unlockCount := d.tb.unlockCount + 1, tb.lockCount := 0 }
    else setDiscipline .unlocked d
  else { d with tb.lockCount := 0, tb.unlockCount := 0 }

/-- The whole minute a step of error e lands on: this one for e at or above 0, the next below 0 (R10). -/
def TimeBase.steppedMinute (e : Int) (tb : TimeBase) : Nat := tb.second / 60 + if e < 0 then 1 else 0

/-- The clock is stepped back by e; forward across midnight is a crossing, otherwise the scanner gets its jump notice and
the top of the minute landed on (R4, R10, R20, R33). -/
def stepClock (e : Int) (d : Device) : Device :=
  let settled := ({ d with tb.tick := 0, tb.balance := 0, tb.candidate := none }).raise .clock
  let minute := d.tb.steppedMinute e
  if minute < Config.dayMinutes then
    let stepped := { settled with tb.second := 60 * minute }
    if d.rolling then stepped else handMinute (jumpNotice d.minute stepped)
  else crossMidnight .step settled

/-- The correction of a taken mark with error e: slewed, held as a candidate, or stepped (R9, R10). -/
def correct (e : Int) (d : Device) : Device :=
  if e.natAbs ≤ Config.slewLimit then { d with tb.balance := e, tb.candidate := none }
  else match d.tb.candidate with
    | none => { d with tb.candidate := some e }
    | some c => if (e - c).natAbs ≤ Config.stepAgreement then stepClock e d else { d with tb.candidate := some e }

/-- A mark is taken (R7). -/
def takeMasterMark (d : Device) : Device :=
  let e := d.tb.markError
  correct e (lockRule e { d with
    tb.lastError := some e, tb.markSilence := some 0, tb.markSeen := true, tb.slewPhase := 0 })

/-- A master clock mark (R7). -/
def masterMark (d : Device) : Device := if d.takesMark then takeMasterMark d else d

/-- The mark silence timer reaches 3 minutes: it stops, the counts and candidate go, and lock is lost (R8). -/
def markSilenceExpired (d : Device) : Device :=
  match d.tb.markSilence with
  | none => d
  | some _ => setDiscipline .unlocked { d with tb.markSilence := none, tb.candidate := none }

/-! ### The commands of the clock -/

/-- OSCILLATOR_TICK (R1). It is the one command that acts on the backup supply. -/
def execOscillatorTick (sense : ZoneSet) : State → Host.Outcome State Fault Refusal := act (oscillatorTick sense)

/-- MASTER_MARK (R7). -/
def execMasterMark : State → Host.Outcome State Fault Refusal := act (powered masterMark)

/-- MARK_SILENCE_EXPIRY (R8). -/
def execMarkSilenceExpiry : State → Host.Outcome State Fault Refusal := act (powered markSilenceExpired)

end Sys2Proof.Machine
end

