-- ==== Sys2Proof/Machine/Rollover.lean ====
section
/-! DEFINITION. The day rollover's thirteen steps (R14 to R16, R19, R21, R22, R57, R96, R122). One ROLLOVER_STEP carries out a
step that walks no table whole, and one cursor position of a step that walks one. -/
namespace Sys2Proof.Machine

/-! ### Choosing a day -/

/-- The weekday of a date: Monday 0 to Sunday 6 (R14). -/
def weekday (date : Nat) : Nat := (date + 5) % 7

/-- The candidate cycle day after a cycle day (R14). -/
def TimeBase.candidateDay (tb : TimeBase) (cycleDay : Nat) : Nat := nextOf tb.cycleLength cycleDay

/-- The exception held for a date (R12). -/
def TimeBase.exceptionFor (tb : TimeBase) (date : Nat) : Option CalException := tb.exceptions.find? (·.date == date)

/-- Whether a recurring rule matches a date whose candidate cycle day is given (R14). -/
def CalRule.matchesDay (date candidate : Nat) (r : CalRule) : Bool :=
  r.weekdays.getLsbD (weekday date) && (r.cycleDay == none || r.cycleDay == some candidate)

/-- The plan for a date, from the cycle day so far (R14). -/
def TimeBase.planFor (tb : TimeBase) (date cycleDay : Nat) : DayPlanChoice :=
  match (tb.exceptionFor date).bind (·.outcome) with
  | some c => c
  | none =>
    match tb.rules.find? (CalRule.matchesDay date (tb.candidateDay cycleDay)) with
    | some r => r.outcome
    | none => tb.weekdays.getD (weekday date) .closed

/-- The cycle day once a date with a plan is taken (R15). -/
def TimeBase.cycleAfter (tb : TimeBase) (plan : DayPlanChoice) (cycleDay : Nat) : Nat :=
  if plan = .closed then cycleDay else tb.candidateDay cycleDay

/-- A term start sets a pupil's late points and late-minute total to 0 (R15). -/
def Pupil.termStarted (p : Pupil) : Pupil := { p with latePoints := 0, lateMinutes := 0 }

/-- Whether the exception of a date has its term-start flag set (R15). -/
def TimeBase.termStartOn (tb : TimeBase) (date : Nat) : Bool := ((tb.exceptionFor date).map (·.termStart)).getD false

/-- The dates a rollover's step 5 takes: the new date, or every date since the old one for a RESUME (R22). -/
def Rollover.dates (r : Rollover) (date : Nat) : List Nat :=
  match r.kind with
  | .resume => List.range' (date + 1 - r.taken) r.taken
  | .midnight => [date]
  | .step => [date]
  | .set _ _ => [date]

/-- Whether a kind holds the cycle day (R15, Table 1-6). -/
def RolloverKind.holdsCycle : RolloverKind → Bool
  | .set _ _ => true
  | .midnight => false
  | .step => false
  | .resume => false

/-! ### Moving through the steps -/

/-- The rollover goes on to a step, with its cursor at the start. -/
def toStep (n : Nat) (r : Rollover) (d : Device) : Device := { d with tb.rollover := some { r with step := n, cursor := 1 } }

/-- The rollover's cursor moves on by one. -/
def cursorOn (r : Rollover) (d : Device) : Device := { d with tb.rollover := some { r with cursor := r.cursor + 1 } }

/-- The cursor of a step that walks a table of a fixed size moves on, or the step ends and another follows. -/
def walkOn (size nextStep : Nat) (r : Rollover) (d : Device) : Device :=
  if r.cursor < size then cursorOn r d else toStep nextStep r d

/-- The cursor of a step that walks the roll numbers moves on, or the step ends and another follows. -/
def rollOn (nextStep : Nat) (r : Rollover) (d : Device) : Device := walkOn Config.maxRoll nextStep r d

/-! ### The steps -/

/-- Whether step 2 is taken (Table 1-6). -/
def RolloverKind.countsAbsence : RolloverKind → Bool
  | .set _ wasValid => wasValid
  | .midnight => true
  | .step => true
  | .resume => true

/-- Step 2 for one roll number: an UNEXPLAINED pupil's unexplained days rise by one (R16). -/
def countUnexplained (roll : Nat) (ae : Attendance) : Attendance :=
  match ae.entry roll with
  | none => ae
  | some e =>
    if e.state = .unexplained then
      ae.onPupil roll fun p => { p with unexplainedDays := satAdd Config.maxPoints p.unexplainedDays 1 }
    else ae

/-- Step 2 (R16). -/
def step2 (r : Rollover) (d : Device) : Device :=
  if r.kind.countsAbsence then rollOn 3 r (d.onAe (countUnexplained r.cursor)) else toStep 3 r d

/-- The date step 4 sets (Table 1-6). -/
def Rollover.newDate (r : Rollover) (tb : TimeBase) : Nat :=
  match r.kind with
  | .midnight => tb.date + 1
  | .step => tb.date + 1
  | .set day _ => day
  | .resume => tb.date + tb.missed

/-- The calendar range ends in place of steps 4 to 12 (R21). A RESUME that ends so clears the missed-midnights count, as R22
states; a MIDNIGHT or STEP that ends so with midnights counted keeps the count, so that step 13 starts a RESUME on the INVALID
clock by R16: the manual does not say what becomes of that count, and R2 has no rollover while INVALID (DESIGN CHOICE, log 17). -/
def calendarEnd (r : Rollover) (d : Device) : Device :=
  let ended := setValidity .invalid (setDiscipline .unlocked d)
  let missed := if r.kind = .resume then 0 else d.tb.missed
  toStep 13 { r with taken := 0 }
    (({ ended with tb.candidate := none, tb.date := Config.lastDay, tb.today := .closed, tb.missed := missed }).raise .clock)

/-- Step 4, or the end of the calendar range (R16, R21, R22). -/
def step4 (r : Rollover) (d : Device) : Device :=
  if Config.lastDay < r.newDate d.tb then calendarEnd r d
  else toStep 5 { r with taken := if r.kind = .resume then d.tb.missed else 0 } { d with tb.date := r.newDate d.tb }

/-- The cursor positions step 5 gives a date: its choice, then one for each roll number of a term start. -/
def datePositions : Nat := Config.maxRoll + 1

/-- Which of its dates step 5's cursor stands at, from 0, and the roll number of its term start there, 0 at the choice. -/
def Rollover.datePlace (r : Rollover) : Nat := (r.cursor - 1) / datePositions
def Rollover.termRoll (r : Rollover) : Nat := (r.cursor - 1) % datePositions

/-- A date is taken: its plan is chosen from the cycle day so far, which then advances by R15 or is held (Table 1-6). The plan of
the new date becomes today's. A term start is walked by roll number next; without one the following date is (R14, R15, R22). -/
def takeDate (date : Nat) (r : Rollover) (d : Device) : Device :=
  let soFar := if r.datePlace = 0 then d.tb.cycleDay else r.nextCycle
  let plan := d.tb.planFor date soFar
  let next := if r.kind.holdsCycle then soFar else d.tb.cycleAfter plan soFar
  let on := if d.tb.termStartOn date then r.cursor + 1 else (r.datePlace + 1) * datePositions + 1
  { d with
    tb.today := if date = d.tb.date then plan else d.tb.today
    tb.rollover := some { r with nextCycle := next, cursor := on } }

/-- The first exception dated before the new date is removed; once none is left, step 6 follows (R16). -/
def removeException (r : Rollover) (d : Device) : Device :=
  if d.tb.exceptions.any (·.date < d.tb.date) then
    { d with tb.exceptions := d.tb.exceptions.eraseP (·.date < d.tb.date) }
  else toStep 6 r d

/-- Step 5 at the cursor: each date in turn is taken and its term start walked, then the exceptions dated before the new date
go (R14, R15, R16, R22). -/
def step5 (r : Rollover) (d : Device) : Device :=
  match (r.dates d.tb.date)[r.datePlace]? with
  | none => removeException r d
  | some date =>
    if r.termRoll = 0 then takeDate date r d
    else cursorOn r (d.onAe fun ae => ae.onPupil r.termRoll Pupil.termStarted)

/-- An entry with clear flags. -/
def PlanEntry.clear (e : PlanEntry) : PlanSlot := ⟨e, 0, 0⟩

/-- Step 7 for a plan: a pending staged copy becomes active (R26). -/
def DayPlan.promoted (p : DayPlan) : DayPlan :=
  if p.pending then { p with active := p.staged.map PlanEntry.clear, pending := false } else p

/-- Step 7 at the cursor, a plan number (R16, R26). -/
def step7 (r : Rollover) (d : Device) : Device :=
  walkOn 8 8 r { d with ss.plans := d.ss.plans.modify (r.cursor - 1) DayPlan.promoted }

/-- A plan with its flags clear. -/
def DayPlan.cleared (p : DayPlan) : DayPlan := { p with active := p.active.map fun sl => sl.entry.clear }

/-- Step 8: flags, confirm points and shifts are cleared (R16). -/
def Scanner.dayCleared (ss : Scanner) : Scanner where
  plans := ss.plans.map DayPlan.cleared
  sites := ss.sites.map fun s => { s with shift := 0 }
  confirm := List.replicate 12 .notSet

/-- Step 9 at the cursor: an expired excuse is removed, any other set PENDING (R96). -/
def step9 (r : Rollover) (d : Device) : Device :=
  match d.ae.excuses[r.cursor - 1]? with
  | none => toStep 10 r d
  | some x =>
    if x.last < d.tb.date then d.onAe fun ae => { ae with excuses := ae.excuses.eraseIdx (r.cursor - 1) }
    else cursorOn r (d.onAe fun ae => { ae with excuses := ae.excuses.set (r.cursor - 1) { x with state := .pending } })

/-- Whether step 10 closes a notice STALE (R122). -/
def Notice.stale (date : Nat) (n : Notice) : Bool := n.cls != .bulk && n.subjectDay < date

/-- Step 10 at the cursor, in queue order: a stale notice leaves the queue; once none is left the called-today record is
emptied. A notice that came back from the ring behind the cursor is met on a further walk (R121, R122). -/
def step10 (r : Rollover) (d : Device) : Device :=
  match d.nu.queued[r.cursor - 1]? with
  | some n => if n.stale d.tb.date then leaveQueue n.tag d else cursorOn r d
  | none =>
    if d.nu.queued.any (Notice.stale d.tb.date) then toStep 10 r d
    else toStep 11 r { d with nu.calledToday := [] }

/-- Step 11: a fan-out in flight is aborted (R124). -/
def step11 (r : Rollover) (d : Device) : Device :=
  toStep 12 r (if d.nu.fanout.status = .idle then d else endFanout .aborted d)

/-- Step 12 at the cursor: the roster is held from its first roll number on, and after the last the ABSENT excuses that cover
the date are applied (R56, R57). -/
def step12 (r : Rollover) (d : Device) : Device :=
  let held := if r.cursor = 1 then d.onAe fun ae => { ae with roster := some [] } else d
  let built := held.onAe (buildAt d.schoolDay d.tb.cycleDay r.cursor)
  rollOn 13 r (if r.cursor < Config.maxRoll then built else built.onAe (applyAbsences d.tb.date))

/-- The held messages are handed on in order, and the last one's place becomes the collected mark (R19). -/
def releaseHeld (d : Device) : Device :=
  let held := d.rl.rolloverHold
  let handed := held.foldl (fun acc m => takeContent m.content acc) { d with rl.rolloverHold := [] }
  match held.getLast? with
  | none => handed
  | some m => { handed with rl := handed.rl.collect m.place }

/-- The start of day: the scanner reassesses at the present minute, and the Relay Link hands on what it held (R16, R19, R33). -/
def startOfDay (d : Device) : Device := releaseHeld (reassess allSites d)

/-- Step 13: cause DAY; then a RESUME for midnights missed, or the start of day (R16, R22). -/
def step13 (r : Rollover) (d : Device) : Device :=
  let left := d.tb.missed - r.taken
  let done := ({ d with tb.missed := left, tb.rollover := none }).raise .day
  if 0 < left then startRollover .resume done else startOfDay done

/-- The rollover's next step or cursor position (R16). -/
def rolloverStep (d : Device) : Device :=
  match d.tb.rollover with
  | none => d
  | some r =>
    match r.step with
    | 1 => toStep 2 r (d.onAe fun ae => { ae with sweeps := [] })
    | 2 => step2 r d
    | 3 => toStep 4 r (d.onAe fun ae => { ae with roster := none, latch := none })
    | 4 => step4 r d
    | 5 => step5 r d
    | 6 => toStep 7 r { d with tb.cycleDay := r.nextCycle }
    | 7 => step7 r d
    | 8 => toStep 9 r { d with ss := d.ss.dayCleared }
    | 9 => step9 r d
    | 10 => step10 r d
    | 11 => step11 r d
    | 12 => step12 r d
    | _ => step13 r d

/-- ROLLOVER_STEP (R16). -/
def execRolloverStep : State → Host.Outcome State Fault Refusal := act (powered rolloverStep)

end Sys2Proof.Machine
end

