-- ==== Sys2Proof/Machine/SounderUnit.lean ====
section
/-! DEFINITION. The Sounder Unit's requests (R152, R156 to R160, R163, R164) and its events: units, the warble, the alert
input, the PA key and idle checks (R153, R159, R160, R162). -/
namespace Sys2Proof.Machine

/-! ### Patterns -/

/-- The pattern LOAD_PATTERN writes: each field of the mode clamped, the others held as loaded (R152, Table 9-2). -/
def Pattern.clamped (x : Pattern) : Pattern :=
  match x.mode with
  | .ring => { x with n := clampNat 1 600 x.n }
  | .pulse =>
    { x with
      p := clampNat 2 100 x.p
      k := clampNat 1 (clampNat 2 100 x.p - 1) x.k
      r := clampNat 1 99 x.r }
  | .warble => { x with p := clampNat 2 40 x.p, d := clampNat 1 600 x.d }
  | .chirp => { x with n := min 50 x.n }

/-- LOAD_PATTERN (R152). -/
def serveLoadPattern (number mode n p k r d : Nat) (dev : Device) : Answer × Device :=
  match modeCode mode with
  | none => refuse .range dev
  | some m =>
    let asked : Pattern := ⟨m, n, p, k, r, d⟩
    checked dev [(number == 0 || 16 < number, .range)]
      (okClamped (asked.clamped != asked) .empty, { dev with su.patterns := setNth dev.su.patterns number asked.clamped })

/-- QUERY_PATTERN (R152). -/
def serveQueryPattern (number : Nat) (d : Device) : Answer × Device :=
  checked d [(number == 0 || 16 < number, .range)] (ok (.pattern (d.su.pattern number)), d)

/-! ### Routes and QUIET -/

/-- Writes a bank. -/
def Sounder.putBank (which : Bank) (l : List RouteEntry) (su : Sounder) : Sounder :=
  match which with
  | .a => { su with bankA := l }
  | .b => { su with bankB := l }

/-- The entries of a list put into a bank (R156). -/
def routed (bank : List RouteEntry) (l : List (Nat × RouteEntry)) : List RouteEntry :=
  l.foldl (fun acc e => setNth acc e.1 e.2) bank

/-- A route entry with its zone (R156). -/
def zoneRoute (e : RouteEntryOp) : Option (Nat × RouteEntry) :=
  if 1 ≤ e.zone ∧ e.zone ≤ 24 then (routeEntry e).map fun r => (e.zone, r) else none

/-- Whether a zone is named twice (R156). -/
def zoneTwice : List (Nat × RouteEntry) → Bool
  | [] => false
  | e :: rest => rest.any (·.1 == e.1) || zoneTwice rest

/-- LOAD_ROUTE (R156). -/
def serveLoadRoute (bank : Nat) (entries : List RouteEntryOp) (d : Device) : Answer × Device :=
  match bankCode bank, decodeAll zoneRoute entries with
  | some which, some l =>
    checked d [(l.isEmpty || 24 < l.length, .range), (zoneTwice l, .duplicate)]
      (ok .empty, settling (fun d => { d with su := d.su.putBank which (routed (d.su.bank which) l) }) d)
  | _, _ => refuse .range d

/-- QUERY_ROUTE (R156). -/
def serveQueryRoute (bank : Nat) (d : Device) : Answer × Device :=
  match bankCode bank with
  | none => refuse .range d
  | some which => (ok (.route (d.su.bank which) d.su.active), d)

/-- SET_QUIET (R158). -/
def setQuiet (zones : ZoneSet) : Device → Device := settling fun d => { d with su.quiet := zones }

/-! ### ALERT and PA -/

/-- ALERT is raised for a zone set: it becomes ACTIVE, or its mask grows (R159). -/
def Sounder.raised (zones : ZoneSet) (su : Sounder) : Sounder :=
  match su.alert with
  | none => { su with alert := some ⟨zones, 0⟩ }
  | some a => { su with alert := some { a with zones := a.zones ||| zones } }

/-- ALERT changes with its Sounder Unit; a change of its state or mask sets ALERT (R159). -/
def changeAlert (f : Sounder → Sounder) (d : Device) : Device :=
  let changed := settling (fun d => { d with su := f d.su }) d
  if (f d.su).alert.isSome = d.su.alert.isSome ∧ (f d.su).alertZones = d.su.alertZones then changed else changed.raise .alert

/-- ALERT_START (R159). -/
def serveAlertStart (zones : ZoneSet) (d : Device) : Answer × Device :=
  checked d [(zones == 0, .range)] (ok .empty, changeAlert (Sounder.raised zones) d)

/-- ALERT_STOP (R159). -/
def serveAlertStop (d : Device) : Answer × Device :=
  checked d [(d.su.alertLevel, .state)] (ok .empty, changeAlert (fun su => { su with alert := none }) d)

/-- SET_ALERT_INPUT (R159). -/
def serveSetAlertInput (zones : ZoneSet) (d : Device) : Answer × Device :=
  checked d [(zones == 0, .range)] (ok .empty, { d with su.alertInputZones := zones })

/-- The alert input becomes active or inactive; becoming active raises ALERT (R159). -/
def alertInputIs (active : Bool) (d : Device) : Device :=
  if d.su.alertLevel = active then d
  else
    let read := { d with su.alertLevel := active }
    if active then changeAlert (Sounder.raised d.su.alertInputZones) read else read

/-- PA_START (R160). -/
def servePaStart (zones : ZoneSet) (d : Device) : Answer × Device :=
  checked d [(zones == 0, .range)] (ok .empty, settling (fun d => { d with su.paRequest := zones }) d)

/-- PA_STOP (R160). -/
def paStop : Device → Device := settling fun d => { d with su.paRequest := 0 }

/-- SET_PA_KEY (R160). -/
def setPaKey (zones : ZoneSet) : Device → Device := settling fun d => { d with su.paKeyZones := zones }

/-- The desk PA key is held or released (R160). -/
def paKeyIs (held : Bool) : Device → Device := settling fun d => { d with su.paKeyHeld := held }

/-- 100 ms of the alert warble (R159). -/
def warbleUnit (d : Device) : Device :=
  { d with su.alert := d.su.alert.map fun a => { a with phase := (a.phase + 1) % (2 * Config.warbleUnits) } }

/-! ### Supervision -/

/-- A zone that becomes supervised: its timer starts if it is idle (R163). -/
def superviseZone (z : Nat) (d : Device) : Device :=
  let v := d.su.zone z
  { d with su.zones := setNth d.su.zones z { v with supervised := true, timer := if d.engaged z then none else some 0 } }

/-- A zone that becomes unsupervised: NORMAL, counts 0, timer stopped (R163). -/
def freeZone (z : Nat) : Device → Device := Device.putZone z ZoneSupervision.reset

/-- Zone z after SET_SUPERVISION; a zone whose setting stands is not touched (R163). -/
def setZone (zones : ZoneSet) (z : Nat) (d : Device) : Device :=
  if (d.su.zone z).supervised = inZones zones z then d else if inZones zones z then superviseZone z d else freeZone z d

/-- SET_SUPERVISION (R163). -/
def setSupervision (zones : ZoneSet) (d : Device) : Device := allZones.foldl (fun acc z => setZone zones z acc) d

/-- The idle check timer of zone z reaches 10 s: the zone is checked and the timer starts again (R162). -/
def idleCheck (z : Nat) (d : Device) : Device :=
  let v := d.su.zone z
  if v.supervised && v.timer.isSome then
    ({ d with su.zones := setNth d.su.zones z { v with timer := some 0 } }).checkZone z
  else d

/-! ### Reading the unit -/

/-- One generator as QUERY_SOUNDER gives it (R164). -/
def Generator.reply (g : Generator) : GeneratorReply where
  number := g.playing.map (·.number)
  mode := g.playing.map (·.copy.mode)
  elapsed := (g.playing.map (·.elapsed)).getD 0
  length := (g.playing.map (·.copy.length)).getD 0
  output := g.output
  waiting := g.waiting

/-- QUERY_SOUNDER (R164). -/
def serveQuerySounder (d : Device) : Answer × Device :=
  (ok (.sounder {
    generators := d.su.generators.map Generator.reply
    alert := d.su.alert.map (·.zones)
    alertLevel := d.su.alertLevel
    alertInputZones := d.su.alertInputZones
    paRequest := d.su.paRequest
    paKeyHeld := d.su.paKeyHeld
    paKeyZones := d.su.paKeyZones
    active := d.su.active }), d)

/-- One zone as QUERY_ZONES gives it (R164). -/
def Device.zoneReply (d : Device) (z : Nat) : ZoneReply where
  route := d.su.route z
  quiet := inZones d.su.quiet z
  inAlert := inZones d.su.alertZones z
  inPa := inZones d.su.paZones z
  demand := d.demand z
  engaged := d.engaged z
  level := d.lineLevel z
  supervised := (d.su.zone z).supervised
  fault := (d.su.zone z).fault
  bad := (d.su.zone z).bad
  good := (d.su.zone z).good

/-- QUERY_ZONES (R164). -/
def serveQueryZones (d : Device) : Answer × Device := (ok (.zones (allZones.map d.zoneReply)), d)

/-! ### The commands -/

/-- LOAD_PATTERN (R152). -/
def execLoadPattern (tag number mode n p k r d : Nat) : State → Host.Outcome State Fault Refusal :=
  act (request 55 tag (serveLoadPattern number mode n p k r d))

/-- QUERY_PATTERN (R152). -/
def execQueryPattern (tag number : Nat) : State → Host.Outcome State Fault Refusal :=
  act (request 56 tag (serveQueryPattern number))

/-- LOAD_ROUTE (R156). -/
def execLoadRoute (tag bank : Nat) (entries : List RouteEntryOp) : State → Host.Outcome State Fault Refusal :=
  act (request 57 tag (serveLoadRoute bank entries))

/-- QUERY_ROUTE (R156). -/
def execQueryRoute (tag bank : Nat) : State → Host.Outcome State Fault Refusal := act (request 58 tag (serveQueryRoute bank))

/-- SWAP_BANK (R157). -/
def execSwapBank (tag : Nat) : State → Host.Outcome State Fault Refusal :=
  act (request 59 tag fun d => (ok .empty, exchangeBanks d))

/-- SET_QUIET (R158). -/
def execSetQuiet (tag : Nat) (zones : ZoneSet) : State → Host.Outcome State Fault Refusal :=
  act (request 60 tag fun d => (ok .empty, setQuiet zones d))

/-- ALERT_START (R159). -/
def execAlertStart (tag : Nat) (zones : ZoneSet) : State → Host.Outcome State Fault Refusal :=
  act (request 61 tag (serveAlertStart zones))

/-- ALERT_STOP (R159). -/
def execAlertStop (tag : Nat) : State → Host.Outcome State Fault Refusal := act (request 62 tag serveAlertStop)

/-- SET_ALERT_INPUT (R159). -/
def execSetAlertInput (tag : Nat) (zones : ZoneSet) : State → Host.Outcome State Fault Refusal :=
  act (request 63 tag (serveSetAlertInput zones))

/-- PA_START (R160). -/
def execPaStart (tag : Nat) (zones : ZoneSet) : State → Host.Outcome State Fault Refusal :=
  act (request 64 tag (servePaStart zones))

/-- PA_STOP (R160). -/
def execPaStop (tag : Nat) : State → Host.Outcome State Fault Refusal := act (request 65 tag fun d => (ok .empty, paStop d))

/-- SET_PA_KEY (R160). -/
def execSetPaKey (tag : Nat) (zones : ZoneSet) : State → Host.Outcome State Fault Refusal :=
  act (request 66 tag fun d => (ok .empty, setPaKey zones d))

/-- SET_SUPERVISION (R163). -/
def execSetSupervision (tag : Nat) (zones : ZoneSet) : State → Host.Outcome State Fault Refusal :=
  act (request 67 tag fun d => (ok .empty, setSupervision zones d))

/-- QUERY_SOUNDER (R164). -/
def execQuerySounder (tag : Nat) : State → Host.Outcome State Fault Refusal := act (request 68 tag serveQuerySounder)

/-- QUERY_ZONES (R164). -/
def execQueryZones (tag : Nat) : State → Host.Outcome State Fault Refusal := act (request 69 tag serveQueryZones)

/-- GENERATOR_UNIT (R153, R155). -/
def execGeneratorUnit (generator : Nat) : State → Host.Outcome State Fault Refusal :=
  act (powered (settling fun d =>
    { d with su.generators := setNth d.su.generators generator (d.su.unitPassed (d.su.generator generator)) }))

/-- ALERT_WARBLE_UNIT (R159). -/
def execAlertWarbleUnit : State → Host.Outcome State Fault Refusal := act (powered warbleUnit)

/-- ALERT_INPUT (R159). With main power off only the level at the pin changes. -/
def execAlertInput (active : Bool) : State → Host.Outcome State Fault Refusal :=
  act fun d => if d.mainPower then alertInputIs active d else { d with su.alertLevel := active }

/-- PA_KEY (R160). With main power off only the level at the pin changes. -/
def execPaKey (held : Bool) : State → Host.Outcome State Fault Refusal :=
  act fun d => if d.mainPower then paKeyIs held d else { d with su.paKeyHeld := held }

/-- IDLE_CHECK (R162). -/
def execIdleCheck (zone : Nat) : State → Host.Outcome State Fault Refusal := act (powered (idleCheck zone))

end Sys2Proof.Machine
end

