-- ==== Sys2Proof/Machine/Reset.lean ====
section
/-! DEFINITION. Warm reset, power-up, retention loss and the loss of main power: every block's reset table (R23, R40, R55, R62,
R74, R91, R107, R128, R151, R165, R175, R182), and R22. -/
namespace Sys2Proof.Machine

/-! ### The blocks -/

/-- The Time Base after a warm reset (Table 1-8). -/
def TimeBase.warm (tb : TimeBase) : TimeBase :=
  { tb with
    discipline := .unlocked, balance := 0, candidate := none, lockCount := 0, unlockCount := 0
    markSilence := if tb.disciplined then some 0 else none
    markSeen := false, lastError := none }

/-- The Attendance Engine after a warm reset: the sweeps restart (R62, Tables 3-4, 4-9, 5-6, 6-6). -/
def Attendance.warm (ae : Attendance) : Attendance := { ae with sweeps := ae.sweeps.map Sweep.restarted }

/-- The Relay Link's values after a warm reset, before auto-start (Table 8-12). The table gives neither the restart guard nor the mark
carried by the last frame sent: they become clear and 0 (DESIGN CHOICE, log 40). -/
def RelayLink.warm (rl : RelayLink) : RelayLink :=
  { rl.emptied with
    link := .off, sendSeq := 0, lastSeq := 0, lastPlace := 0, collected := 0
    silence := none, downFor := 0, restartGuard := false, lastMark := 0 }

/-- The ring goes back to the queue, old URGENT notices fall back if the link was UP, and the link goes OFF and, with
auto-start, STARTING (R113, R119, R151). -/
def relayWarm (d : Device) : Device :=
  let emptied := emptyLink d
  let left := if d.rl.link = .up then fallBackAll emptied else emptied
  let off := { left with rl := left.rl.warm }
  if d.rl.settings.autoStart then enterStarting off else off

/-- A zone's supervision after a reset: NORMAL, counts 0, and the timer from 0 if it is supervised and idle (R165). -/
def ZoneSupervision.warm (engaged : Bool) (v : ZoneSupervision) : ZoneSupervision :=
  { v with fault := false, bad := 0, good := 0, timer := if v.supervised && !engaged then some 0 else none }

/-- The Sounder Unit's tables after a warm reset; the key is released until it is sampled (Table 9-9). -/
def Sounder.warm (su : Sounder) : Sounder :=
  { su with generators := List.replicate 4 Generator.reset, paRequest := 0, paKeyHeld := false }

/-- The zones after a warm reset (Table 9-9). -/
def Device.zonesWarm (d : Device) : Device :=
  { d with su.zones := allZones.map fun z => (d.su.zone z).warm (d.engaged z) }

/-- A station after a warm reset (Table 10-4). -/
def Station.warm (st : Station) : Station :=
  { st.forgotten with state := if st.enabled then .searching else .disabled, misses := 0, missedTotal := 0, repeatTotal := 0 }

/-- The Gate Bus after a warm reset (Table 10-4). -/
def GateBus.warm (gb : GateBus) : GateBus :=
  { gb.suspended with stations := gb.stations.map Station.warm, round := 0, frame := none }

/-- The Office Port after a warm reset: RESTARTED alone (Table 11-4). -/
def OfficePort.warm (op : OfficePort) : OfficePort :=
  { op with inHand := none, causes := Cause.restarted.bit, changedZones := 0, changedStations := 0 }

/-! ### The resets -/

/-- The alert input and the PA key are sampled afresh: an active input is taken as becoming active, a held key as held (R165). -/
def sampleInputs (alertActive keyHeld : Bool) (d : Device) : Device :=
  let alerted := if alertActive then changeAlert (Sounder.raised d.su.alertInputZones) d else d
  if keyHeld then paKeyIs true alerted else alerted

/-- Every block takes its warm-reset values, and the inputs are sampled (R182). -/
def valuesWarm (d : Device) : Device :=
  let linked := relayWarm { d with tb := d.tb.warm, ae := d.ae.warm, gb := d.gb.warm }
  let sounders := ({ linked with su := linked.su.warm }).zonesWarm
  sampleInputs d.su.alertLevel d.su.paKeyHeld { sounders with op := sounders.op.warm }

/-- The blocks of a warm reset: records waiting were taken before it (R173). -/
def blocksWarm (d : Device) : Device := valuesWarm (takeWaiting d)

/-- The Schedule Scanner's reassessment after the other blocks: not while a rollover is ACTIVE (R40). -/
def scannerWarm (d : Device) : Device := if d.rolling then d else reassess allSites d

/-- A warm reset (R23, R182). -/
def warmReset (d : Device) : Device := scannerWarm (blocksWarm d)

/-- A RESUME for midnights missed on the backup supply, unless a rollover is ACTIVE; otherwise the reassessment (R22, R40). -/
def resumeMissed (d : Device) : Device :=
  if 0 < d.tb.missed ∧ !d.rolling then startRollover .resume d else scannerWarm d

/-- Power-up with retention intact: the strap is read, then a warm reset, then a RESUME if midnights were missed (R22). -/
def powerUp (strapHigh : Bool) (d : Device) : Device :=
  resumeMissed (blocksWarm { d with mainPower := true, fastBaud := strapHigh })

/-- Power-up after the backup supply failed: every block at its retention-loss values; the pins stand, and are sampled
(R23, R165). -/
def retentionLost (strapHigh : Bool) (d : Device) : Device :=
  sampleInputs d.su.alertLevel d.su.paKeyHeld
    { Device.reset with fastBaud := strapHigh, sense := d.sense, su.alertLevel := d.su.alertLevel }

/-! ### The commands -/

/-- WARM_RESET, the reset pin (R23). -/
def execWarmReset : State → Host.Outcome State Fault Refusal := act (powered warmReset)

/-- POWER_UP (R22). -/
def execPowerUp (strapHigh : Bool) : State → Host.Outcome State Fault Refusal := act (powerUp strapHigh)

/-- RETENTION_LOSS (R23). -/
def execRetentionLoss (strapHigh : Bool) : State → Host.Outcome State Fault Refusal := act (retentionLost strapHigh)

/-- Main power goes: the records of a reply that came before were taken (log 26), and the blocks stand (R22). -/
def losePower (d : Device) : Device := { powered takeWaiting d with mainPower := false }

/-- MAIN_POWER_LOSS (R22). -/
def execMainPowerLoss : State → Host.Outcome State Fault Refusal := act losePower

end Sys2Proof.Machine
end

