-- ==== Sys2Proof/Machine/TimeBaseRequests.lean ====
section
/-! DEFINITION. The Time Base's requests (R3, R5, R6, R11 to R13). -/
namespace Sys2Proof.Machine

/-- SET_TIME's effect on the clock before what follows from it (R3). -/
def clockSet (second tick : Nat) (d : Device) : Device :=
  { d with tb.second := second, tb.tick := tick, tb.balance := 0, tb.candidate := none }

/-- SET_TIME taken; records waiting are taken before it starts a rollover (R3, R4, R173). -/
def takeSetTime (day second tick : Nat) (d : Device) : Device :=
  if !d.clockValid then startRollover (.set day false) (setValidity .valid (clockSet second tick (takeWaiting d)))
  else if day ≠ d.tb.date then startRollover (.set day true) (clockSet second tick (takeWaiting d))
  else jumpNotice d.minute (clockSet second tick d)

/-- SET_TIME (R3). -/
def serveSetTime (day second tick : Nat) (d : Device) : Answer × Device :=
  checked d
    [(Config.lastDay < day || Config.daySeconds ≤ second || Config.ticksPerSecond ≤ tick, .range),
     (d.rolling, .busy), (d.tb.discipline == .locked, .locked)]
    (ok .empty, takeSetTime day second tick d)

/-- The rollover state as a reply gives it: its kind and step while ACTIVE (R5). -/
def TimeBase.rolloverReply (tb : TimeBase) : Option (RolloverKind × Nat) := tb.rollover.map fun r => (r.kind, r.step)

/-- QUERY_TIME (R5). -/
def serveQueryTime (d : Device) : Answer × Device :=
  (ok (.time {
    date := d.tb.date
    second := d.tb.second
    tick := d.tb.tick
    validity := d.tb.validity
    disciplined := d.tb.disciplined
    discipline := d.tb.discipline
    balance := d.tb.balance
    lastError := d.tb.lastError
    cycleLength := d.tb.cycleLength
    cycleDay := d.tb.cycleDay
    today := d.tb.today
    rollover := d.tb.rolloverReply
    exceptions := d.tb.exceptions.length }), d)

/-- Discipline becomes ENABLED or DISABLED (R6). -/
def changeDiscipline (on : Bool) (d : Device) : Device :=
  if d.tb.disciplined = on then d
  else setDiscipline .unlocked { d with
    tb.disciplined := on
    tb.balance := 0
    tb.candidate := none
    tb.markSilence := if on then some 0 else none
    tb.markSeen := false }

/-- SET_DISCIPLINE (R6). -/
def serveSetDiscipline (setting : Nat) (d : Device) : Answer × Device :=
  match enabledCode setting with
  | none => refuse .range d
  | some on => (ok .empty, changeDiscipline on d)

/-- SET_CYCLE_LENGTH (R11). -/
def serveSetCycleLength (length : Nat) (d : Device) : Answer × Device :=
  checked d [(length == 0 || Config.maxCycle < length, .range), (d.rolling, .busy)]
    (ok .empty, { d with tb.cycleLength := length, tb.cycleDay := if length < d.tb.cycleDay then 1 else d.tb.cycleDay })

/-- SET_CYCLE_DAY (R11). -/
def serveSetCycleDay (day : Nat) (d : Device) : Answer × Device :=
  checked d [(day == 0 || d.tb.cycleLength < day, .range), (d.rolling, .busy)]
    (ok .empty, { d with tb.cycleDay := day })

/-- The exceptions in date order with one put in, in place of any of its date (R12). -/
def putException (x : CalException) (l : List CalException) : List CalException :=
  insertBefore (fun a b => a.date < b.date) x (l.filter (·.date != x.date))

/-- LOAD_EXCEPTION (R12). -/
def serveLoadException (date outcome termStart : Nat) (d : Device) : Answer × Device :=
  match exceptionOutcome outcome, flagCode termStart with
  | some out, some start =>
    checked d
      [(Config.lastDay < date, .range), (d.rolling, .busy),
       (Config.maxExceptions ≤ d.tb.exceptions.length && !d.tb.exceptions.any (·.date == date), .full)]
      (ok .empty, { d with tb.exceptions := putException ⟨date, out, start⟩ d.tb.exceptions })
  | _, _ => refuse .range d

/-- DROP_EXCEPTION (R12). -/
def serveDropException (date : Nat) (d : Device) : Answer × Device :=
  checked d [(d.rolling, .busy), (!d.tb.exceptions.any (·.date == date), .notFound)]
    (ok .empty, { d with tb.exceptions := d.tb.exceptions.filter (·.date != date) })

/-- QUERY_EXCEPTIONS (R12). -/
def serveQueryExceptions (date : Nat) (d : Device) : Answer × Device :=
  checked d [(d.rolling, .busy)]
    (ok (.exceptions ((d.tb.exceptions.filter fun x => date ≤ x.date).take Config.exceptionsPerReply)), d)

/-- A rule as LOAD_RULE carries it; cycle day 0 is ANY (R13, R183). -/
def loadedRule (weekdays cycleDay : Nat) (outcome : DayPlanChoice) : CalRule :=
  ⟨BitVec.ofNat 7 weekdays, if cycleDay = 0 then none else some cycleDay, outcome⟩

/-- LOAD_RULE (R13). -/
def serveLoadRule (number weekdays cycleDay outcome : Nat) (d : Device) : Answer × Device :=
  match planChoice outcome with
  | none => refuse .range d
  | some out =>
    checked d
      [(number == 0 || 8 < number || !fitsMask 7 weekdays || Config.maxCycle < cycleDay, .range), (d.rolling, .busy)]
      (ok .empty, { d with tb.rules := setNth d.tb.rules number (loadedRule weekdays cycleDay out) })

/-- LOAD_WEEKDAY; Monday is 1 (R13, R183). -/
def serveLoadWeekday (day outcome : Nat) (d : Device) : Answer × Device :=
  match planChoice outcome with
  | none => refuse .range d
  | some out =>
    checked d [(day == 0 || 7 < day, .range), (d.rolling, .busy)]
      (ok .empty, { d with tb.weekdays := setNth d.tb.weekdays day out })

/-- QUERY_CALENDAR (R13). -/
def serveQueryCalendar (d : Device) : Answer × Device :=
  checked d [(d.rolling, .busy)] (ok (.calendar d.tb.rules d.tb.weekdays d.tb.cycleLength), d)

/-! ### The commands -/

/-- SET_TIME (R3). -/
def execSetTime (tag day second tick : Nat) : State → Host.Outcome State Fault Refusal :=
  act (request 1 tag (serveSetTime day second tick))

/-- QUERY_TIME (R5). -/
def execQueryTime (tag : Nat) : State → Host.Outcome State Fault Refusal := act (request 2 tag serveQueryTime)

/-- SET_DISCIPLINE (R6). -/
def execSetDiscipline (tag setting : Nat) : State → Host.Outcome State Fault Refusal :=
  act (request 3 tag (serveSetDiscipline setting))

/-- SET_CYCLE_LENGTH (R11). -/
def execSetCycleLength (tag length : Nat) : State → Host.Outcome State Fault Refusal :=
  act (request 4 tag (serveSetCycleLength length))

/-- SET_CYCLE_DAY (R11). -/
def execSetCycleDay (tag day : Nat) : State → Host.Outcome State Fault Refusal := act (request 5 tag (serveSetCycleDay day))

/-- LOAD_EXCEPTION (R12). -/
def execLoadException (tag date outcome termStart : Nat) : State → Host.Outcome State Fault Refusal :=
  act (request 6 tag (serveLoadException date outcome termStart))

/-- DROP_EXCEPTION (R12). -/
def execDropException (tag date : Nat) : State → Host.Outcome State Fault Refusal :=
  act (request 7 tag (serveDropException date))

/-- QUERY_EXCEPTIONS (R12). -/
def execQueryExceptions (tag date : Nat) : State → Host.Outcome State Fault Refusal :=
  act (request 8 tag (serveQueryExceptions date))

/-- LOAD_RULE (R13). -/
def execLoadRule (tag number weekdays cycleDay outcome : Nat) : State → Host.Outcome State Fault Refusal :=
  act (request 9 tag (serveLoadRule number weekdays cycleDay outcome))

/-- LOAD_WEEKDAY (R13). -/
def execLoadWeekday (tag day outcome : Nat) : State → Host.Outcome State Fault Refusal :=
  act (request 10 tag (serveLoadWeekday day outcome))

/-- QUERY_CALENDAR (R13). -/
def execQueryCalendar (tag : Nat) : State → Host.Outcome State Fault Refusal := act (request 11 tag serveQueryCalendar)

end Sys2Proof.Machine
end

