-- ==== Sys2Proof/Machine/OfficePort.lean ====
section
/-! DEFINITION. The Office Port: its own requests (R90, R179, R181, R182) and what happens on its line (R176, R177). -/
namespace Sys2Proof.Machine

/-! ### READ_JOURNAL -/

/-- The read cursor after a release serial (R90). -/
def Device.releasedTo (serial : Nat) (d : Device) : Nat :=
  if d.unread.any (·.serial == serial) then nextOf Config.lastSerial serial else d.op.readCursor

/-- READ_JOURNAL: release, then answer; the lost count is set to 0 (R90). -/
def serveReadJournal (serial : Nat) (d : Device) : Answer × Device :=
  let ignored := serial != 0 && !d.unread.any (·.serial == serial)
  let released := { d with op.readCursor := d.releasedTo serial }
  (⟨.ok, { releaseIgnored := ignored },
     .journal (released.unread.take Config.recordsPerReply) released.unread.length d.op.lostCount⟩,
   { released with op.lostCount := 0 })

/-! ### STATUS, the attention mask and RESET -/

/-- The zones in FAULT. -/
def Sounder.faults (su : Sounder) : ZoneSet :=
  allZones.foldl (fun acc z => if (su.zone z).fault then acc ||| (1#24 <<< (z - 1)) else acc) 0

/-- The reply to STATUS (R181). -/
def Device.statusReply (d : Device) : StatusReply where
  causes := d.op.causes
  zones := d.op.changedZones
  stations := d.op.changedStations
  validity := d.tb.validity
  discipline := d.tb.discipline
  rollover := d.tb.rolloverReply
  link := d.rl.link
  alertActive := d.su.alert.isSome
  calls := d.nu.calls.length
  unread := d.unread.length
  lost := d.op.lostCount
  faults := d.su.faults
  states := d.gb.stations.map (·.state)

/-- STATUS: the cause set and the change set are emptied in the event that forms the reply (R181). -/
def serveStatus (d : Device) : Answer × Device :=
  (ok (.status d.statusReply), { d with op.causes := 0, op.changedZones := 0, op.changedStations := 0 })

/-- SET_ATTENTION_MASK (R179). -/
def serveSetAttentionMask (causes : Nat) (d : Device) : Answer × Device :=
  checked d [(!fitsMask 12 causes, .range)] (ok .empty, { d with op.mask := BitVec.ofNat 12 causes })

/-- RESET answers OK; the warm reset comes when its reply has gone out (R182). -/
def serveReset (d : Device) : Answer × Device := (ok .empty, d)

/-! ### The office line -/

/-- Whether a reply is that of a RESET request (R182). -/
def Reply.resets (r : Reply) : Bool := r.code == 75 && r.answer.result == .ok

/-- The last byte of a reply goes out: no request is in hand, and a RESET takes its warm reset (R177, R182). -/
def replyGone (d : Device) : Device :=
  match d.op.inHand with
  | none => d
  | some r =>
    let free := { d with op.inHand := none }
    if r.resets then warmReset free else free

/-- A good frame arrives while a request is in hand (R177). -/
def overrunFrame (d : Device) : Device := if d.op.inHand.isSome then d.raise .overrun else d

/-! ### The commands -/

/-- READ_JOURNAL (R90). -/
def execReadJournal (tag serial : Nat) : State → Host.Outcome State Fault Refusal :=
  act (request 72 tag (serveReadJournal serial))

/-- STATUS (R181). -/
def execStatus (tag : Nat) : State → Host.Outcome State Fault Refusal := act (request 73 tag serveStatus)

/-- SET_ATTENTION_MASK (R179). -/
def execSetAttentionMask (tag causes : Nat) : State → Host.Outcome State Fault Refusal :=
  act (request 74 tag (serveSetAttentionMask causes))

/-- RESET (R182). -/
def execReset (tag : Nat) : State → Host.Outcome State Fault Refusal := act (request 75 tag serveReset)

/-- UNKNOWN_REQUEST: a good frame whose code names no request (R177). -/
def execUnknownRequest (tag code : Nat) : State → Host.Outcome State Fault Refusal := act (request code tag (refuse .unknown))

/-- WRONG_BODY_LENGTH: a good frame whose body length does not suit its request (R177). -/
def execWrongBodyLength (tag code : Nat) : State → Host.Outcome State Fault Refusal := act (request code tag (refuse .length))

/-- OVERRUN (R177). -/
def execOverrun : State → Host.Outcome State Fault Refusal := act (powered overrunFrame)

/-- OFFICE_BAD_FRAME: discarded without a reply, no state changes (R176). -/
def execOfficeBadFrame : State → Host.Outcome State Fault Refusal := act id

/-- OFFICE_BYTE_TIMEOUT: the frame is bad and is discarded, no state changes (R176). -/
def execOfficeByteTimeout : State → Host.Outcome State Fault Refusal := act id

/-- REPLY_COMPLETE (R177, R182). -/
def execReplyComplete : State → Host.Outcome State Fault Refusal := act (powered replyGone)

end Sys2Proof.Machine
end

