-- ==== Sys2Proof/Machine/RelayRequests.lean ====
section
/-! DEFINITION. The Relay Link's requests (R136, R148 to R150). -/
namespace Sys2Proof.Machine

/-! ### Starting and stopping -/

/-- RELAY_START (R136, R139). -/
def relayStart (d : Device) : Device :=
  match d.rl.link with
  | .off => enterStarting d
  | .down => enterStarting d
  | .starting => d
  | .up => d

/-- RELAY_STOP: leaving UP empties the link; a frame going out is cut off (R134, R136, R138). -/
def relayStop (d : Device) : Device :=
  match d.rl.link with
  | .off => d
  | .up => leaveUp .off d
  | .starting => ({ d with rl.link := .off, rl.frame := none }).raise .link
  | .down => ({ d with rl.link := .off, rl.frame := none }).raise .link

/-! ### Settings -/

/-- An auto-restart delay clamped: 0 stands, 1..9 is 10, above 600 is 600 (Table 8-11). -/
def clampRestart (n : Nat) : Nat := if n = 0 then 0 else clampNat 10 600 n

/-- The settings SET_RELAY_LINK writes, each clamped, the threshold to at most the run length (R148). -/
def clampedSettings (runLength threshold resyncTime attemptLimit silenceLimit autoRestart : Nat) (autoStart : Bool) :
    RelaySettings where
  runLength := clampNat 4 32 runLength
  threshold := min (clampNat 2 16 threshold) (clampNat 4 32 runLength)
  resyncTime := clampNat 50 2000 resyncTime
  attemptLimit := clampNat 1 15 attemptLimit
  silenceLimit := clampNat 2 30 silenceLimit
  autoRestart := clampRestart autoRestart
  autoStart := autoStart

/-- Settings written; in DOWN a delay already passed takes the link to STARTING at once (R148). -/
def writeSettings (s : RelaySettings) (d : Device) : Device :=
  let set := { d with rl.settings := s }
  if d.rl.link = .down ∧ s.autoRestart ≠ 0 ∧ s.autoRestart ≤ d.rl.downFor then enterStarting set else set

/-- SET_RELAY_LINK (R148). -/
def serveSetRelayLink (runLength threshold resyncTime attemptLimit silenceLimit autoRestart autoStart : Nat) (d : Device) :
    Answer × Device :=
  match enabledCode autoStart with
  | none => refuse .range d
  | some on =>
    let s := clampedSettings runLength threshold resyncTime attemptLimit silenceLimit autoRestart on
    let asked : RelaySettings := ⟨runLength, threshold, resyncTime, attemptLimit, silenceLimit, autoRestart, on⟩
    checked d [(d.rl.link == .starting || d.rl.link == .up, .state)] (okClamped (s != asked) .empty, writeSettings s d)

/-- QUERY_RELAY_LINK (R148). -/
def serveQueryRelayLink (d : Device) : Answer × Device := (ok (.relaySettings d.rl.settings), d)

/-! ### The LINK lamp -/

/-- Whether the LINK lamp is lit (R149). -/
def RelayLink.lampLit (rl : RelayLink) : Bool := if rl.lampAuto then rl.link == .up else rl.lampManual

/-- LINK_LAMP_MODE: MANUAL keeps the lamp as it stands, AUTO sets it from the link state (R149). -/
def serveLinkLampMode (mode : Nat) (d : Device) : Answer × Device :=
  match autoCode mode with
  | none => refuse .range d
  | some auto => (ok .empty, { d with rl.lampAuto := auto, rl.lampManual := d.rl.lampLit })

/-- LAMP: lights or darkens the lamp in MANUAL, refused STATE in AUTO (R149). -/
def serveLamp (level : Nat) (d : Device) : Answer × Device :=
  match onCode level with
  | none => refuse .range d
  | some on => checked d [(d.rl.lampAuto, .state)] (ok .empty, { d with rl.lampManual := on })

/-! ### QUERY_LINK -/

/-- The time remaining on the auto-restart timer, while it runs in DOWN (R139, R150). -/
def RelayLink.restartLeft (rl : RelayLink) : Option Nat :=
  if rl.link = .down ∧ rl.settings.autoRestart ≠ 0 then some (rl.settings.autoRestart - rl.downFor) else none

/-- The link as QUERY_LINK gives it (R150). A rewind lasts from its request to the end of its replay (R146). What is owed or in progress
is four flags, a START, a REWIND run, a rewind and a replay, where R150 does not say whether it is one flag (DESIGN CHOICE, log 31). -/
def RelayLink.reply (rl : RelayLink) : LinkReply where
  link := rl.link
  lampAuto := rl.lampAuto
  lampLit := rl.lampLit
  hold := rl.hold
  rewindCount := rl.rewindCount
  clearCount := rl.clearCount
  attempts := rl.attempts
  start := rl.startOwed || rl.frame == some .start
  rewindRun := rl.runOwed || rl.activity.isRewindRun
  rewind := rl.rewindOwed || rl.furtherOwed || rl.activity.isClearRun || rl.activity.isReplay
  replay := rl.activity.isReplay
  readPos := rl.readPos
  writePos := rl.writePos
  occupancy := rl.occupancy
  ring := classCounts (rl.ring.map (·.notice))
  sendSeq := rl.sendSeq
  lastSeq := rl.lastSeq
  lastPlace := rl.lastPlace
  collected := rl.collected
  markHold := rl.markHold
  held := rl.rolloverHold.length
  autoRestart := rl.restartLeft

/-- QUERY_LINK (R150). -/
def serveQueryLink (d : Device) : Answer × Device := (ok (.link d.rl.reply), d)

/-! ### The commands -/

/-- RELAY_START (R136). -/
def execRelayStart (tag : Nat) : State → Host.Outcome State Fault Refusal :=
  act (request 48 tag fun d => (ok .empty, relayStart d))

/-- RELAY_STOP (R136). -/
def execRelayStop (tag : Nat) : State → Host.Outcome State Fault Refusal :=
  act (request 49 tag fun d => (ok .empty, relayStop d))

/-- SET_RELAY_LINK (R148). -/
def execSetRelayLink (tag runLength threshold resyncTime attemptLimit silenceLimit autoRestart autoStart : Nat) :
    State → Host.Outcome State Fault Refusal :=
  act (request 50 tag (serveSetRelayLink runLength threshold resyncTime attemptLimit silenceLimit autoRestart autoStart))

/-- QUERY_RELAY_LINK (R148). -/
def execQueryRelayLink (tag : Nat) : State → Host.Outcome State Fault Refusal := act (request 51 tag serveQueryRelayLink)

/-- QUERY_LINK (R150). -/
def execQueryLink (tag : Nat) : State → Host.Outcome State Fault Refusal := act (request 52 tag serveQueryLink)

/-- LINK_LAMP_MODE (R149). -/
def execLinkLampMode (tag mode : Nat) : State → Host.Outcome State Fault Refusal :=
  act (request 53 tag (serveLinkLampMode mode))

/-- LAMP (R149). -/
def execLamp (tag level : Nat) : State → Host.Outcome State Fault Refusal := act (request 54 tag (serveLamp level))

end Sys2Proof.Machine
end

