-- ==== Sys2Proof/Machine/RollRequests.lean ====
section
/-! DEFINITION. The requests of the roll, the contacts and the start groups (R41 to R50, R53, R54). -/
namespace Sys2Proof.Machine

/-- Whether a roll number is outside 1..2400. -/
def badRoll (roll : Nat) : Bool := roll == 0 || Config.maxRoll < roll

/-- Whether a list holds a member twice. -/
def hasRepeat : List Nat → Bool
  | [] => false
  | a :: l => l.contains a || hasRepeat l

/-- Puts a pupil record in roll order, in place of any of its number. -/
def putPupil (p : Pupil) (l : List Pupil) : List Pupil :=
  insertBefore (fun a b => a.roll < b.roll) p (l.filter (·.roll != p.roll))

/-- Puts a contact record in key order, in place of any of its key (R46). -/
def putContact (c : Contact) (l : List Contact) : List Contact :=
  insertBefore (fun a b => a.key < b.key) c (l.filter (·.key != c.key))

/-! ### LOAD_PUPIL and DROP_PUPIL -/

/-- A contact's pupil list brought into step with whether the pupil names it (R42, R43). -/
def Contact.linked (roll : Nat) (named : Bool) (c : Contact) : Contact :=
  if named then if c.pupils.contains roll then c else { c with pupils := c.pupils ++ [roll] }
  else { c with pupils := c.pupils.filter (· != roll) }

/-- Every contact brought into step with a pupil's slots (R46). -/
def Attendance.linkContacts (roll : Nat) (named : List Nat) (ae : Attendance) : Attendance :=
  { ae with contacts := ae.contacts.map fun c => c.linked roll (named.contains c.index) }

/-- A new pupil's entry joins a roster that is held: NOT_DUE, not made at the build (R42, R58). -/
def Attendance.addEntry (roll : Nat) (ae : Attendance) : Attendance :=
  { ae with roster := ae.roster.map (insertBefore (fun a b => a.roll < b.roll) (.blank roll none .notDue false)) }

/-- The contact index a slot's key stands for. -/
def Attendance.slotIndex (ae : Attendance) (slot : Option Nat) : Option Nat :=
  slot.bind fun key => (ae.contactOf key).map (·.index)

/-- The record LOAD_PUPIL writes: an old pupil keeps its tallies, a new one has none (R42, R43). -/
def Attendance.loadedPupil (ae : Attendance) (roll : Nat) (card : Option Nat) (cohort group grace : Nat)
    (slots : List (Option Nat)) : Pupil :=
  let fresh : Pupil := ⟨roll, card, cohort, group, min Config.maxGraceOverride grace, slots.map ae.slotIndex, 0, 0, 0⟩
  match ae.pupil roll with
  | none => fresh
  | some p => { fresh with latePoints := p.latePoints, lateMinutes := p.lateMinutes, unexplainedDays := p.unexplainedDays }

/-- LOAD_PUPIL taken (R42, R43). -/
def Attendance.loadPupil (p : Pupil) (ae : Attendance) : Attendance :=
  let written := ({ ae with pupils := putPupil p ae.pupils }).linkContacts p.roll (p.slots.filterMap id)
  if (ae.pupil p.roll).isSome then written else written.addEntry p.roll

/-- Whether a slot's contact lists six others already (R41). -/
def Attendance.slotFull (ae : Attendance) (roll key : Nat) : Bool :=
  match ae.contactOf key with
  | none => false
  | some c => Config.maxListed ≤ c.pupils.length && !c.pupils.contains roll

/-- Whether a card is held for another roll number (R41). -/
def Attendance.cardTaken (ae : Attendance) (roll : Nat) (card : Option Nat) : Bool :=
  match card with
  | none => false
  | some n => ae.pupils.any fun p => p.card == some n && p.roll != roll

/-- LOAD_PUPIL (R41). -/
def serveLoadPupil (roll : Nat) (card : Option Nat) (cohort group grace : Nat) (slots : List (Option Nat)) (d : Device) :
    Answer × Device :=
  let keys := slots.filterMap id
  checked d
    [(badRoll roll || cohort == 0 || 7 < cohort || 15 < group || card == some 0, .range), (d.rolling, .busy),
     (keys.any fun k => (d.ae.contactOf k).isNone, .notFound), (hasRepeat keys || d.ae.cardTaken roll card, .duplicate),
     (keys.any (d.ae.slotFull roll), .full)]
    (okClamped (Config.maxGraceOverride < grace) .empty,
     d.onAe fun ae => ae.loadPupil (ae.loadedPupil roll card cohort group grace slots))

/-- DROP_PUPIL taken (R45). -/
def Attendance.dropPupil (roll : Nat) (ae : Attendance) : Attendance :=
  ({ ae with
      pupils := ae.pupils.filter (·.roll != roll)
      excuses := ae.excuses.filter (·.pupil != roll)
      roster := ae.roster.map fun (l : List RosterEntry) => l.filter (·.roll != roll) }).linkContacts roll []

/-- DROP_PUPIL (R45). -/
def serveDropPupil (roll : Nat) (d : Device) : Answer × Device :=
  checked d [(badRoll roll, .range), (d.rolling, .busy), ((d.ae.pupil roll).isNone, .notFound)]
    (ok .empty, d.onAe (·.dropPupil roll))

/-! ### Queries of the roll -/

/-- A slot as a reply gives it: the contact's index and key (R54). -/
def Attendance.slotReply (ae : Attendance) (slot : Option Nat) : Option (Nat × Nat) :=
  (slot.bind ae.contactAt).map fun c => (c.index, c.key)

/-- QUERY_PUPIL: the first pupil at or above the number (R54). -/
def serveQueryPupil (roll : Nat) (d : Device) : Answer × Device :=
  match d.ae.pupils.find? (roll ≤ ·.roll) with
  | none => checked d [(badRoll roll, .range), (d.rolling, .busy)] (refuse .notFound d)
  | some p =>
    checked d [(badRoll roll, .range), (d.rolling, .busy)]
      (ok (.pupil p (p.slots.map d.ae.slotReply) d.ae.pupils.length), d)

/-- QUERY_CARD (R44). -/
def serveQueryCard (card : Nat) (d : Device) : Answer × Device :=
  match d.ae.cardHolder card with
  | none => checked d [(card == 0, .range), (d.rolling, .busy)] (refuse .notFound d)
  | some p => checked d [(card == 0, .range), (d.rolling, .busy)] (ok (.rollNumber p.roll), d)

/-! ### Contacts -/

/-- A pupil's slots brought into step with a contact's new list: a pupil newly listed takes it in the lowest absent slot, one
no longer listed loses it (R48). -/
def Pupil.relinked (index : Nat) (listed : Bool) (p : Pupil) : Pupil :=
  if listed then
    if p.slots.contains (some index) then p
    else { p with slots := p.slots.set (p.slots.findIdx (· == none)) (some index) }
  else { p with slots := p.slots.map fun s => if s = some index then none else s }

/-- The contact index a key has, or is given: the lowest free one (R48). -/
def Attendance.indexFor (ae : Attendance) (key : Nat) : Nat :=
  match ae.contactOf key with
  | some c => c.index
  | none => firstFree Config.maxContacts (ae.contacts.map (·.index)) (ae.contacts.length + 1) 1

/-- LOAD_CONTACT taken (R48). -/
def Attendance.loadContact (c : Contact) (ae : Attendance) : Attendance :=
  { ae with
    contacts := putContact c ae.contacts
    pupils := ae.pupils.map fun p => p.relinked c.index (c.pupils.contains p.roll) }

/-- Whether a listed pupil names the contact already, or has a slot for it (R47). -/
def Attendance.canName (ae : Attendance) (key roll : Nat) : Bool :=
  match ae.pupil roll with
  | none => false
  | some p => p.slots.contains none || (ae.contactOf key).any fun c => p.slots.contains (some c.index)

/-- LOAD_CONTACT (R47). -/
def serveLoadContact (key mayExcuse mayNotify : Nat) (pupils : List Nat) (d : Device) : Answer × Device :=
  match flagCode mayExcuse, flagCode mayNotify with
  | some excuse, some notify =>
    let index := d.ae.indexFor key
    checked d
      [(key == 0 || pupils.isEmpty || Config.maxListed < pupils.length || pupils.any badRoll, .range), (d.rolling, .busy),
       (pupils.any fun r => (d.ae.pupil r).isNone, .notFound), (hasRepeat pupils, .duplicate),
       ((d.ae.contactOf key).isNone && Config.maxContacts ≤ d.ae.contacts.length || !pupils.all (d.ae.canName key), .full)]
      (ok (.contactIndex index), d.onAe (·.loadContact ⟨index, key, excuse, notify, pupils⟩))
  | _, _ => refuse .range d

/-- An excuse after its source is dropped (R49). -/
def Excuse.sourceDropped (index : Nat) (x : Excuse) : Excuse :=
  if x.source = .contact index then { x with source := .contact 0 } else x

/-- DROP_CONTACT taken (R49). -/
def Attendance.dropContact (c : Contact) (ae : Attendance) : Attendance :=
  { ae with
    contacts := ae.contacts.filter (·.key != c.key)
    pupils := ae.pupils.map (Pupil.relinked c.index false)
    excuses := ae.excuses.map (Excuse.sourceDropped c.index) }

/-- DROP_CONTACT (R49). -/
def serveDropContact (key : Nat) (d : Device) : Answer × Device :=
  match d.ae.contactOf key with
  | none => checked d [(key == 0, .range), (d.rolling, .busy)] (refuse .notFound d)
  | some c => checked d [(key == 0, .range), (d.rolling, .busy)] (ok .empty, d.onAe (·.dropContact c))

/-- QUERY_CONTACT (R54). -/
def serveQueryContact (key : Nat) (d : Device) : Answer × Device :=
  match d.ae.contactOf key with
  | none => checked d [(key == 0, .range), (d.rolling, .busy)] (refuse .notFound d)
  | some c => checked d [(key == 0, .range), (d.rolling, .busy)] (ok (.contact c), d)

/-- QUERY_CONTACTS (R54). -/
def serveQueryContacts (key : Nat) (d : Device) : Answer × Device :=
  let found := d.ae.contacts.filter (key ≤ ·.key)
  checked d [(d.rolling, .busy), (found.isEmpty, .notFound)]
    (ok (.contacts (found.take Config.contactsPerReply) d.ae.contacts.length), d)

/-! ### Start groups and tallies -/

/-- LOAD_GROUP (R50). -/
def serveLoadGroup (group : Nat) (entries : List GroupEntryOp) (d : Device) : Answer × Device :=
  match decodeAll groupEntry entries with
  | none => refuse .range d
  | some l =>
    checked d [(15 < group, .range), (d.rolling, .busy)]
      (ok .empty, d.onAe fun ae => { ae with groups := ae.groups.set group l })

/-- QUERY_GROUP (R50). -/
def serveQueryGroup (group : Nat) (d : Device) : Answer × Device :=
  checked d [(15 < group, .range), (d.rolling, .busy)] (ok (.group (d.ae.groups.getD group [])), d)

/-- The tallies after a choice: late points bit 0, late-minute total bit 1, unexplained days bit 2 (R53, R183). -/
def Pupil.tallyCleared (choice : BitVec 3) (p : Pupil) : Pupil :=
  { p with
    latePoints := if choice.getLsbD 0 then 0 else p.latePoints
    lateMinutes := if choice.getLsbD 1 then 0 else p.lateMinutes
    unexplainedDays := if choice.getLsbD 2 then 0 else p.unexplainedDays }

/-- CLEAR_TALLIES; roll number 0 is every pupil (R53). -/
def serveClearTallies (roll choice : Nat) (d : Device) : Answer × Device :=
  let chosen : Pupil → Bool := fun p => roll == 0 || p.roll == roll
  checked d
    [(Config.maxRoll < roll || choice == 0 || !fitsMask 3 choice, .range), (d.rolling, .busy),
     (roll != 0 && (d.ae.pupil roll).isNone, .notFound)]
    (ok (.recordCount (d.ae.pupils.filter chosen).length),
     d.onAe fun ae =>
       { ae with pupils := ae.pupils.map fun p => if chosen p then p.tallyCleared (BitVec.ofNat 3 choice) else p })

/-! ### The commands -/

/-- LOAD_PUPIL (R41). -/
def execLoadPupil (tag roll : Nat) (card : Option Nat) (cohort group grace : Nat) (slots : List (Option Nat)) :
    State → Host.Outcome State Fault Refusal :=
  act (request 18 tag (serveLoadPupil roll card cohort group grace slots))

/-- DROP_PUPIL (R45). -/
def execDropPupil (tag roll : Nat) : State → Host.Outcome State Fault Refusal := act (request 19 tag (serveDropPupil roll))

/-- QUERY_PUPIL (R54). -/
def execQueryPupil (tag roll : Nat) : State → Host.Outcome State Fault Refusal := act (request 20 tag (serveQueryPupil roll))

/-- QUERY_CARD (R44). -/
def execQueryCard (tag card : Nat) : State → Host.Outcome State Fault Refusal := act (request 21 tag (serveQueryCard card))

/-- LOAD_CONTACT (R47). -/
def execLoadContact (tag key mayExcuse mayNotify : Nat) (pupils : List Nat) :
    State → Host.Outcome State Fault Refusal :=
  act (request 22 tag (serveLoadContact key mayExcuse mayNotify pupils))

/-- DROP_CONTACT (R49). -/
def execDropContact (tag key : Nat) : State → Host.Outcome State Fault Refusal := act (request 23 tag (serveDropContact key))

/-- QUERY_CONTACT (R54). -/
def execQueryContact (tag key : Nat) : State → Host.Outcome State Fault Refusal := act (request 24 tag (serveQueryContact key))

/-- QUERY_CONTACTS (R54). -/
def execQueryContacts (tag key : Nat) : State → Host.Outcome State Fault Refusal :=
  act (request 25 tag (serveQueryContacts key))

/-- LOAD_GROUP (R50). -/
def execLoadGroup (tag group : Nat) (entries : List GroupEntryOp) : State → Host.Outcome State Fault Refusal :=
  act (request 26 tag (serveLoadGroup group entries))

/-- QUERY_GROUP (R50). -/
def execQueryGroup (tag group : Nat) : State → Host.Outcome State Fault Refusal := act (request 27 tag (serveQueryGroup group))

/-- CLEAR_TALLIES (R53). -/
def execClearTallies (tag roll choice : Nat) : State → Host.Outcome State Fault Refusal :=
  act (request 28 tag (serveClearTallies roll choice))

end Sys2Proof.Machine
end

