-- ==== Sys2Proof/Machine/RosterRequests.lean ====
section
/-! DEFINITION. The requests of the roster, the late step and the excuse table (R62, R69, R72, R73, R85, R97, R98), and the
sweep steps as commands (R59, R60). -/
namespace Sys2Proof.Machine

/-! ### DESK_MARK -/

/-- The states a desk mark may be made from (Table 4-6). -/
def markFrom (mark state : RosterState) : Bool :=
  match mark with
  | .present => state == .expected || state == .provisional || state == .unexplained
  | .explained => state == .provisional || state == .unexplained
  | .excusedAway => state == .expected
  | _ => false

/-- The entry after a desk mark (Table 4-6). -/
def RosterEntry.marked (mark : RosterState) (second : Nat) (e : RosterEntry) : RosterEntry :=
  match mark with
  | .present => { e with state := .present, band := some .desk, arrivalSecond := some second }
  | _ => { e with state := mark }

/-- A desk mark taken: from UNEXPLAINED the absence-notice rule follows, as an arrival for PRESENT (R69, R70). -/
def takeMarkFor (mark : RosterState) (e : RosterEntry) (d : Device) : Device :=
  let marked := d.onAe (·.onEntry e.roll (RosterEntry.marked mark d.tb.second))
  if e.state = .unexplained then absenceRuleFor (mark == .present) e.roll e.absenceTag marked else marked

/-- DESK_MARK (R69). -/
def serveDeskMark (roll mark : Nat) (d : Device) : Answer × Device :=
  match markCode mark with
  | none => refuse .range d
  | some m =>
    let before : List (Bool × Result) := [(badRoll roll, .range), (d.rolling, .busy), (d.ae.roster.isNone, .state)]
    match d.ae.entry roll with
    | none => checked d before (refuse .notFound d)
    | some e =>
      checked d (before ++ [((d.ae.pupil roll).isNone, .notFound), (!markFrom m e.state, .state)])
        (ok (.mark e.state m), takeMarkFor m e d)

/-! ### Reading the roster -/

/-- Whether a state is in a set of states; the empty set is every state (R73). -/
def wantsState (states : Nat) (st : RosterState) : Bool := states == 0 || states.testBit (st.code - 1)

/-- QUERY_ROSTER (R73). The roll number to ask again from is that of the next match; the rule does not say that it is not the one after
the last entry returned (DESIGN CHOICE, log 44). -/
def serveQueryRoster (roll states : Nat) (d : Device) : Answer × Device :=
  let found := (d.ae.roster.getD []).filter fun e => roll ≤ e.roll && wantsState states e.state
  let next := match found[Config.recordsPerReply]? with
    | some e => e.roll
    | none => 0
  checked d [(badRoll roll || !fitsMask 9 states, .range), (d.rolling, .busy), (d.ae.roster.isNone, .state)]
    (ok (.roster (found.take Config.recordsPerReply) next), d)

/-- QUERY_SWEEPS (R62): the records in order of entry, which the rule does not give (DESIGN CHOICE, log 45). -/
def serveQuerySweeps (d : Device) : Answer × Device := checked d [(d.rolling, .busy)] (ok (.sweeps d.ae.sweeps), d)

/-- SNAPSHOT (R72). -/
def serveSnapshot (d : Device) : Answer × Device :=
  let before : List (Bool × Result) := [(d.rolling, .busy), (d.ae.roster.isNone, .state)]
  match d.ae.latch with
  | none =>
    checked d before (ok (.snapshotSecond d.tb.second), d.onAe fun ae => { ae with latch := some ⟨ae.counts, d.tb.second⟩ })
  | some c => checked d before (⟨.ok, { alreadyLatched := true }, .snapshotSecond c.second⟩, d)

/-- QUERY_COUNTS (R72). -/
def serveQueryCounts (d : Device) : Answer × Device :=
  match d.ae.latch with
  | some c =>
    checked d [(d.rolling, .busy)]
      (⟨.ok, { latched := true }, .counts c.counts (some c.second)⟩, d.onAe fun ae => { ae with latch := none })
  | none => checked d [(d.rolling, .busy)] (⟨.ok, { noRoster := d.ae.roster.isNone }, .counts d.ae.counts none⟩, d)

/-! ### The late step -/

/-- SET_LATE_STEP (R85). -/
def serveSetLateStep (step : Nat) (d : Device) : Answer × Device :=
  checked d [(d.rolling, .busy)]
    (okClamped (Config.maxLateStep < step) .empty, d.onAe fun ae => { ae with lateStep := min Config.maxLateStep step })

/-- QUERY_LATE_STEP (R85). -/
def serveQueryLateStep (d : Device) : Answer × Device := checked d [(d.rolling, .busy)] (ok (.lateStep d.ae.lateStep), d)

/-! ### Excuses -/

/-- The excuse ADD_EXCUSE asks for (R97). -/
def deskExcuse (roll : Nat) (kind : ExcuseKind) (first last minute : Nat) : Excuse :=
  ⟨roll, kind, first, last, if kind = .absent then 0 else min Config.lastMinute minute, .desk, .pending⟩

/-- ADD_EXCUSE (R97). -/
def serveAddExcuse (roll kind first last minute : Nat) (d : Device) : Answer × Device :=
  match excuseKindCode kind with
  | none => refuse .range d
  | some k =>
    let new := deskExcuse roll k first last minute
    let m := mergedIn new d.ae.excuses
    let taken := recordAndApply new d
    checked d
      [(badRoll roll || Config.lastDay < first || Config.lastDay < last || last < first || last < d.tb.date, .range),
       (d.rolling, .busy), ((d.ae.pupil roll).isNone, .notFound), (overfull [new] d.ae.excuses, .full)]
      (okClamped (k != .absent && Config.lastMinute < minute)
         (.excuseAdded m.first m.last taken.2.ae.excuses.length taken.1), taken.2)

/-- REMOVE_EXCUSE taken: the entry goes whole and a reference to it is cleared (R66, R98). -/
def Attendance.removeExcuse (x : Excuse) (ae : Attendance) : Attendance :=
  ({ ae with excuses := ae.excuses.filter fun y => !(y.pupil == x.pupil && y.kind == x.kind && y.first == x.first) }).onEntry
    x.pupil fun e => if e.excuseRef = some x.ref then { e with excuseRef := none } else e

/-- REMOVE_EXCUSE (R98). -/
def serveRemoveExcuse (roll kind day : Nat) (d : Device) : Answer × Device :=
  match excuseKindCode kind with
  | none => refuse .range d
  | some k =>
    let before : List (Bool × Result) := [(badRoll roll || Config.lastDay < day, .range), (d.rolling, .busy)]
    match d.ae.excuseFor roll k day with
    | none => checked d before (refuse .notFound d)
    | some x => checked d before (ok (.excuseRemoved x.first x.last), d.onAe (·.removeExcuse x))

/-- The key of an excuse's source; 0 for the desk and for a contact since dropped (R98). -/
def Attendance.sourceKey (ae : Attendance) (x : Excuse) : Nat :=
  match x.source with
  | .desk => 0
  | .contact i => ((ae.contactAt i).map (·.key)).getD 0

/-- QUERY_EXCUSES (R98). -/
def serveQueryExcuses (day roll : Nat) (d : Device) : Answer × Device :=
  let found := d.ae.excuses.dropWhile fun x => x.first < day || (x.first == day && x.pupil < roll)
  checked d [(Config.lastDay < day || Config.maxRoll < roll, .range), (d.rolling, .busy)]
    (ok (.excuses ((found.take Config.recordsPerReply).map fun x => (x, d.ae.sourceKey x)) d.ae.excuses.length), d)

/-! ### The commands -/

/-- DESK_MARK (R69). -/
def execDeskMark (tag roll mark : Nat) : State → Host.Outcome State Fault Refusal :=
  act (request 29 tag (serveDeskMark roll mark))

/-- QUERY_ROSTER (R73). -/
def execQueryRoster (tag roll states : Nat) : State → Host.Outcome State Fault Refusal :=
  act (request 30 tag (serveQueryRoster roll states))

/-- QUERY_SWEEPS (R62). -/
def execQuerySweeps (tag : Nat) : State → Host.Outcome State Fault Refusal := act (request 31 tag serveQuerySweeps)

/-- SNAPSHOT (R72). -/
def execSnapshot (tag : Nat) : State → Host.Outcome State Fault Refusal := act (request 32 tag serveSnapshot)

/-- QUERY_COUNTS (R72). -/
def execQueryCounts (tag : Nat) : State → Host.Outcome State Fault Refusal := act (request 33 tag serveQueryCounts)

/-- SET_LATE_STEP (R85). -/
def execSetLateStep (tag step : Nat) : State → Host.Outcome State Fault Refusal := act (request 34 tag (serveSetLateStep step))

/-- QUERY_LATE_STEP (R85). -/
def execQueryLateStep (tag : Nat) : State → Host.Outcome State Fault Refusal := act (request 35 tag serveQueryLateStep)

/-- ADD_EXCUSE (R97). -/
def execAddExcuse (tag roll kind first last minute : Nat) : State → Host.Outcome State Fault Refusal :=
  act (request 36 tag (serveAddExcuse roll kind first last minute))

/-- REMOVE_EXCUSE (R98). -/
def execRemoveExcuse (tag roll kind day : Nat) : State → Host.Outcome State Fault Refusal :=
  act (request 37 tag (serveRemoveExcuse roll kind day))

/-- QUERY_EXCUSES (R98). -/
def execQueryExcuses (tag day roll : Nat) : State → Host.Outcome State Fault Refusal :=
  act (request 38 tag (serveQueryExcuses day roll))

/-- CLOSE_SWEEP_STEP (R59). -/
def execCloseSweepStep (point site : Nat) : State → Host.Outcome State Fault Refusal := act (powered (closeStep point site))

/-- CONFIRM_SWEEP_STEP (R60). -/
def execConfirmSweepStep (point site : Nat) : State → Host.Outcome State Fault Refusal :=
  act (powered (confirmStep point site))

end Sys2Proof.Machine
end

