-- ==== Sys2Proof/Machine/ScannerRequests.lean ====
section
/-! DEFINITION. The Schedule Scanner's requests (R24 to R28, R36, R39). -/
namespace Sys2Proof.Machine

/-! ### LOAD_PLAN -/

/-- The order of actions at one minute (R25). -/
def PlanAction.rank : PlanAction → Nat
  | .routeSwap => 0
  | .ring _ _ => 1
  | .regStart _ => 2
  | .regClose _ => 3

/-- Plan order (R25). -/
def planBefore (a b : PlanEntry) : Bool :=
  a.minute < b.minute || (a.minute == b.minute && a.action.rank < b.action.rank)

/-- Entries in plan order; those equal in minute and action keep the request's order (R25). -/
def inPlanOrder (l : List PlanEntry) : List PlanEntry := sortBy planBefore l

/-- Whether two site masks share a site. -/
def sitesMeet (a b : SiteSet) : Bool := a &&& b != 0

/-- Whether an entry is a second REG_START, or a second REG_CLOSE, of a point and site that another has (R24). -/
def PlanEntry.repeats (a b : PlanEntry) : Bool :=
  match a.action, b.action with
  | .regStart j, .regStart k => j == k && sitesMeet a.sites b.sites
  | .regClose j, .regClose k => j == k && sitesMeet a.sites b.sites
  | _, _ => false

/-- Whether the list holds two such entries (R24, check 3). -/
def planDuplicates : List PlanEntry → Bool
  | [] => false
  | e :: rest => rest.any e.repeats || planDuplicates rest

/-- Whether the list holds a REG_START of (k, s) at or before a minute. -/
def opensBy (l : List PlanEntry) (k s minute : Nat) : Bool :=
  l.any fun e => e.action == .regStart k && e.sites.getLsbD s && e.minute ≤ minute

/-- Whether a REG_CLOSE names a site without a REG_START of its point, or with a later one (R24, check 4). -/
def closesEarly (l : List PlanEntry) (e : PlanEntry) : Bool :=
  match e.action with
  | .regClose k => allSites.any fun s => e.sites.getLsbD s && !opensBy l k s e.minute
  | .ring _ _ => false
  | .routeSwap => false
  | .regStart _ => false

/-- Whether a plan is in use today (R26). -/
def Device.planInUse (p : Nat) (d : Device) : Bool :=
  d.tb.today == .plan p || (d.ss.plan p).active.any fun sl => sl.fired != 0 || sl.passed != 0

/-- A plan written by its standing (R26). -/
def DayPlan.loaded (inUse : Bool) (entries : List PlanEntry) (p : DayPlan) : DayPlan :=
  if inUse then { p with staged := entries, pending := true } else ⟨entries.map fun e => ⟨e, 0, 0⟩, entries, false⟩

/-- LOAD_PLAN (R24 to R26). -/
def serveLoadPlan (plan : Nat) (entries : List PlanEntryOp) (d : Device) : Answer × Device :=
  match decodeAll planEntry entries with
  | none => refuse .range d
  | some l =>
    checked d
      [(plan == 0 || 8 < plan, .range), (Config.maxPlanEntries < l.length, .full), (planDuplicates l, .duplicate),
       (l.any (closesEarly l), .range), (d.rolling, .busy)]
      (ok .empty, { d with ss.plans := setNth d.ss.plans plan ((d.ss.plan plan).loaded (d.planInUse plan) (inPlanOrder l)) })

/-! ### QUERY_PLAN -/

/-- The flags QUERY_PLAN reports: those of the active copy of today's plan (R26). -/
def Device.planFlags (plan : Nat) (active : Bool) (d : Device) : List (SiteSet × SiteSet) :=
  if active && d.tb.today == .plan plan then (d.ss.plan plan).active.map fun sl => (sl.fired, sl.passed) else []

/-- QUERY_PLAN (R26). -/
def serveQueryPlan (plan copy : Nat) (d : Device) : Answer × Device :=
  match copyCode copy with
  | none => refuse .range d
  | some active =>
    let p := d.ss.plan plan
    checked d [(plan == 0 || 8 < plan, .range), (d.rolling, .busy)]
      (ok (.plan (if active then p.active.map (·.entry) else p.staged) p.pending (d.planFlags plan active)), d)

/-! ### Site settings -/

/-- A site's settings with the values of SET_SITE clamped (R27). -/
def SiteSettings.written (offset : Int) (grace confirmDelay : Nat) (each : Bool) (s : SiteSettings) : SiteSettings where
  offset := clampInt (-60) 60 offset
  grace := min 20 grace
  confirmDelay := clampNat 5 60 confirmDelay
  notifyEachLate := each
  shift := s.shift

/-- Writes the settings of a site. -/
def Device.putSite (site : Nat) (v : SiteSettings) (d : Device) : Device := { d with ss.sites := d.ss.sites.set site v }

/-- SET_SITE (R27, R33). Notify-each-late, a flag by R27 and ON or OFF by Table 2-2, is taken as the flag 1 or 0 and refused RANGE
otherwise (DESIGN CHOICE, log 10). -/
def serveSetSite (site : Nat) (offset : Int) (grace confirmDelay each : Nat) (d : Device) : Answer × Device :=
  match flagCode each with
  | none => refuse .range d
  | some on =>
    let old := d.ss.site site
    let new := old.written offset grace confirmDelay on
    let clamped := new.offset != offset || new.grace != grace || new.confirmDelay != confirmDelay
    let put := d.putSite site new
    checked d
      [(2 < site, .range), (d.rolling, .busy), (offset != old.offset && d.ss.regStarted site, .tooLate)]
      (okClamped clamped .empty, if new.offset = old.offset then put else reassess [site] put)

/-- SET_SHIFT (R28, R33). -/
def serveSetShift (site minutes : Nat) (d : Device) : Answer × Device :=
  checked d [(2 < site, .range), (d.rolling, .busy), (d.ss.regStarted site, .tooLate)]
    (okClamped (Config.maxShift < minutes) .empty,
     reassess [site] (d.putSite site { d.ss.site site with shift := min Config.maxShift minutes }))

/-! ### SELECT_TODAY and QUERY_DAY -/

/-- Today's plan becomes another: a change between CLOSED and a plan is a change of day kind, and every site is reassessed
(R36, R58). -/
def selectPlan (c : DayPlanChoice) (d : Device) : Device :=
  let set := { d with tb.today := c }
  let kind := if (d.tb.today == .closed) = (c == .closed) then set else changeDayKind (c == .closed) set
  reassess allSites kind

/-- SELECT_TODAY (R36). -/
def serveSelectToday (plan : Nat) (d : Device) : Answer × Device :=
  match planChoice plan with
  | none => refuse .range d
  | some c =>
    checked d
      [(d.rolling, .busy), (!d.clockValid, .state), (allSites.any d.ss.regStarted, .tooLate)]
      (ok .empty, if d.tb.today = c then d else selectPlan c d)

/-- QUERY_DAY (R39). -/
def serveQueryDay (d : Device) : Answer × Device :=
  checked d [(d.rolling, .busy)]
    (ok (.day {
      today := d.tb.today
      schoolDay := d.schoolDay
      sites := d.ss.sites
      states := allSites.map d.dayState
      confirm := d.confirmView
      regStarted := allSites.map d.ss.regStarted }), d)

/-! ### The commands -/

/-- LOAD_PLAN (R24). -/
def execLoadPlan (tag plan : Nat) (entries : List PlanEntryOp) : State → Host.Outcome State Fault Refusal :=
  act (request 12 tag (serveLoadPlan plan entries))

/-- QUERY_PLAN (R26). -/
def execQueryPlan (tag plan copy : Nat) : State → Host.Outcome State Fault Refusal :=
  act (request 13 tag (serveQueryPlan plan copy))

/-- SET_SITE (R27). -/
def execSetSite (tag site : Nat) (offset : Int) (grace confirmDelay notifyEachLate : Nat) :
    State → Host.Outcome State Fault Refusal :=
  act (request 14 tag (serveSetSite site offset grace confirmDelay notifyEachLate))

/-- SET_SHIFT (R28). -/
def execSetShift (tag site minutes : Nat) : State → Host.Outcome State Fault Refusal :=
  act (request 15 tag (serveSetShift site minutes))

/-- SELECT_TODAY (R36). -/
def execSelectToday (tag plan : Nat) : State → Host.Outcome State Fault Refusal :=
  act (request 16 tag (serveSelectToday plan))

/-- QUERY_DAY (R39). -/
def execQueryDay (tag : Nat) : State → Host.Outcome State Fault Refusal := act (request 17 tag serveQueryDay)

end Sys2Proof.Machine
end

