-- ==== Sys2Proof/Machine/Dispatch.lean ====
section
/-! DEFINITION. The dispatch of commands: one arm per constructor, each a direct call of its meaning. -/
namespace Sys2Proof.Machine

/-- The effect of a command on everything but the queue. -/
def exec (i : Instr) (s : State) : Host.Outcome State Fault Refusal :=
  match i with
  | .setTime tag day second tick => Sys2Proof.Machine.execSetTime tag day second tick s
  | .queryTime tag => Sys2Proof.Machine.execQueryTime tag s
  | .setDiscipline tag setting => Sys2Proof.Machine.execSetDiscipline tag setting s
  | .setCycleLength tag length => Sys2Proof.Machine.execSetCycleLength tag length s
  | .setCycleDay tag day => Sys2Proof.Machine.execSetCycleDay tag day s
  | .loadException tag date outcome termStart => Sys2Proof.Machine.execLoadException tag date outcome termStart s
  | .dropException tag date => Sys2Proof.Machine.execDropException tag date s
  | .queryExceptions tag date => Sys2Proof.Machine.execQueryExceptions tag date s
  | .loadRule tag number weekdays cycleDay outcome => Sys2Proof.Machine.execLoadRule tag number weekdays cycleDay outcome s
  | .loadWeekday tag weekday outcome => Sys2Proof.Machine.execLoadWeekday tag weekday outcome s
  | .queryCalendar tag => Sys2Proof.Machine.execQueryCalendar tag s
  | .loadPlan tag plan entries => Sys2Proof.Machine.execLoadPlan tag plan entries s
  | .queryPlan tag plan copy => Sys2Proof.Machine.execQueryPlan tag plan copy s
  | .setSite tag site offset grace confirmDelay notifyEachLate => Sys2Proof.Machine.execSetSite tag site offset grace confirmDelay notifyEachLate s
  | .setShift tag site minutes => Sys2Proof.Machine.execSetShift tag site minutes s
  | .selectToday tag plan => Sys2Proof.Machine.execSelectToday tag plan s
  | .queryDay tag => Sys2Proof.Machine.execQueryDay tag s
  | .loadPupil tag roll card cohort group grace slots => Sys2Proof.Machine.execLoadPupil tag roll card cohort group grace slots s
  | .dropPupil tag roll => Sys2Proof.Machine.execDropPupil tag roll s
  | .queryPupil tag roll => Sys2Proof.Machine.execQueryPupil tag roll s
  | .queryCard tag card => Sys2Proof.Machine.execQueryCard tag card s
  | .loadContact tag key mayExcuse mayNotify pupils => Sys2Proof.Machine.execLoadContact tag key mayExcuse mayNotify pupils s
  | .dropContact tag key => Sys2Proof.Machine.execDropContact tag key s
  | .queryContact tag key => Sys2Proof.Machine.execQueryContact tag key s
  | .queryContacts tag key => Sys2Proof.Machine.execQueryContacts tag key s
  | .loadGroup tag group entries => Sys2Proof.Machine.execLoadGroup tag group entries s
  | .queryGroup tag group => Sys2Proof.Machine.execQueryGroup tag group s
  | .clearTallies tag roll choice => Sys2Proof.Machine.execClearTallies tag roll choice s
  | .deskMark tag roll mark => Sys2Proof.Machine.execDeskMark tag roll mark s
  | .queryRoster tag roll states => Sys2Proof.Machine.execQueryRoster tag roll states s
  | .querySweeps tag => Sys2Proof.Machine.execQuerySweeps tag s
  | .snapshot tag => Sys2Proof.Machine.execSnapshot tag s
  | .queryCounts tag => Sys2Proof.Machine.execQueryCounts tag s
  | .setLateStep tag step => Sys2Proof.Machine.execSetLateStep tag step s
  | .queryLateStep tag => Sys2Proof.Machine.execQueryLateStep tag s
  | .addExcuse tag roll kind first last minute => Sys2Proof.Machine.execAddExcuse tag roll kind first last minute s
  | .removeExcuse tag roll kind day => Sys2Proof.Machine.execRemoveExcuse tag roll kind day s
  | .queryExcuses tag day roll => Sys2Proof.Machine.execQueryExcuses tag day roll s
  | .composeBulletin tag number cohorts sites => Sys2Proof.Machine.execComposeBulletin tag number cohorts sites s
  | .stopBulletin tag => Sys2Proof.Machine.execStopBulletin tag s
  | .queryFanout tag => Sys2Proof.Machine.execQueryFanout tag s
  | .closeCall tag number => Sys2Proof.Machine.execCloseCall tag number s
  | .queryCalls tag position => Sys2Proof.Machine.execQueryCalls tag position s
  | .queryNotice tag notice => Sys2Proof.Machine.execQueryNotice tag notice s
  | .queryNotices tag place position => Sys2Proof.Machine.execQueryNotices tag place position s
  | .setNoticeTimes tag outcomeTimeout fallbackDelay => Sys2Proof.Machine.execSetNoticeTimes tag outcomeTimeout fallbackDelay s
  | .queryNoticeTimes tag => Sys2Proof.Machine.execQueryNoticeTimes tag s
  | .relayStart tag => Sys2Proof.Machine.execRelayStart tag s
  | .relayStop tag => Sys2Proof.Machine.execRelayStop tag s
  | .setRelayLink tag runLength threshold resyncTime attemptLimit silenceLimit autoRestart autoStart => Sys2Proof.Machine.execSetRelayLink tag runLength threshold resyncTime attemptLimit silenceLimit autoRestart autoStart s
  | .queryRelayLink tag => Sys2Proof.Machine.execQueryRelayLink tag s
  | .queryLink tag => Sys2Proof.Machine.execQueryLink tag s
  | .linkLampMode tag mode => Sys2Proof.Machine.execLinkLampMode tag mode s
  | .lamp tag level => Sys2Proof.Machine.execLamp tag level s
  | .loadPattern tag number mode n p k r d => Sys2Proof.Machine.execLoadPattern tag number mode n p k r d s
  | .queryPattern tag number => Sys2Proof.Machine.execQueryPattern tag number s
  | .loadRoute tag bank entries => Sys2Proof.Machine.execLoadRoute tag bank entries s
  | .queryRoute tag bank => Sys2Proof.Machine.execQueryRoute tag bank s
  | .swapBank tag => Sys2Proof.Machine.execSwapBank tag s
  | .setQuiet tag zones => Sys2Proof.Machine.execSetQuiet tag zones s
  | .alertStart tag zones => Sys2Proof.Machine.execAlertStart tag zones s
  | .alertStop tag => Sys2Proof.Machine.execAlertStop tag s
  | .setAlertInput tag zones => Sys2Proof.Machine.execSetAlertInput tag zones s
  | .paStart tag zones => Sys2Proof.Machine.execPaStart tag zones s
  | .paStop tag => Sys2Proof.Machine.execPaStop tag s
  | .setPaKey tag zones => Sys2Proof.Machine.execSetPaKey tag zones s
  | .setSupervision tag zones => Sys2Proof.Machine.execSetSupervision tag zones s
  | .querySounder tag => Sys2Proof.Machine.execQuerySounder tag s
  | .queryZones tag => Sys2Proof.Machine.execQueryZones tag s
  | .setStation tag address enabled site => Sys2Proof.Machine.execSetStation tag address enabled site s
  | .queryStations tag => Sys2Proof.Machine.execQueryStations tag s
  | .readJournal tag serial => Sys2Proof.Machine.execReadJournal tag serial s
  | .status tag => Sys2Proof.Machine.execStatus tag s
  | .setAttentionMask tag causes => Sys2Proof.Machine.execSetAttentionMask tag causes s
  | .reset tag => Sys2Proof.Machine.execReset tag s
  | .unknownRequest tag code => Sys2Proof.Machine.execUnknownRequest tag code s
  | .overrun => Sys2Proof.Machine.execOverrun s
  | .officeBadFrame => Sys2Proof.Machine.execOfficeBadFrame s
  | .officeByteTimeout => Sys2Proof.Machine.execOfficeByteTimeout s
  | .replyComplete => Sys2Proof.Machine.execReplyComplete s
  | .warmReset => Sys2Proof.Machine.execWarmReset s
  | .powerUp strapHigh => Sys2Proof.Machine.execPowerUp strapHigh s
  | .retentionLoss strapHigh => Sys2Proof.Machine.execRetentionLoss strapHigh s
  | .mainPowerLoss => Sys2Proof.Machine.execMainPowerLoss s
  | .oscillatorTick sense => Sys2Proof.Machine.execOscillatorTick sense s
  | .masterMark => Sys2Proof.Machine.execMasterMark s
  | .markSilenceExpiry => Sys2Proof.Machine.execMarkSilenceExpiry s
  | .rolloverStep => Sys2Proof.Machine.execRolloverStep s
  | .closeSweepStep point site => Sys2Proof.Machine.execCloseSweepStep point site s
  | .confirmSweepStep point site => Sys2Proof.Machine.execConfirmSweepStep point site s
  | .gateRoundStart => Sys2Proof.Machine.execGateRoundStart s
  | .poll => Sys2Proof.Machine.execPoll s
  | .gateReply checkAgrees lengthAgrees address fresh records => Sys2Proof.Machine.execGateReply checkAgrees lengthAgrees address fresh records s
  | .gateReplyTimeout => Sys2Proof.Machine.execGateReplyTimeout s
  | .arrivalRecord => Sys2Proof.Machine.execArrivalRecord s
  | .outcomeTimeout notice => Sys2Proof.Machine.execOutcomeTimeout notice s
  | .relayDownFallback notice => Sys2Proof.Machine.execRelayDownFallback notice s
  | .fanoutStep => Sys2Proof.Machine.execFanoutStep s
  | .rxMsg seq place mark body => Sys2Proof.Machine.execRxMsg seq place mark body s
  | .rxMark mark => Sys2Proof.Machine.execRxMark mark s
  | .rxIdle mark => Sys2Proof.Machine.execRxIdle mark s
  | .rxResync flag mark => Sys2Proof.Machine.execRxResync flag mark s
  | .rxStart => Sys2Proof.Machine.execRxStart s
  | .rxBadFrame => Sys2Proof.Machine.execRxBadFrame s
  | .relayByteTimeout => Sys2Proof.Machine.execRelayByteTimeout s
  | .txLineFree => Sys2Proof.Machine.execTxLineFree s
  | .startTimer => Sys2Proof.Machine.execStartTimer s
  | .markDue => Sys2Proof.Machine.execMarkDue s
  | .idleDue => Sys2Proof.Machine.execIdleDue s
  | .silenceTimeout => Sys2Proof.Machine.execSilenceTimeout s
  | .resyncTimeout => Sys2Proof.Machine.execResyncTimeout s
  | .autoRestart => Sys2Proof.Machine.execAutoRestart s
  | .generatorUnit generator => Sys2Proof.Machine.execGeneratorUnit generator s
  | .alertWarbleUnit => Sys2Proof.Machine.execAlertWarbleUnit s
  | .alertInput active => Sys2Proof.Machine.execAlertInput active s
  | .paKey held => Sys2Proof.Machine.execPaKey held s
  | .idleCheck zone => Sys2Proof.Machine.execIdleCheck zone s
  | .wrongBodyLength tag code => Sys2Proof.Machine.execWrongBodyLength tag code s

end Sys2Proof.Machine
end

