-- ==== Sys2Proof/Machine/Formats.lean ====
section
/-! DEFINITION. What goes out: the check (R129), the bytes of relay, gate bus and office frames (R183, Tables 11-5 to 11-9)
and the output pins (Table 11-10). They are views of the state. -/
namespace Sys2Proof.Machine

/-! ### The check -/

/-- One bit of the CRC with polynomial 0x1021, not reflected (R129). -/
def crcBit (crc : BitVec 16) : BitVec 16 := if crc.msb then (crc <<< 1) ^^^ 0x1021#16 else crc <<< 1

/-- One byte of the CRC, most significant bit first (R129). -/
def crcByte (crc : BitVec 16) (b : Byte) : BitVec 16 := repeated crcBit 8 (crc ^^^ (b.setWidth 16 <<< 8))

/-- The CRC over some bytes, preset 0xFFFF, no final inversion (R129). -/
def crc16 (bytes : List Byte) : BitVec 16 := bytes.foldl crcByte 0xFFFF#16

/-! ### Fields -/

/-- A number in a width of bytes, most significant first (R183). -/
def numBytes : Nat → Nat → List Byte
  | 0, _ => []
  | w + 1, n => BitVec.ofNat 8 (n / 256 ^ w) :: numBytes w n

/-- A number that may be negative, in two's complement (R183). -/
def intBytes (w : Nat) (n : Int) : List Byte := numBytes w (n % (256 ^ w : Nat)).toNat

/-- A field that is set or clear (R183). -/
def flagByte (b : Bool) : List Byte := [if b then 1 else 0]

/-- An optional field of which 0 is no value (R183). -/
def optBytes (w : Nat) (n : Option Nat) : List Byte := numBytes w (n.getD 0)

/-- An optional field of which 0 is a value, in an office body (R183). -/
def optMarked (w : Nat) (n : Option Nat) : List Byte := flagByte n.isSome ++ optBytes w n

/-- A set of sites, stations or cohorts: one byte, the fewest that hold its members, the lowest-numbered in the least significant
bit (DESIGN CHOICE, log 31: R183 says only that it is sent in the same way as a zone set of three bytes). -/
def memberSetByte {n : Nat} (s : BitVec n) : List Byte := numBytes 1 s.toNat

/-- A list in an office body: a one-byte count, then the members (R183). -/
def listBytes {α : Type} (f : α → List Byte) (l : List α) : List Byte := numBytes 1 l.length ++ l.flatMap f

/-- The longest body of an office frame (Table 11-5). -/
def maxBody : Nat := 256

/-- As many leading members of a list as fit in some bytes. -/
def fitting {α : Type} (f : α → List Byte) : Nat → List α → List α
  | _, [] => []
  | room, a :: l => if (f a).length ≤ room then a :: fitting f (room - (f a).length) l else []

/-- A list of "up to" so many members, as many of them as leave room in the body for the other fields' bytes: the number a rule
gives would pass Table 11-5's 256 bytes (DESIGN CHOICE, log 31). -/
def fittedBytes {α : Type} (f : α → List Byte) (others : Nat) (l : List α) : List Byte :=
  listBytes f (fitting f (maxBody - 1 - others) l)

/-- A set of the numbers 1.. whose flag is set, the lowest in the least significant bit (R183). -/
def flagSet (l : List Bool) : Nat := l.foldr (fun b acc => b.toNat + 2 * acc) 0

/-- A frame body with its two check bytes (R129, R183). -/
def checkedBytes (l : List Byte) : List Byte := l ++ numBytes 2 (crc16 l).toNat

/-! ### Enumeration codes (R183, Table 11-9) -/

def Validity.code : Validity → Nat
  | .valid => 1
  | .invalid => 2

def DisciplineState.code : DisciplineState → Nat
  | .unlocked => 1
  | .locked => 2

/-- ENABLED 1, DISABLED 2; AUTO 1, MANUAL 2; and every other pair in the order set, clear. -/
def pairCode (first : Bool) : Nat := if first then 1 else 2

/-- CLOSED is sent as 255 (R183). -/
def DayPlanChoice.code : DayPlanChoice → Nat
  | .closed => 255
  | .plan p => p

def RolloverKind.code : RolloverKind → Nat
  | .midnight => 1
  | .step => 2
  | .set _ _ => 3
  | .resume => 4

def SiteDayState.code : SiteDayState → Nat
  | .closed => 0
  | .before => 1
  | .open => 2
  | .lateInForce => 3

def Band.code : Band → Nat
  | .onTime => 1
  | .grace => 2
  | .late => 3
  | .veryLate => 4
  | .lateExcused => 5
  | .desk => 6

def SignOut.code : SignOut → Nat
  | .appointment => 1
  | .ill => 2
  | .other => 3

def ExcuseKind.code (k : ExcuseKind) : Nat := k.rank + 1

def ExcuseState.code : ExcuseState → Nat
  | .pending => 1
  | .applied => 2
  | .overridden => 3

def Verdict.code : Verdict → Nat
  | .onTime => 1
  | .grace => 2
  | .late => 3
  | .veryLate => 4
  | .lateExcused => 5
  | .alreadyIn => 6
  | .notExpected => 7
  | .returned => 8
  | .signedOut => 9
  | .notIn => 10
  | .unknownCard => 11
  | .untimed => 12

def Direction.code : Direction → Nat
  | .inward => 1
  | .outward => 2

def SweepStatus.code : SweepStatus → Nat
  | .running => 1
  | .waiting => 2
  | .paused => 3

def RosterResult.code : RosterResult → Nat
  | .changed => 1
  | .unchanged => 2
  | .alreadyIn => 3

def NoticeClass.code : NoticeClass → Nat
  | .urgent => 1
  | .routine => 2
  | .bulk => 3

def NoticeBody.code : NoticeBody → Nat
  | .absentUnexplained => 1
  | .leftSite _ => 2
  | .arrivedAfterCall _ => 3
  | .lateRecorded _ _ => 4
  | .latePattern _ _ => 5
  | .ackParent _ _ _ _ _ => 6
  | .bulletin _ => 7

def AckCode.code : AckCode → Nat
  | .unknownPupil => 1
  | .accepted => 2
  | .notRecorded => 3
  | .notAuthorised => 4
  | .alreadyIn => 5

def Place.code : Place → Nat
  | .queue => 1
  | .ring => 2
  | .awaiting => 3
  | .calls => 4
  | .closed => 5

def CallReason.code : CallReason → Nat
  | .noContact => 1
  | .queueFull => 2
  | .relayDown => 3
  | .noOutcome => 4
  | .unreachableAll => 5
  | .freeText => 6
  | .notAuthorised => 7
  | .notRecorded => 8
  | .parentUnaware => 9

/-- A closing reason's place in the list of R109. -/
def CalledReason.code : CalledReason → Nat
  | .sentUntracked => 2
  | .delivered => 3
  | .replied => 4

def FanoutStatus.code : FanoutStatus → Nat
  | .idle => 1
  | .running => 2
  | .paused => 3

def FanoutEnd.code : FanoutEnd → Nat
  | .notYet => 1
  | .complete => 2
  | .stopped => 3
  | .aborted => 4

def LinkState.code : LinkState → Nat
  | .off => 1
  | .starting => 2
  | .up => 3
  | .down => 4

def PatternMode.code : PatternMode → Nat
  | .ring => 1
  | .pulse => 2
  | .warble => 3
  | .chirp => 4

def Bank.code : Bank → Nat
  | .a => 1
  | .b => 2

def Level.code : Level → Nat
  | .silent => 1
  | .steady => 2
  | .toneA => 3
  | .toneB => 4
  | .pa => 5

/-- Demands in the order of R161, a generator by its number. -/
def Demand.code : Demand → Nat
  | .alertWarble => 1
  | .paLine => 2
  | .silent => 3
  | .generator g => 3 + g

def StationState.code : StationState → Nat
  | .disabled => 1
  | .searching => 2
  | .syncing => 3
  | .active => 4
  | .lost => 5

/-- Position in Table 11-1 (Table 11-5). -/
def Result.code : Result → Nat
  | .ok => 1
  | .range => 2
  | .busy => 3
  | .locked => 4
  | .full => 5
  | .duplicate => 6
  | .notFound => 7
  | .state => 8
  | .tooLate => 9
  | .unknown => 10
  | .length => 11

/-- The reply flags in their bits (Table 11-5). -/
def ReplyFlags.code (f : ReplyFlags) : Nat :=
  f.clamped.toNat + 2 * f.alreadyLatched.toNat + 4 * f.latched.toNat + 8 * f.noRoster.toNat + 16 * f.releaseIgnored.toNat

/-! ### Relay frames (Tables 11-6, 11-7) -/

/-- A notice kind's parameters (Table 11-7). -/
def NoticeBody.paramBytes : NoticeBody → List Byte
  | .absentUnexplained => []
  | .leftSite reason => numBytes 1 reason.code
  | .arrivedAfterCall tag => numBytes 2 tag
  | .lateRecorded band minutes => numBytes 1 band.code ++ numBytes 2 minutes
  | .latePattern points band => numBytes 1 points ++ numBytes 1 band.code
  | .ackParent code intent roll first last =>
    numBytes 1 code.code ++ numBytes 1 intent ++ numBytes 2 roll ++ numBytes 2 first ++ numBytes 2 last
  | .bulletin number => numBytes 2 number

/-- A NOTE's body (Table 11-7). -/
def Notice.noteBytes (n : Notice) : List Byte :=
  numBytes 2 n.tag ++ numBytes 1 n.body.code ++ numBytes 1 n.cls.code ++ numBytes 2 n.pupil ++ numBytes 4 n.key
    ++ numBytes 1 n.step ++ numBytes 2 n.subjectDay ++ numBytes 3 n.composed ++ n.body.paramBytes

/-- A relay frame from its fields: sync byte 90, the fields and the check (R129, Table 11-6). -/
def relayBytes (kind seq place mark : Nat) (body : List Byte) : List Byte :=
  numBytes 1 90 ++ checkedBytes
    (numBytes 1 kind ++ numBytes 1 seq ++ numBytes 1 place ++ numBytes 1 mark ++ numBytes 1 body.length ++ body)

/-- The bytes of a frame the EO-3200 sends (Table 8-2). -/
def RelayFrame.bytes : RelayFrame → List Byte
  | .note seq place m n => relayBytes 1 seq place m n.noteBytes
  | .mark m => relayBytes 3 0 0 m []
  | .resyncRewind m => relayBytes 4 0 1 m []
  | .resyncClear m => relayBytes 4 0 2 m []
  | .start => relayBytes 5 0 0 0 []
  | .idle m => relayBytes 6 0 0 m []

/-! ### Gate bus frames (Table 11-8) -/

/-- A gate bus frame: sync byte 195, address, kind, length, body and check (Table 11-8). -/
def gateBytes (address kind : Nat) (body : List Byte) : List Byte :=
  numBytes 1 195 ++ checkedBytes (numBytes 1 address ++ numBytes 1 kind ++ numBytes 1 body.length ++ body)

/-- Day states packed two bits each (Table 11-8). Which two bits are whose the table does not say: site 0 is put lowest, then 1 and
2 (DESIGN CHOICE, log 31). -/
def packedStates : List SiteDayState → Nat
  | [] => 0
  | st :: rest => st.code + 4 * packedStates rest

/-- A verdict of a POLL body (Table 11-8). -/
def SeqVerdict.bytes (v : SeqVerdict) : List Byte :=
  let wrong := match v.verdict.dueSite with
    | none => 0
    | some s => 128 + s
  numBytes 1 v.seq ++ numBytes 1 v.verdict.verdict.code ++ numBytes 2 v.verdict.roll ++ numBytes 2 v.verdict.lateness
    ++ numBytes 1 wrong ++ numBytes 3 v.verdict.second

/-- The bytes of a frame the EO-3200 sends on the gate bus (R168, R169). -/
def GateFrame.bytes : GateFrame → List Byte
  | .broadcast day second validity schoolDay states =>
    gateBytes 0 1 (numBytes 2 day ++ numBytes 3 second ++ numBytes 1 validity.code ++ flagByte schoolDay
      ++ numBytes 1 (packedStates states))
  | .poll address verdicts => gateBytes address 2 (listBytes SeqVerdict.bytes verdicts)

/-! ### Reply bodies (R183); where R183 leaves a layout to reading, log 31 gives the reading -/

/-- A rollover state: IDLE 1 or ACTIVE 2, then kind and step, 0 while IDLE. -/
def rolloverBytes (r : Option (RolloverKind × Nat)) : List Byte :=
  match r with
  | none => numBytes 1 1 ++ numBytes 1 0 ++ numBytes 1 0
  | some (k, n) => numBytes 1 2 ++ numBytes 1 k.code ++ numBytes 1 n

def TimeReply.bytes (t : TimeReply) : List Byte :=
  numBytes 2 t.date ++ numBytes 3 t.second ++ numBytes 1 t.tick ++ numBytes 1 t.validity.code
    ++ numBytes 1 (pairCode t.disciplined) ++ numBytes 1 t.discipline.code ++ intBytes 1 t.balance
    ++ flagByte t.lastError.isSome ++ intBytes 2 (t.lastError.getD 0) ++ numBytes 1 t.cycleLength ++ numBytes 1 t.cycleDay
    ++ numBytes 1 t.today.code ++ rolloverBytes t.rollover ++ numBytes 1 t.exceptions

def CalException.bytes (x : CalException) : List Byte :=
  numBytes 2 x.date ++ optBytes 1 (x.outcome.map (·.code)) ++ flagByte x.termStart

def CalRule.bytes (r : CalRule) : List Byte :=
  numBytes 1 r.weekdays.toNat ++ optBytes 1 r.cycleDay ++ numBytes 1 r.outcome.code

def PlanEntry.bytes (e : PlanEntry) : List Byte :=
  let f := match e.action with
    | .ring g p => [1, g, p, 0]
    | .routeSwap => [2, 0, 0, 0]
    | .regStart k => [3, 0, 0, k]
    | .regClose k => [4, 0, 0, k]
  numBytes 2 e.minute ++ memberSetByte e.sites ++ f.flatMap (numBytes 1)

/-- Site settings (Table 2-2). Notify-each-late, a flag by R27 and ON or OFF by the table, is sent as the flag 1 or 0 (DESIGN CHOICE,
log 10). -/
def SiteSettings.bytes (s : SiteSettings) : List Byte :=
  intBytes 1 s.offset ++ numBytes 1 s.grace ++ numBytes 1 s.confirmDelay ++ flagByte s.notifyEachLate ++ numBytes 1 s.shift

/-- A confirm point: its state by its place in R32, and its minute behind a presence byte. That 0 is one of the minute's values, being a
minute of day, is the model's: by R31 it is never below 5, so that R183 may have absence sent as 0 alone (DESIGN CHOICE, log 31). -/
def ConfirmPoint.bytes : ConfirmPoint → List Byte
  | .notSet => numBytes 1 1 ++ optMarked 2 none
  | .setAt m => numBytes 1 2 ++ optMarked 2 (some m)
  | .firedToday => numBytes 1 3 ++ optMarked 2 none

def DayReply.bytes (r : DayReply) : List Byte :=
  numBytes 1 r.today.code ++ flagByte r.schoolDay
    ++ (r.sites.zip r.states).flatMap (fun s => s.1.bytes ++ numBytes 1 (s.2.code + 1))
    ++ r.confirm.flatMap ConfirmPoint.bytes ++ r.regStarted.flatMap flagByte

def pupilBytes (p : Pupil) (slots : List (Option (Nat × Nat))) : List Byte :=
  numBytes 2 p.roll ++ optBytes 4 p.card ++ numBytes 1 p.cohort ++ numBytes 1 p.group ++ numBytes 1 p.grace
    ++ slots.flatMap (fun s => optBytes 2 (s.map (·.1)) ++ optBytes 4 (s.map (·.2)))
    ++ numBytes 1 p.latePoints ++ numBytes 2 p.lateMinutes ++ numBytes 1 p.unexplainedDays

def Contact.bytes (c : Contact) : List Byte :=
  numBytes 2 c.index ++ numBytes 4 c.key ++ flagByte c.mayExcuse ++ flagByte c.mayNotify ++ listBytes (numBytes 2) c.pupils

/-- A due point; NOT_DUE, or none, is point 0 with site 0 (R183). -/
def duePointBytes (q : Option DuePoint) : List Byte :=
  optBytes 1 (q.map (·.point)) ++ optBytes 1 (q.map (·.site))

/-- The prior state by its place in Table 4-1, which defines the field (R183); no other state is held there. -/
def priorCode : RosterState → Nat
  | .notDue => 1
  | .present => 2
  | .late => 3
  | .expected => 0
  | .excusedAway => 0
  | .provisional => 0
  | .unexplained => 0
  | .explained => 0
  | .out => 0

/-- A roster entry (Table 4-1). An absent excuse reference is sent as kind 0, which names no kind, and first day 0, without a byte
before it (DESIGN CHOICE, log 31). -/
def RosterEntry.bytes (e : RosterEntry) : List Byte :=
  numBytes 2 e.roll ++ duePointBytes e.due ++ numBytes 1 e.state.code ++ optBytes 1 (e.band.map (·.code))
    ++ optMarked 3 e.arrivalSecond ++ optMarked 3 e.returnSecond ++ optBytes 1 (e.signOut.map (·.code))
    ++ optBytes 1 (e.prior.map priorCode) ++ optBytes 2 e.absenceTag
    ++ optBytes 1 (e.excuseRef.map (·.kind.code)) ++ optBytes 2 (e.excuseRef.map (·.first))

def Sweep.bytes (w : Sweep) : List Byte :=
  numBytes 1 (pairCode (w.kind == .close)) ++ numBytes 1 w.point ++ numBytes 1 w.site ++ numBytes 2 w.cursor
    ++ numBytes 1 w.status.code

def SiteCounts.bytes (c : SiteCounts) : List Byte :=
  [c.due, c.expected, c.present, c.late, c.veryLate, c.provisional, c.unexplained, c.explained, c.excusedAway, c.out].flatMap
    (numBytes 2)

def DayCounts.bytes (c : DayCounts) : List Byte :=
  c.sites.flatMap SiteCounts.bytes ++ numBytes 2 c.notDue ++ numBytes 2 c.rosterSize

def excuseBytes (x : Excuse) (key : Nat) : List Byte :=
  let source := match x.source with
    | .desk => numBytes 1 1 ++ numBytes 2 0
    | .contact i => numBytes 1 2 ++ numBytes 2 i
  numBytes 2 x.pupil ++ numBytes 1 x.kind.code ++ numBytes 2 x.first ++ numBytes 2 x.last ++ numBytes 2 x.minute ++ source
    ++ numBytes 4 key ++ numBytes 1 x.state.code

def Fanout.bytes (f : Fanout) : List Byte :=
  numBytes 1 f.status.code ++ numBytes 2 f.bulletin ++ memberSetByte f.cohorts ++ memberSetByte f.sites
    ++ numBytes 2 f.cursor ++ numBytes 2 f.composed ++ numBytes 2 f.passedBy ++ numBytes 1 f.lastEnd.code

/-- A notice's parameters in the order of Table 7-1, those of other kinds 0. An ACK_PARENT's message roll number, which the table's
list does not name, stands between its intent and its first day, as in Table 11-7 (DESIGN CHOICE, log 31). -/
def NoticeBody.fieldBytes (b : NoticeBody) : List Byte :=
  let f : List (Nat × Nat) := match b with
    | .absentUnexplained => [(1, 0), (2, 0), (1, 0), (1, 0), (2, 0), (1, 0), (1, 0), (2, 0), (2, 0), (2, 0), (2, 0)]
    | .leftSite r => [(1, 0), (2, 0), (1, 0), (1, r.code), (2, 0), (1, 0), (1, 0), (2, 0), (2, 0), (2, 0), (2, 0)]
    | .arrivedAfterCall t => [(1, 0), (2, 0), (1, 0), (1, 0), (2, t), (1, 0), (1, 0), (2, 0), (2, 0), (2, 0), (2, 0)]
    | .lateRecorded b m => [(1, b.code), (2, m), (1, 0), (1, 0), (2, 0), (1, 0), (1, 0), (2, 0), (2, 0), (2, 0), (2, 0)]
    | .latePattern p b => [(1, b.code), (2, 0), (1, p), (1, 0), (2, 0), (1, 0), (1, 0), (2, 0), (2, 0), (2, 0), (2, 0)]
    | .ackParent c i r x y => [(1, 0), (2, 0), (1, 0), (1, 0), (2, 0), (1, c.code), (1, i), (2, r), (2, x), (2, y), (2, 0)]
    | .bulletin n => [(1, 0), (2, 0), (1, 0), (1, 0), (2, 0), (1, 0), (1, 0), (2, 0), (2, 0), (2, 0), (2, n)]
  f.flatMap fun e => numBytes e.1 e.2

/-- A kept outcome, optional by Table 7-1: absent 0, else its place there and in Table 11-7, with its reply code. -/
def keptBytes (o : Option NoticeOutcome) : List Byte :=
  match o with
  | none => numBytes 1 0 ++ numBytes 1 0
  | some .delivered => numBytes 1 1 ++ numBytes 1 0
  | some (.replied c) => numBytes 1 2 ++ numBytes 1 c
  | some .unreachable => numBytes 1 3 ++ numBytes 1 0

/-- The outcome of a desk call entry by its place in Table 7-5, NONE 1, with its reply code. -/
def callOutcomeBytes (o : Option NoticeOutcome) : List Byte :=
  match o with
  | none => numBytes 1 1 ++ numBytes 1 0
  | some .delivered => numBytes 1 2 ++ numBytes 1 0
  | some (.replied c) => numBytes 1 3 ++ numBytes 1 c
  | some .unreachable => numBytes 1 4 ++ numBytes 1 0

/-- A notice record (Table 7-1). That 0 is one of the deadline's values, so that a presence byte stands before it, is the model's: by R118
a notice leaves the table at 0 (DESIGN CHOICE, log 31). -/
def Notice.recordBytes (place : Place) (deadline : Option Nat) (n : Notice) : List Byte :=
  numBytes 2 n.tag ++ numBytes 1 n.body.code ++ numBytes 1 n.cls.code ++ numBytes 2 n.pupil ++ numBytes 2 n.contact
    ++ numBytes 4 n.key ++ numBytes 1 n.step ++ numBytes 2 n.subjectDay ++ n.body.fieldBytes ++ numBytes 3 n.composed
    ++ numBytes 2 n.age ++ numBytes 1 place.code ++ optMarked 2 deadline ++ keptBytes n.kept

/-- The width of a notice record, sent as 0 in a message entry. -/
def noticeRecordWidth : Nat := 43

/-- What a desk call entry holds: the notice, its outcome and SUPERSEDED, then the message fields (Table 7-5). -/
def CallContent.bytes : CallContent → List Byte
  | .notice n o sup =>
    n.recordBytes .calls none ++ callOutcomeBytes o ++ flagByte sup ++ numBytes 14 0 ++ numBytes 4 0
  | .message contact key roll intent dayCount minute number =>
    numBytes (noticeRecordWidth + 3) 0 ++ numBytes 2 contact ++ numBytes 4 key ++ numBytes 2 roll ++ numBytes 1 intent
      ++ numBytes 1 dayCount ++ numBytes 2 minute ++ numBytes 2 number ++ numBytes 4 0
  | .parentUnaware pupil tag =>
    numBytes (noticeRecordWidth + 3) 0 ++ numBytes 14 0 ++ numBytes 2 pupil ++ numBytes 2 tag

def CallEntry.bytes (e : CallEntry) : List Byte :=
  numBytes 2 e.number ++ numBytes 1 (pairCode e.isNotice) ++ numBytes 1 e.reason.code ++ numBytes 1 (pairCode e.urgent)
    ++ numBytes 3 e.second ++ numBytes 2 e.date ++ e.content.bytes

/-- Counts as QUERY_NOTICES gives them: the queue holds up to 256 URGENT notices, in two bytes, and 240 ROUTINE and 192 BULK, in
one each (R111, R183). -/
def NoticeCounts.bytes (c : NoticeCounts) : List Byte :=
  ([2, 1, 1].zip c.queue).flatMap (fun q => numBytes q.1 q.2) ++ numBytes 1 c.awaiting ++ c.ring.flatMap (numBytes 1) ++ numBytes 1 c.calls
    ++ numBytes 2 c.nextTag

def RelaySettings.bytes (s : RelaySettings) : List Byte :=
  numBytes 1 s.runLength ++ numBytes 1 s.threshold ++ numBytes 2 s.resyncTime ++ numBytes 1 s.attemptLimit
    ++ numBytes 1 s.silenceLimit ++ numBytes 2 s.autoRestart ++ numBytes 1 (pairCode s.autoStart)

/-- The reply to QUERY_LINK, in the order of R150. No table codes the lamp's level: it is sent as lit 1 and dark 2, in the order R149 names
the two (DESIGN CHOICE, log 31), and not as a flag. That 0 is one of the values of the time left to an auto-restart, so that a presence
byte stands before it, is the model's too (DESIGN CHOICE, log 31). -/
def LinkReply.bytes (r : LinkReply) : List Byte :=
  numBytes 1 r.link.code ++ numBytes 1 (pairCode r.lampAuto) ++ numBytes 1 (pairCode r.lampLit) ++ flagByte r.hold
    ++ numBytes 1 r.rewindCount ++ numBytes 1 r.clearCount ++ numBytes 1 r.attempts ++ flagByte r.start
    ++ flagByte r.rewindRun ++ flagByte r.rewind ++ flagByte r.replay ++ numBytes 1 r.readPos ++ numBytes 1 r.writePos
    ++ numBytes 1 r.occupancy ++ r.ring.flatMap (numBytes 1) ++ numBytes 1 r.sendSeq ++ numBytes 1 r.lastSeq
    ++ numBytes 1 r.lastPlace ++ numBytes 1 r.collected ++ optMarked 1 r.markHold ++ numBytes 1 r.held
    ++ optMarked 2 r.autoRestart

/-- A pattern entry, the fields its mode does not use sent as 0 (R183, Table 9-2). -/
def Pattern.bytes (p : Pattern) : List Byte :=
  let f : Nat × Nat × Nat × Nat × Nat := match p.mode with
    | .ring => (p.n, 0, 0, 0, 0)
    | .pulse => (0, p.p, p.k, p.r, 0)
    | .warble => (0, p.p, 0, 0, p.d)
    | .chirp => (p.n, 0, 0, 0, 0)
  numBytes 1 p.mode.code ++ numBytes 2 f.1 ++ numBytes 1 f.2.1 ++ numBytes 1 f.2.2.1 ++ numBytes 1 f.2.2.2.1
    ++ numBytes 2 f.2.2.2.2

def RouteEntry.bytes (e : RouteEntry) : List Byte :=
  numBytes 1 (e.source.getD 0 + 1) ++ flagByte e.quietEligible ++ numBytes 1 (if e.steadyFault then 2 else 1)

def zoneSetBytes (z : ZoneSet) : List Byte := numBytes 3 z.toNat

/-- A generator in the reply to QUERY_SOUNDER. The elapsed unit and the length, which Table 9-3 gives only while RUNNING, are sent in
full width without a presence byte, as 0 while IDLE: the state before them says that they are absent (DESIGN CHOICE, log 31). -/
def GeneratorReply.bytes (g : GeneratorReply) : List Byte :=
  numBytes 1 (pairCode g.number.isNone) ++ optBytes 1 g.number ++ optBytes 1 (g.mode.map (·.code)) ++ numBytes 2 g.elapsed
    ++ numBytes 2 g.length ++ numBytes 1 g.output.code ++ optBytes 1 g.waiting

/-- The reply to QUERY_SOUNDER. The alert input and PA key levels, which no table codes, are sent as flags, 1 active or held (DESIGN
CHOICE, log 31). -/
def SounderReply.bytes (r : SounderReply) : List Byte :=
  r.generators.flatMap GeneratorReply.bytes ++ numBytes 1 (pairCode r.alert.isNone) ++ zoneSetBytes (r.alert.getD 0)
    ++ flagByte r.alertLevel ++ zoneSetBytes r.alertInputZones ++ zoneSetBytes r.paRequest ++ flagByte r.paKeyHeld
    ++ zoneSetBytes r.paKeyZones ++ numBytes 1 r.active.code

/-- A zone's own fields in the reply to QUERY_ZONES; its yes and no fields go as zone sets. -/
def ZoneReply.bytes (r : ZoneReply) : List Byte :=
  r.route.bytes ++ numBytes 1 r.demand.code ++ numBytes 1 r.level.code ++ numBytes 1 (pairCode (!r.fault)) ++ numBytes 1 r.bad
    ++ numBytes 1 r.good

/-- The reply to QUERY_ZONES. Field by field 24 zones take more than 256 bytes, so what is yes or no of each zone is sent as a zone
set, QUIET, in ALERT, in PA, engaged and supervised, before the zones (DESIGN CHOICE, log 31). -/
def zonesBytes (l : List ZoneReply) : List Byte :=
  [l.map (·.quiet), l.map (·.inAlert), l.map (·.inPa), l.map (·.engaged), l.map (·.supervised)].flatMap
    (fun set => numBytes 3 (flagSet set)) ++ l.flatMap ZoneReply.bytes

/-- The flags QUERY_PLAN reports: for each site the entries fired and the entries passed, each a set of the positions 1..32 in four
bytes, since a byte for each flag would pass 256 bytes; nothing for another copy, nor for a copy of today's plan that holds no entry
(DESIGN CHOICE, log 31). -/
def planFlagBytes (flags : List (SiteSet × SiteSet)) : List Byte :=
  if flags.isEmpty then []
  else [0, 1, 2].flatMap fun s =>
    numBytes 4 (flagSet (flags.map fun f => f.1.getLsbD s)) ++ numBytes 4 (flagSet (flags.map fun f => f.2.getLsbD s))

def StationReply.bytes (r : StationReply) : List Byte :=
  flagByte r.enabled ++ numBytes 1 r.site ++ numBytes 1 r.state.code ++ numBytes 1 r.misses ++ optMarked 1 r.lastAccepted
    ++ numBytes 1 r.stored ++ numBytes 1 r.owed ++ numBytes 2 r.missedTotal ++ numBytes 2 r.repeatTotal

def JournalRecord.bytes (r : JournalRecord) : List Byte :=
  numBytes 4 r.serial ++ numBytes 2 r.date ++ numBytes 3 r.second ++ numBytes 1 r.station ++ numBytes 2 r.roll
    ++ numBytes 4 r.card ++ numBytes 1 r.direction.code ++ optBytes 1 (r.signOut.map (·.code)) ++ numBytes 1 r.verdict.code
    ++ numBytes 2 r.lateness ++ numBytes 1 (r.wrongSite.toNat + 2 * r.excuseOverridden.toNat + 4 * r.keyed.toNat)

def StatusReply.bytes (r : StatusReply) : List Byte :=
  numBytes 2 r.causes.toNat ++ zoneSetBytes r.zones ++ memberSetByte r.stations ++ numBytes 1 r.validity.code
    ++ numBytes 1 r.discipline.code ++ rolloverBytes r.rollover ++ numBytes 1 r.link.code
    ++ numBytes 1 (pairCode (!r.alertActive)) ++ numBytes 1 r.calls ++ numBytes 2 r.unread ++ numBytes 2 r.lost
    ++ zoneSetBytes r.faults ++ r.states.flatMap (fun st => numBytes 1 st.code)

/-- A reply body's bytes, the fields in the order the request's rule gives them (R183). -/
def ReplyBody.bytes : ReplyBody → List Byte
  | .empty => []
  | .time t => t.bytes
  | .exceptions l => listBytes CalException.bytes l
  | .calendar rules weekdays length =>
    rules.flatMap CalRule.bytes ++ weekdays.flatMap (fun c => numBytes 1 c.code) ++ numBytes 1 length
  | .plan entries pending flags =>
    listBytes PlanEntry.bytes entries ++ flagByte pending ++ planFlagBytes flags
  | .day r => r.bytes
  | .pupil p slots count => pupilBytes p slots ++ numBytes 2 count
  | .rollNumber roll => numBytes 2 roll
  | .contactIndex index => numBytes 2 index
  | .contact c => numBytes 2 c.index ++ flagByte c.mayExcuse ++ flagByte c.mayNotify ++ listBytes (numBytes 2) c.pupils
  | .contacts l held => fittedBytes Contact.bytes 2 l ++ numBytes 2 held
  | .group entries => entries.flatMap duePointBytes
  | .recordCount count => numBytes 2 count
  | .mark before after => numBytes 1 before.code ++ numBytes 1 after.code
  | .roster entries next => listBytes RosterEntry.bytes entries ++ numBytes 2 next
  | .sweeps l => listBytes Sweep.bytes l
  | .snapshotSecond second => numBytes 3 second
  | .counts c second => c.bytes ++ optMarked 3 second
  | .lateStep n => numBytes 1 n
  | .excuseAdded first last count result => numBytes 2 first ++ numBytes 2 last ++ numBytes 2 count ++ numBytes 1 result.code
  | .excuseRemoved first last => numBytes 2 first ++ numBytes 2 last
  | .excuses l count => listBytes (fun e => excuseBytes e.1 e.2) l ++ numBytes 2 count
  | .fanout f => f.bytes
  | .callClosed isNotice reason => numBytes 1 (pairCode isNotice) ++ numBytes 1 reason.code
  | .calls l held => fittedBytes CallEntry.bytes 1 l ++ numBytes 1 held
  | .notice n place call deadline => n.recordBytes place deadline ++ optBytes 2 call
  | .noticeClosed roll reason => numBytes 2 roll ++ numBytes 1 Place.closed.code ++ numBytes 1 reason.code
  | .notices place l c => fittedBytes (fun e => Notice.recordBytes place e.2 e.1) c.bytes.length l ++ c.bytes
  | .noticeTimes timeout delay => numBytes 1 timeout ++ numBytes 1 delay
  | .relaySettings s => s.bytes
  | .link r => r.bytes
  | .pattern p => p.bytes
  | .route entries active => entries.flatMap RouteEntry.bytes ++ numBytes 1 active.code
  | .sounder r => r.bytes
  | .zones l => zonesBytes l
  | .stations round suspended l => numBytes 1 round ++ flagByte suspended ++ l.flatMap StationReply.bytes
  | .journal l unread lost => listBytes JournalRecord.bytes l ++ numBytes 2 unread ++ numBytes 2 lost
  | .status r => r.bytes

/-- A reply frame: sync byte 166, tag, code, result, flags, length, body and check (Table 11-5). -/
def Reply.bytes (r : Reply) : List Byte :=
  let body := r.answer.body.bytes
  numBytes 1 166 ++ checkedBytes
    (numBytes 2 r.tag ++ numBytes 1 r.code ++ numBytes 1 r.answer.result.code ++ numBytes 1 r.answer.flags.code
      ++ numBytes 2 body.length ++ body)

/-! ### Output pins (Table 11-10) -/

/-- ATTN: the attention line, asserted by a low level (R179, Table 11-10); none while main power is off. -/
def Device.attnLow (d : Device) : Bool := d.mainPower && d.op.attention

/-- CALL_LAMP (R125). -/
def Device.callLampPin (d : Device) : Bool := d.mainPower && d.callLamp

/-- LINK_LAMP (R149). -/
def Device.linkLampPin (d : Device) : Bool := d.mainPower && d.rl.lampLit

/-- ZONE_DRV of zone z: high while its line is not SILENT (Table 11-10). -/
def Device.zoneDrive (d : Device) (z : Nat) : Bool := d.mainPower && d.lineLevel z != .silent

/-- ZONE_SELA of zone z: high for TONE_A and PA (Table 11-10). -/
def Device.zoneSelA (d : Device) (z : Nat) : Bool := d.lineLevel z == .toneA || d.lineLevel z == .pa

/-- ZONE_SELB of zone z: high for TONE_B and PA (Table 11-10). -/
def Device.zoneSelB (d : Device) (z : Nat) : Bool := d.lineLevel z == .toneB || d.lineLevel z == .pa

/-- The office port's baud rate, from the strap read at power-up (section 11). -/
def Device.officeBaud (d : Device) : Nat := if d.fastBaud then 115200 else 19200

end Sys2Proof.Machine
end

