-- ==== Sys2Proof/Machine/Frames.lean ====
section
/-! DEFINITION. What comes in: the command that the bytes of an office request, a relay frame or a station reply bring (R130,
R169, R176, R177, R183), one frame's bytes after its sync byte; and the commands that a run of bytes on each of the three lines
brings, from the hunt for the sync byte on (R130, R169, R176). -/
namespace Sys2Proof.Machine

/-! ### Reading fields -/

/-- Reads fields of the widths given; the bytes must hold them all (R183). -/
def readFields : List Nat → List Byte → Option (List Nat × List Byte)
  | [], l => some ([], l)
  | w :: ws, l =>
    if l.length < w then none
    else (readFields ws (l.drop w)).map fun r => (bigEndian (l.take w) :: r.1, r.2)

/-- A body of exactly these fields. -/
def readBody (ws : List Nat) (l : List Byte) : Option (List Nat) :=
  match readFields ws l with
  | some (fields, []) => some fields
  | _ => none

/-- Reads n members of the widths given, with nothing after the last. -/
def readMembers (ws : List Nat) : Nat → List Byte → Option (List (List Nat))
  | 0, [] => some []
  | 0, _ :: _ => none
  | n + 1, l =>
    match readFields ws l with
    | none => none
    | some (m, rest) => (readMembers ws n rest).map (m :: ·)

/-- A body of some fields and then a counted list: a one-byte count and its members (R183). -/
def readList (ws member : List Nat) (l : List Byte) : Option (List Nat × List (List Nat)) :=
  match readFields (ws ++ [1]) l with
  | none => none
  | some (fields, rest) => (readMembers member (fields.getLastD 0) rest).map fun ms => (fields.dropLast, ms)

/-- An optional number: 0 is absent (R183). -/
def optField (n : Nat) : Option Nat := if n = 0 then none else some n

/-- A one-byte number in two's complement (R183). -/
def signedByte (n : Nat) : Int := if n < 128 then n else (n : Int) - 256

/-! ### Office requests (Table 11-2, Table 11-5) -/

/-- A zone set of three bytes (R183). -/
def zoneField (n : Nat) : ZoneSet := BitVec.ofNat 24 n

/-- Requests that carry no fields. -/
def bareRequest (code tag : Nat) : Option Instr :=
  match code with
  | 2 => some (.queryTime tag)
  | 11 => some (.queryCalendar tag)
  | 17 => some (.queryDay tag)
  | 31 => some (.querySweeps tag)
  | 32 => some (.snapshot tag)
  | 33 => some (.queryCounts tag)
  | 35 => some (.queryLateStep tag)
  | 40 => some (.stopBulletin tag)
  | 41 => some (.queryFanout tag)
  | 47 => some (.queryNoticeTimes tag)
  | 48 => some (.relayStart tag)
  | 49 => some (.relayStop tag)
  | 51 => some (.queryRelayLink tag)
  | 52 => some (.queryLink tag)
  | 59 => some (.swapBank tag)
  | 62 => some (.alertStop tag)
  | 65 => some (.paStop tag)
  | 68 => some (.querySounder tag)
  | 69 => some (.queryZones tag)
  | 71 => some (.queryStations tag)
  | 73 => some (.status tag)
  | 75 => some (.reset tag)
  | _ => none

/-- The widths of a request of a fixed number of fields (R183). A set of sites, stations or cohorts is one byte, the fewest that hold
its members (DESIGN CHOICE, log 31: R183 says only that it is sent in the same way as a zone set). -/
def requestWidths (code : Nat) : List Nat :=
  match code with
  | 1 => [2, 3, 1]
  | 3 => [1]
  | 4 => [1]
  | 5 => [1]
  | 6 => [2, 1, 1]
  | 7 => [2]
  | 8 => [2]
  | 9 => [1, 1, 1, 1]
  | 10 => [1, 1]
  | 13 => [1, 1]
  | 14 => [1, 1, 1, 1, 1]
  | 15 => [1, 1]
  | 16 => [1]
  | 18 => [2, 4, 1, 1, 1, 4, 4, 4]
  | 19 => [2]
  | 20 => [2]
  | 21 => [4]
  | 23 => [4]
  | 24 => [4]
  | 25 => [4]
  | 27 => [1]
  | 28 => [2, 1]
  | 29 => [2, 1]
  | 30 => [2, 2]
  | 34 => [1]
  | 36 => [2, 1, 2, 2, 2]
  | 37 => [2, 1, 2]
  | 38 => [2, 2]
  | 39 => [2, 1, 1]
  | 42 => [2]
  | 43 => [1]
  | 44 => [2]
  | 45 => [1, 2]
  | 46 => [1, 1]
  | 50 => [1, 1, 2, 1, 1, 2, 1]
  | 53 => [1]
  | 54 => [1]
  | 55 => [1, 1, 2, 1, 1, 1, 2]
  | 56 => [1]
  | 58 => [1]
  | 60 => [3]
  | 61 => [3]
  | 63 => [3]
  | 64 => [3]
  | 66 => [3]
  | 67 => [3]
  | 70 => [1, 1, 1]
  | 72 => [4]
  | 74 => [2]
  | _ => []

/-- The request of a fixed number of fields, from its fields. -/
def fixedRequest (code tag : Nat) (fields : List Nat) : Option Instr :=
  match code, fields with
  | 1, [day, second, tick] => some (.setTime tag day second tick)
  | 3, [setting] => some (.setDiscipline tag setting)
  | 4, [length] => some (.setCycleLength tag length)
  | 5, [day] => some (.setCycleDay tag day)
  | 6, [date, outcome, start] => some (.loadException tag date outcome start)
  | 7, [date] => some (.dropException tag date)
  | 8, [date] => some (.queryExceptions tag date)
  | 9, [number, weekdays, cycleDay, outcome] => some (.loadRule tag number weekdays cycleDay outcome)
  | 10, [weekday, outcome] => some (.loadWeekday tag weekday outcome)
  | 13, [plan, copy] => some (.queryPlan tag plan copy)
  | 14, [site, offset, grace, delay, each] => some (.setSite tag site (signedByte offset) grace delay each)
  | 15, [site, minutes] => some (.setShift tag site minutes)
  | 16, [plan] => some (.selectToday tag plan)
  | 18, [roll, card, cohort, group, grace, s1, s2, s3] =>
    some (.loadPupil tag roll (optField card) cohort group grace [optField s1, optField s2, optField s3])
  | 19, [roll] => some (.dropPupil tag roll)
  | 20, [roll] => some (.queryPupil tag roll)
  | 21, [card] => some (.queryCard tag card)
  | 23, [key] => some (.dropContact tag key)
  | 24, [key] => some (.queryContact tag key)
  | 25, [key] => some (.queryContacts tag key)
  | 27, [group] => some (.queryGroup tag group)
  | 28, [roll, choice] => some (.clearTallies tag roll choice)
  | 29, [roll, mark] => some (.deskMark tag roll mark)
  | 30, [roll, states] => some (.queryRoster tag roll states)
  | 34, [n] => some (.setLateStep tag n)
  | 36, [roll, kind, first, last, minute] => some (.addExcuse tag roll kind first last minute)
  | 37, [roll, kind, day] => some (.removeExcuse tag roll kind day)
  | 38, [day, roll] => some (.queryExcuses tag day roll)
  | 39, [number, cohorts, sites] => some (.composeBulletin tag number cohorts sites)
  | 42, [number] => some (.closeCall tag number)
  | 43, [position] => some (.queryCalls tag position)
  | 44, [notice] => some (.queryNotice tag notice)
  | 45, [place, position] => some (.queryNotices tag place position)
  | 46, [timeout, delay] => some (.setNoticeTimes tag timeout delay)
  | 50, [run, threshold, time, attempts, silence, delay, start] =>
    some (.setRelayLink tag run threshold time attempts silence delay start)
  | 53, [mode] => some (.linkLampMode tag mode)
  | 54, [level] => some (.lamp tag level)
  | 55, [number, mode, n, p, k, r, d] => some (.loadPattern tag number mode n p k r d)
  | 56, [number] => some (.queryPattern tag number)
  | 58, [bank] => some (.queryRoute tag bank)
  | 60, [zones] => some (.setQuiet tag (zoneField zones))
  | 61, [zones] => some (.alertStart tag (zoneField zones))
  | 63, [zones] => some (.setAlertInput tag (zoneField zones))
  | 64, [zones] => some (.paStart tag (zoneField zones))
  | 66, [zones] => some (.setPaKey tag (zoneField zones))
  | 67, [zones] => some (.setSupervision tag (zoneField zones))
  | 70, [address, enabled, site] => some (.setStation tag address enabled site)
  | 72, [serial] => some (.readJournal tag serial)
  | 74, [causes] => some (.setAttentionMask tag causes)
  | _, _ => none

/-- A plan entry's fields (Table 2-1). -/
def planFields : List Nat → Option PlanEntryOp
  | [minute, mask, action, generator, pattern, point] => some ⟨minute, mask, action, generator, pattern, point⟩
  | _ => none

/-- A route entry's fields in the order zone number, source, quiet-eligible flag, fault level, the zone first (DESIGN CHOICE, log 31:
R156 and R183 do not place it). -/
def routeFields : List Nat → Option RouteEntryOp
  | [zone, source, quiet, level] => some ⟨zone, source, quiet, level⟩
  | _ => none

/-- A start group entry's fields (R183). -/
def groupFields : List Nat → Option GroupEntryOp
  | [point, site] => some ⟨point, site⟩
  | _ => none

/-- A one-field member. -/
def oneField : List Nat → Option Nat
  | [n] => some n
  | _ => none

/-- The requests that carry lists. -/
def listRequest (code tag : Nat) (body : List Byte) : Option Instr :=
  match code with
  | 12 =>
    match readList [1] [2, 1, 1, 1, 1, 1] body with
    | some ([plan], l) => (decodeAll planFields l).map (Instr.loadPlan tag plan)
    | _ => none
  | 22 =>
    match readList [4, 1, 1] [2] body with
    | some ([key, excuse, notify], l) => (decodeAll oneField l).map (Instr.loadContact tag key excuse notify)
    | _ => none
  | 26 =>
    match body with
    | [] => none
    | group :: rest =>
      match readMembers [1, 1] 10 rest with
      | none => none
      | some l => (decodeAll groupFields l).map (Instr.loadGroup tag group.toNat)
  | 57 =>
    match readList [1] [1, 1, 1, 1] body with
    | some ([bank], l) => (decodeAll routeFields l).map (Instr.loadRoute tag bank)
    | _ => none
  | _ => none

/-- The request a code and a body make; none where the body's length does not suit it (R177). -/
def requestOf (code tag : Nat) (body : List Byte) : Option Instr :=
  match bareRequest code tag with
  | some i => if body.isEmpty then some i else none
  | none =>
    match readBody (requestWidths code) body with
    | some fields =>
      match fixedRequest code tag fields with
      | some i => some i
      | none => listRequest code tag body
    | none => listRequest code tag body

/-- Whether the last two of some bytes are the check of the rest (R129). -/
def checkAgrees (l : List Byte) : Bool :=
  2 ≤ l.length && l == checkedBytes (l.take (l.length - 2))

/-- The command a whole office request frame brings, its bytes after the sync byte (R176, R177). -/
def officeCommand (l : List Byte) : Instr :=
  match readFields [2, 1, 2] l with
  | some ([tag, code, length], rest) =>
    if 256 < length ∨ rest.length ≠ length + 2 ∨ !checkAgrees l then .officeBadFrame
    else if code = 0 ∨ 75 < code then .unknownRequest tag code
    else (requestOf code tag (rest.take length)).getD (.wrongBodyLength tag code)
  | _ => .officeBadFrame

/-! ### Hunting for the sync byte -/

/-- The frames of a line's receiver in some bytes that came without a pause between them. The receiver passes over bytes until its
sync byte. A length above the line's limit makes the frame bad at once, and the hunt goes on with the very next byte; otherwise the
frame is whole with its body and check, and the hunt goes on behind it. Bytes that end within a frame are followed by the pause that
makes it bad (R130, R169, R176). One try for each byte is enough. -/
def receiveFrames (sync : Byte) (widths : List Nat) (limit : Nat) (bad late : Instr) (whole : List Byte → Instr) :
    Nat → List Byte → List Instr
  | 0, _ => []
  | fuel + 1, bytes =>
    match bytes.dropWhile (· != sync) with
    | [] => []
    | _ :: frame =>
      match readFields widths frame with
      | none => [late]
      | some (fields, rest) =>
        let length := fields.getLastD 0
        if limit < length then bad :: receiveFrames sync widths limit bad late whole fuel rest
        else if rest.length < length + 2 then [late]
        else whole (frame.take (widths.sum + length + 2)) ::
          receiveFrames sync widths limit bad late whole fuel (rest.drop (length + 2))

/-- The commands that bytes of the office line bring, each within 50 ms of the one before, with a pause after the last: request
sync byte 165, then tag, request code and length (R176, Table 11-5). -/
def officeStream (bytes : List Byte) : List Instr :=
  receiveFrames 165#8 [2, 1, 2] 256 .officeBadFrame .officeByteTimeout officeCommand bytes.length bytes

/-! ### Relay frames -/

/-- The command a whole relay frame brings, its bytes after the sync byte (R130). A MSG's own tests are made by its meaning. -/
def relayCommand (l : List Byte) : Instr :=
  match readFields [1, 1, 1, 1, 1] l with
  | some ([kind, seq, place, mark, length], rest) =>
    if 48 < length ∨ rest.length ≠ length + 2 ∨ !checkAgrees l then .rxBadFrame
    else if kind = 2 then .rxMsg seq place mark (rest.take length)
    else if length ≠ 0 then .rxBadFrame
    else if kind = 3 then .rxMark mark
    else if kind = 4 then .rxResync place mark
    else if kind = 5 then .rxStart
    else if kind = 6 then .rxIdle mark
    else .rxBadFrame
  | _ => .rxBadFrame

/-- The commands that bytes of the relay line bring, each within 20 ms of the one before, with a pause after the last: sync byte
90, then kind, seq, place, mark and length (R130, Table 11-6). -/
def relayStream (bytes : List Byte) : List Instr :=
  receiveFrames 90#8 [1, 1, 1, 1, 1] 48 .rxBadFrame .relayByteTimeout relayCommand bytes.length bytes

/-! ### Station replies -/

/-- An arrival record's fields (Table 11-8). -/
def gateFields : List Nat → Option GateRecord
  | [seq, kind, number, direction, reason] => some ⟨seq, kind, number, direction, reason⟩
  | _ => none

/-- The command a whole frame after a poll brings, its bytes after the sync byte (R169, Table 11-8). R169's tests do not name the frame
kind: one other than REPLY 3 is taken as a bad length is, and so makes the reply a missed one (DESIGN CHOICE, log 49). -/
def gateCommand (l : List Byte) : Instr :=
  match readFields [1, 1, 1] l with
  | some ([address, kind, length], rest) =>
    match readList [1] [1, 1, 4, 1, 1] (rest.take length) with
    | some ([fresh], ms) =>
      .gateReply (checkAgrees l) (kind == 3 && rest.length == length + 2) address fresh ((decodeAll gateFields ms).getD [])
    | _ => .gateReply (checkAgrees l) false address 0 []
  | _ => .gateReply false false 0 0 []

/-- The commands that bytes of the gate bus bring after a poll, each within 20 ms of the one before, with a pause after the last: sync
byte 195, then address, kind and length (R169, Table 11-8). A reply that breaks off is a missed one; bytes without a sync byte are no
reply. That the receiver hunts for the sync byte as those of the other lines do is the model's (DESIGN CHOICE, log 49). -/
def gateStream (bytes : List Byte) : List Instr :=
  receiveFrames 195#8 [1, 1, 1] 255 .gateReplyTimeout .gateReplyTimeout gateCommand bytes.length bytes

end Sys2Proof.Machine
end

