-- ==== Sys2Proof/WellFormed.lean ====
section
/-! DEFINITION. Which commands can be sent: every field in the width its frame gives it (R183), lists of the length their
rule fixes, and part numbers that exist. A value a frame can carry but a rule refuses is well-formed: refusing it is the
command's meaning. -/
namespace Sys2Proof

/-- A field of one byte. -/
def fitsByte (n : Nat) : Bool := decide (n < 256)
/-- A field of two bytes. -/
def fitsWord (n : Nat) : Bool := decide (n < 65536)
/-- A field of three bytes. -/
def fitsTriple (n : Nat) : Bool := decide (n < 16777216)
/-- A field of four bytes. -/
def fitsLong (n : Nat) : Bool := decide (n < 4294967296)
/-- A field of one byte in two's complement. -/
def fitsSigned (n : Int) : Bool := decide (-128 ≤ n ∧ n ≤ 127)
/-- A number of a range that begins at 1. -/
def inRange1 (limit n : Nat) : Bool := decide (1 ≤ n ∧ n ≤ limit)
/-- An optional field of four bytes; absence is sent as 0, so a present one is not 0. -/
def fitsOptLong : Option Nat → Bool
  | none => true
  | some n => decide (0 < n) && fitsLong n

/-- A plan entry (Table 2-1). -/
def PlanEntryOp.wf (e : PlanEntryOp) : Bool :=
  fitsWord e.minute && fitsByte e.siteMask && fitsByte e.action && fitsByte e.generator && fitsByte e.pattern && fitsByte e.point

/-- A route entry with its zone number (Table 9-5). -/
def RouteEntryOp.wf (e : RouteEntryOp) : Bool := fitsByte e.zone && fitsByte e.source && fitsByte e.quietEligible && fitsByte e.faultLevel

/-- A start group entry (R183). -/
def GroupEntryOp.wf (e : GroupEntryOp) : Bool := fitsByte e.point && fitsByte e.site

/-- A record of a station reply (Table 11-8). -/
def GateRecord.wf (r : GateRecord) : Bool :=
  fitsByte r.seq && fitsByte r.presentedAs && fitsLong r.number && fitsByte r.direction && fitsByte r.reason

/-- Whether a command can be sent. -/
def Instr.wf : Instr → Bool
  | .setTime tag day second tick => fitsWord tag && fitsWord day && fitsTriple second && fitsByte tick
  | .queryTime tag => fitsWord tag
  | .setDiscipline tag setting => fitsWord tag && fitsByte setting
  | .setCycleLength tag length => fitsWord tag && fitsByte length
  | .setCycleDay tag day => fitsWord tag && fitsByte day
  | .loadException tag date outcome termStart => fitsWord tag && fitsWord date && fitsByte outcome && fitsByte termStart
  | .dropException tag date => fitsWord tag && fitsWord date
  | .queryExceptions tag date => fitsWord tag && fitsWord date
  | .loadRule tag number weekdays cycleDay outcome =>
    fitsWord tag && fitsByte number && fitsByte weekdays && fitsByte cycleDay && fitsByte outcome
  | .loadWeekday tag weekday outcome => fitsWord tag && fitsByte weekday && fitsByte outcome
  | .queryCalendar tag => fitsWord tag
  | .loadPlan tag plan entries => fitsWord tag && fitsByte plan && fitsByte entries.length && entries.all PlanEntryOp.wf
  | .queryPlan tag plan copy => fitsWord tag && fitsByte plan && fitsByte copy
  | .setSite tag site offset grace confirmDelay each =>
    fitsWord tag && fitsByte site && fitsSigned offset && fitsByte grace && fitsByte confirmDelay && fitsByte each
  | .setShift tag site minutes => fitsWord tag && fitsByte site && fitsByte minutes
  | .selectToday tag plan => fitsWord tag && fitsByte plan
  | .queryDay tag => fitsWord tag
  | .loadPupil tag roll card cohort group grace slots =>
    fitsWord tag && fitsWord roll && fitsOptLong card && fitsByte cohort && fitsByte group && fitsByte grace
      && slots.length == 3 && slots.all fitsOptLong
  | .dropPupil tag roll => fitsWord tag && fitsWord roll
  | .queryPupil tag roll => fitsWord tag && fitsWord roll
  | .queryCard tag card => fitsWord tag && fitsLong card
  | .loadContact tag key mayExcuse mayNotify pupils =>
    fitsWord tag && fitsLong key && fitsByte mayExcuse && fitsByte mayNotify && fitsByte pupils.length && pupils.all fitsWord
  | .dropContact tag key => fitsWord tag && fitsLong key
  | .queryContact tag key => fitsWord tag && fitsLong key
  | .queryContacts tag key => fitsWord tag && fitsLong key
  | .loadGroup tag group entries => fitsWord tag && fitsByte group && entries.length == 10 && entries.all GroupEntryOp.wf
  | .queryGroup tag group => fitsWord tag && fitsByte group
  | .clearTallies tag roll choice => fitsWord tag && fitsWord roll && fitsByte choice
  | .deskMark tag roll mark => fitsWord tag && fitsWord roll && fitsByte mark
  | .queryRoster tag roll states => fitsWord tag && fitsWord roll && fitsWord states
  | .querySweeps tag => fitsWord tag
  | .snapshot tag => fitsWord tag
  | .queryCounts tag => fitsWord tag
  | .setLateStep tag step => fitsWord tag && fitsByte step
  | .queryLateStep tag => fitsWord tag
  | .addExcuse tag roll kind first last minute =>
    fitsWord tag && fitsWord roll && fitsByte kind && fitsWord first && fitsWord last && fitsWord minute
  | .removeExcuse tag roll kind day => fitsWord tag && fitsWord roll && fitsByte kind && fitsWord day
  | .queryExcuses tag day roll => fitsWord tag && fitsWord day && fitsWord roll
  | .composeBulletin tag number cohorts sites => fitsWord tag && fitsWord number && fitsByte cohorts && fitsByte sites
  | .stopBulletin tag => fitsWord tag
  | .queryFanout tag => fitsWord tag
  | .closeCall tag number => fitsWord tag && fitsWord number
  | .queryCalls tag position => fitsWord tag && fitsByte position
  | .queryNotice tag notice => fitsWord tag && fitsWord notice
  | .queryNotices tag place position => fitsWord tag && fitsByte place && fitsWord position
  | .setNoticeTimes tag timeout delay => fitsWord tag && fitsByte timeout && fitsByte delay
  | .queryNoticeTimes tag => fitsWord tag
  | .relayStart tag => fitsWord tag
  | .relayStop tag => fitsWord tag
  | .setRelayLink tag runLength threshold resyncTime attemptLimit silenceLimit delay autoStart =>
    fitsWord tag && fitsByte runLength && fitsByte threshold && fitsWord resyncTime && fitsByte attemptLimit
      && fitsByte silenceLimit && fitsWord delay && fitsByte autoStart
  | .queryRelayLink tag => fitsWord tag
  | .queryLink tag => fitsWord tag
  | .linkLampMode tag mode => fitsWord tag && fitsByte mode
  | .lamp tag level => fitsWord tag && fitsByte level
  | .loadPattern tag number mode n p k r d =>
    fitsWord tag && fitsByte number && fitsByte mode && fitsWord n && fitsByte p && fitsByte k && fitsByte r && fitsWord d
  | .queryPattern tag number => fitsWord tag && fitsByte number
  | .loadRoute tag bank entries => fitsWord tag && fitsByte bank && fitsByte entries.length && entries.all RouteEntryOp.wf
  | .queryRoute tag bank => fitsWord tag && fitsByte bank
  | .swapBank tag => fitsWord tag
  | .setQuiet tag _ => fitsWord tag
  | .alertStart tag _ => fitsWord tag
  | .alertStop tag => fitsWord tag
  | .setAlertInput tag _ => fitsWord tag
  | .paStart tag _ => fitsWord tag
  | .paStop tag => fitsWord tag
  | .setPaKey tag _ => fitsWord tag
  | .setSupervision tag _ => fitsWord tag
  | .querySounder tag => fitsWord tag
  | .queryZones tag => fitsWord tag
  | .setStation tag address enabled site => fitsWord tag && fitsByte address && fitsByte enabled && fitsByte site
  | .queryStations tag => fitsWord tag
  | .readJournal tag serial => fitsWord tag && fitsLong serial
  | .status tag => fitsWord tag
  | .setAttentionMask tag causes => fitsWord tag && fitsWord causes
  | .reset tag => fitsWord tag
  | .unknownRequest tag code => fitsWord tag && fitsByte code && !inRange1 75 code
  | .overrun => true
  | .officeBadFrame => true
  | .officeByteTimeout => true
  | .replyComplete => true
  | .warmReset => true
  | .powerUp _ => true
  | .retentionLoss _ => true
  | .mainPowerLoss => true
  | .oscillatorTick _ => true
  | .masterMark => true
  | .markSilenceExpiry => true
  | .rolloverStep => true
  | .closeSweepStep point site => inRange1 4 point && decide (site ≤ 2)
  | .confirmSweepStep point site => inRange1 4 point && decide (site ≤ 2)
  | .gateRoundStart => true
  | .poll => true
  | .gateReply _ _ address fresh records => fitsByte address && fitsByte fresh && fitsByte records.length && records.all GateRecord.wf
  | .gateReplyTimeout => true
  | .arrivalRecord => true
  | .outcomeTimeout notice => fitsWord notice
  | .relayDownFallback notice => fitsWord notice
  | .fanoutStep => true
  | .rxMsg seq place mark body => fitsByte seq && fitsByte place && fitsByte mark && decide (body.length ≤ 48)
  | .rxMark mark => fitsByte mark
  | .rxIdle mark => fitsByte mark
  | .rxResync flag mark => fitsByte flag && fitsByte mark
  | .rxStart => true
  | .rxBadFrame => true
  | .relayByteTimeout => true
  | .txLineFree => true
  | .startTimer => true
  | .markDue => true
  | .idleDue => true
  | .silenceTimeout => true
  | .resyncTimeout => true
  | .autoRestart => true
  | .generatorUnit generator => inRange1 4 generator
  | .alertWarbleUnit => true
  | .alertInput _ => true
  | .paKey _ => true
  | .idleCheck zone => inRange1 24 zone
  | .wrongBodyLength tag code => fitsWord tag && inRange1 75 code

end Sys2Proof
end

