-- ==== Sys2Proof/Safety.lean ====
section
/-! DEFINITION. The words the statements are made of: when a request is taken, how it is answered, which commands are requests,
and the ranges and limits the manual gives the machine as laws. -/
namespace Sys2Proof.Machine

/-! ### Requests -/

/-- The office port can take a request: main power is on and no request is in hand (R177). -/
abbrev Ready (s : State) : Prop := s.dev.mainPower = true ∧ s.dev.op.inHand = none

/-- Ready, and no rollover is ACTIVE (R17). -/
abbrev Steady (s : State) : Prop := Ready s ∧ s.dev.tb.rollover = none

/-- Main power is on (section 1.6). -/
abbrev Powered (s : State) : Prop := s.dev.mainPower = true

/-- The request is answered: the device is as given, with the reply in hand. -/
def answers (s : State) (tag code : Nat) (a : Answer) (d : Device) : Host.Outcome State Fault Refusal :=
  .next { s with dev := { d with op.inHand := some ⟨tag, code, a⟩ } }

/-- The request is refused with a result: nothing but the reply in hand changes (R178). -/
def refuses (s : State) (tag code : Nat) (r : Result) : Host.Outcome State Fault Refusal := answers s tag code ⟨r, {}, .empty⟩ s.dev

/-- The device goes on as given. -/
def goesTo (s : State) (d : Device) : Host.Outcome State Fault Refusal := .next { s with dev := d }

/-- The tag and code of a request, by its place in Table 11-2; none for a command that is no request. -/
def requestOfInstr : Instr → Option (Nat × Nat)
  | .setTime tag _ _ _ => some (tag, 1)
  | .queryTime tag => some (tag, 2)
  | .setDiscipline tag _ => some (tag, 3)
  | .setCycleLength tag _ => some (tag, 4)
  | .setCycleDay tag _ => some (tag, 5)
  | .loadException tag _ _ _ => some (tag, 6)
  | .dropException tag _ => some (tag, 7)
  | .queryExceptions tag _ => some (tag, 8)
  | .loadRule tag _ _ _ _ => some (tag, 9)
  | .loadWeekday tag _ _ => some (tag, 10)
  | .queryCalendar tag => some (tag, 11)
  | .loadPlan tag _ _ => some (tag, 12)
  | .queryPlan tag _ _ => some (tag, 13)
  | .setSite tag _ _ _ _ _ => some (tag, 14)
  | .setShift tag _ _ => some (tag, 15)
  | .selectToday tag _ => some (tag, 16)
  | .queryDay tag => some (tag, 17)
  | .loadPupil tag _ _ _ _ _ _ => some (tag, 18)
  | .dropPupil tag _ => some (tag, 19)
  | .queryPupil tag _ => some (tag, 20)
  | .queryCard tag _ => some (tag, 21)
  | .loadContact tag _ _ _ _ => some (tag, 22)
  | .dropContact tag _ => some (tag, 23)
  | .queryContact tag _ => some (tag, 24)
  | .queryContacts tag _ => some (tag, 25)
  | .loadGroup tag _ _ => some (tag, 26)
  | .queryGroup tag _ => some (tag, 27)
  | .clearTallies tag _ _ => some (tag, 28)
  | .deskMark tag _ _ => some (tag, 29)
  | .queryRoster tag _ _ => some (tag, 30)
  | .querySweeps tag => some (tag, 31)
  | .snapshot tag => some (tag, 32)
  | .queryCounts tag => some (tag, 33)
  | .setLateStep tag _ => some (tag, 34)
  | .queryLateStep tag => some (tag, 35)
  | .addExcuse tag _ _ _ _ _ => some (tag, 36)
  | .removeExcuse tag _ _ _ => some (tag, 37)
  | .queryExcuses tag _ _ => some (tag, 38)
  | .composeBulletin tag _ _ _ => some (tag, 39)
  | .stopBulletin tag => some (tag, 40)
  | .queryFanout tag => some (tag, 41)
  | .closeCall tag _ => some (tag, 42)
  | .queryCalls tag _ => some (tag, 43)
  | .queryNotice tag _ => some (tag, 44)
  | .queryNotices tag _ _ => some (tag, 45)
  | .setNoticeTimes tag _ _ => some (tag, 46)
  | .queryNoticeTimes tag => some (tag, 47)
  | .relayStart tag => some (tag, 48)
  | .relayStop tag => some (tag, 49)
  | .setRelayLink tag _ _ _ _ _ _ _ => some (tag, 50)
  | .queryRelayLink tag => some (tag, 51)
  | .queryLink tag => some (tag, 52)
  | .linkLampMode tag _ => some (tag, 53)
  | .lamp tag _ => some (tag, 54)
  | .loadPattern tag _ _ _ _ _ _ _ => some (tag, 55)
  | .queryPattern tag _ => some (tag, 56)
  | .loadRoute tag _ _ => some (tag, 57)
  | .queryRoute tag _ => some (tag, 58)
  | .swapBank tag => some (tag, 59)
  | .setQuiet tag _ => some (tag, 60)
  | .alertStart tag _ => some (tag, 61)
  | .alertStop tag => some (tag, 62)
  | .setAlertInput tag _ => some (tag, 63)
  | .paStart tag _ => some (tag, 64)
  | .paStop tag => some (tag, 65)
  | .setPaKey tag _ => some (tag, 66)
  | .setSupervision tag _ => some (tag, 67)
  | .querySounder tag => some (tag, 68)
  | .queryZones tag => some (tag, 69)
  | .setStation tag _ _ _ => some (tag, 70)
  | .queryStations tag => some (tag, 71)
  | .readJournal tag _ => some (tag, 72)
  | .status tag => some (tag, 73)
  | .setAttentionMask tag _ => some (tag, 74)
  | .reset tag => some (tag, 75)
  | _ => none

/-- The codes of the requests that Table 1-7 answers BUSY during an ACTIVE rollover (R17). -/
def heldByRollover (code : Nat) : Bool :=
  code == 1 || (4 ≤ code && code ≤ 47) || code == 70

/-- The commands that act with main power off: the clock, the two resets of power, and the levels at two pins (R22). -/
def actsUnpowered : Instr → Bool
  | .oscillatorTick _ => true
  | .powerUp _ => true
  | .retentionLoss _ => true
  | .alertInput _ => true
  | .paKey _ => true
  | _ => false

/-! ### What a fall of the queue lets go on -/

/-- After a fall of the notice queue's count to what `after` holds: below 256 every PAUSED confirm sweep is RUNNING (R61), below 192
a PAUSED fan-out is (R124), and the rest of both stands. -/
def QueueFallResumes (before after : Device) : Prop :=
  after.ae.sweeps = (if after.nu.queueCount < 256 then
    before.ae.sweeps.map fun w => if w.status = .paused then { w with status := .running } else w else before.ae.sweeps) ∧
  after.nu.fanout = if after.nu.queueCount < 192 ∧ before.nu.fanout.status = .paused then
    { before.nu.fanout with status := .running } else before.nu.fanout

/-! ### Laws -/

/-- A day's plan is CLOSED or a plan number 1..8 (section 1.4). -/
def DayPlanChoice.InRange : DayPlanChoice → Prop
  | .closed => True
  | .plan n => 1 ≤ n ∧ n ≤ 8

/-- The ranges of the master clock's items: the step candidate and the last mark error are errors of a mark, and the mark silence
timer stops at its 3 minutes of 11,520 oscillator ticks (Table 1-1). -/
structure MarksInRange (candidate lastError : Option Int) (silence : Option Nat) : Prop where
  candidate : ∀ e, candidate = some e → -1920 ≤ e ∧ e ≤ 1919
  lastError : ∀ e, lastError = some e → -1920 ≤ e ∧ e ≤ 1919
  silence : ∀ t, silence = some t → t ≤ 11520

/-- The sizes of the calendar's tables, and today's plan and every plan they name (Table 1-1). -/
structure CalendarInRange (today : DayPlanChoice) (exceptions : List CalException) (rules : List CalRule)
    (weekdays : List DayPlanChoice) : Prop where
  today : today.InRange
  sizes : exceptions.length ≤ 96 ∧ rules.length = 8 ∧ weekdays.length = 7
  excepted : ∀ x ∈ exceptions, ∀ c, x.outcome = some c → c.InRange
  ruled : ∀ r ∈ rules, r.outcome.InRange
  usual : ∀ c ∈ weekdays, c.InRange

/-- The Time Base keeps its ranges (Table 1-1). -/
structure ClockInRange (tb : TimeBase) : Prop where
  date : tb.date ≤ Config.lastDay
  second : tb.second < Config.daySeconds
  tick : tb.tick < Config.ticksPerSecond
  length : 1 ≤ tb.cycleLength ∧ tb.cycleLength ≤ Config.maxCycle
  cycle : 1 ≤ tb.cycleDay ∧ tb.cycleDay ≤ tb.cycleLength
  missed : tb.missed ≤ Config.lastDay
  balance : -64 ≤ tb.balance ∧ tb.balance ≤ 64
  counts : tb.lockCount < 2 ∧ tb.unlockCount < 2
  slew : tb.slewPhase < Config.slewPeriod
  marks : MarksInRange tb.candidate tb.lastError tb.markSilence
  calendar : CalendarInRange tb.today tb.exceptions tb.rules tb.weekdays
  asked : ∀ r day wasValid, tb.rollover = some r → r.kind = .set day wasValid → day ≤ Config.lastDay
  next : ∀ r, tb.rollover = some r → 1 ≤ r.nextCycle ∧ r.nextCycle ≤ tb.cycleLength
  step : ∀ r, tb.rollover = some r → 1 ≤ r.step ∧ r.step ≤ 13

/-- The notice queue's limits by class, a law of the device (R111). -/
def QueueInLimits (nu : NoticeUnit) : Prop :=
  nu.queueCount ≤ 256 ∧ nu.routine.length + nu.bulk.length ≤ 240 ∧ nu.bulk.length ≤ 192

/-- How many notices of a ring are not URGENT, and how many are BULK. -/
def ringNotUrgent (l : List RingEntry) : Nat := (l.filter fun r => r.notice.cls != .urgent).length
def ringBulkCount (l : List RingEntry) : Nat := (l.filter fun r => r.notice.cls == .bulk).length

/-- The dispatch ring's limits by class, a law of the device (R131). -/
def RingInLimits (rl : RelayLink) : Prop :=
  rl.ring.length ≤ 64 ∧ ringNotUrgent rl.ring ≤ 56 ∧ ringBulkCount rl.ring ≤ 32

/-- Every queued notice stands in the group of its class (R111). -/
def QueueGrouped (nu : NoticeUnit) : Prop :=
  (∀ n ∈ nu.urgent, n.cls = .urgent) ∧ (∀ n ∈ nu.routine, n.cls = .routine) ∧ (∀ n ∈ nu.bulk, n.cls = .bulk)

/-- Notices stay within the limits of their places (R111, R131). -/
def NoticesInLimits (s : State) : Prop := QueueInLimits s.dev.nu ∧ QueueGrouped s.dev.nu ∧ RingInLimits s.dev.rl

/-- The tables stay within their sizes: the journal (R89), the awaiting-outcome table (R115), the desk call list (R125). -/
def TablesInSize (s : State) : Prop :=
  s.dev.ae.journal.length ≤ 1024 ∧ s.dev.nu.awaiting.length ≤ 192 ∧ s.dev.nu.calls.length ≤ 128

/-- The dispatch ring stands in order: places from the read position on, relay sequence numbers consecutive, 255 followed by 1, and
the newest entry's the send seq (R132). -/
def RingInSequence (rl : RelayLink) : Prop :=
  rl.ring.IsChain (fun older newer => newer.seq = nextOf 255 older.seq) ∧
  (∀ newest, rl.ring.getLast? = some newest → newest.seq = rl.sendSeq) ∧
  (∀ i r, rl.ring[i]? = some r → r.place = (rl.readPos + i + 1) % 128) ∧ rl.readPos < 128

/-- Two excuses of one pupil and kind neither overlap nor touch (R92). -/
def Excuse.apart (a b : Excuse) : Prop := a.pupil = b.pupil → a.kind = b.kind → a.last + 1 < b.first ∨ b.last + 1 < a.first

/-- The excuse table stands in the order of R92, each entry from its first day to its last, any two apart. -/
def ExcusesApart (table : List Excuse) : Prop :=
  table.Pairwise (fun a b => excuseBefore b a = false) ∧ table.Pairwise Excuse.apart ∧ ∀ x ∈ table, x.first ≤ x.last

/-- At most four verdicts of a station are stored, and at most four owed with those of its records still to be taken; while its poll
is in flight none is owed and no record waits (R171, R172). -/
structure VerdictsWithinFour (gb : GateBus) : Prop where
  stored : ∀ a, 1 ≤ a → (gb.station a).stored.length ≤ 4
  owed : ∀ a, 1 ≤ a → (gb.station a).owed.length + (gb.records.filter (·.station == a)).length ≤ 4
  polled : ∀ a, gb.inFlight = some a → 1 ≤ a ∧ (gb.station a).owed = [] ∧ gb.records = []

/-- Roll numbers stand in ascending order, each in 1..2400. -/
def RollsAscend (l : List Nat) : Prop := l.Pairwise (· < ·) ∧ ∀ r ∈ l, 1 ≤ r ∧ r ≤ 2400

/-- The roll, the roster and the called-today record hold a pupil once, in roll order, and the roster holds no other pupils than the
roll (R44, R56, R121); while the roster is being built it has reached no further than the cursor (R57). -/
structure PupilsHeldOnce (d : Device) : Prop where
  roll : RollsAscend (d.ae.pupils.map (·.roll))
  roster : RollsAscend ((d.ae.roster.getD []).map (·.roll))
  called : RollsAscend (d.nu.calledToday.map (·.roll))
  enrolled : ∀ r ∈ (d.ae.roster.getD []).map (·.roll), r ∈ d.ae.pupils.map (·.roll)
  built : ∀ w, d.tb.rollover = some w → w.step = 12 → w.cursor ≠ 1 → ∀ r ∈ (d.ae.roster.getD []).map (·.roll), r < w.cursor

/-- Every notice held in a place: the queue, the ring, the awaiting-outcome table and the desk call list (R109). -/
def Device.placed (d : Device) : List Notice :=
  d.nu.queued ++ d.rl.ring.map (·.notice) ++ d.nu.awaiting.map (·.notice) ++ d.nu.calls.filterMap (·.notice?)

/-- No notice is in two places, nor in one twice, its tag being its name (R108, R109); an absence notice is about a pupil. -/
def EachNoticeInOnePlace (d : Device) : Prop :=
  (d.placed.map (·.tag)).Nodup ∧ ∀ n ∈ d.placed, n.body = .absentUnexplained → 1 ≤ n.pupil ∧ n.pupil ≤ 2400

/-- The roll and the contact table agree (R44, R46, R48): a pupil names a contact in a slot if and only if the contact lists the pupil;
three slots a pupil, in which no contact stands twice; at most six pupils a contact, none twice; the contacts in ascending key order,
and no key, index or card held twice. -/
structure LinksAgree (ae : Attendance) : Prop where
  slots : ∀ p ∈ ae.pupils, p.slots.length = 3 ∧ (p.slots.filterMap id).Nodup
  lists : ∀ c ∈ ae.contacts, c.pupils.length ≤ 6 ∧ c.pupils.Nodup
  contacts : (ae.contacts.map (·.key)).Pairwise (· < ·) ∧ (ae.contacts.map (·.index)).Nodup ∧ ae.contacts.length ≤ 4096
  named : ∀ p ∈ ae.pupils, ∀ i, some i ∈ p.slots → ∃ c ∈ ae.contacts, c.index = i ∧ p.roll ∈ c.pupils
  listed : ∀ c ∈ ae.contacts, ∀ r ∈ c.pupils, ∃ p ∈ ae.pupils, p.roll = r ∧ some c.index ∈ p.slots
  cards : ∀ p ∈ ae.pupils, ∀ q ∈ ae.pupils, ∀ n, p.card = some n → q.card = some n → p.roll = q.roll

/-- The tallies stay within their limits, a law of the device for the late points (R52). -/
def TalliesInRange (ae : Attendance) : Prop :=
  ∀ p ∈ ae.pupils, p.latePoints ≤ 255 ∧ p.lateMinutes ≤ 65535 ∧ p.unexplainedDays ≤ 255

/-- Every REG_CLOSE of a copy of a plan finds a REG_START of its point on each of its sites, at its minute or before (R24). -/
def ClosesFollow (l : List PlanEntry) : Prop :=
  ∀ e ∈ l, ∀ k s, e.action = .regClose k → e.sites.getLsbD s = true →
    ∃ o ∈ l, o.action = .regStart k ∧ o.sites.getLsbD s = true ∧ o.minute ≤ e.minute

/-- A plan's copies and flags: a flag is set only on a site its entry names, no pair is both fired and passed, and only a RING pair is
passed (R29); a REG_CLOSE has fired on a site only where a REG_START of its point has (R24, R33). -/
structure PlanLawful (p : DayPlan) : Prop where
  fired : ∀ sl ∈ p.active, ∀ s, sl.fired.getLsbD s = true → sl.names s = true ∧ sl.passed.getLsbD s = false
  passed : ∀ sl ∈ p.active, ∀ s, sl.passed.getLsbD s = true → sl.names s = true ∧ ∃ g i, sl.entry.action = .ring g i
  closes : ClosesFollow (p.active.map (·.entry)) ∧ ClosesFollow p.staged
  opened : ∀ sl ∈ p.active, ∀ k s, sl.entry.action = .regClose k → sl.fired.getLsbD s = true →
    ∃ o ∈ p.active, o.entry.action = .regStart k ∧ o.fired.getLsbD s = true

/-- The REG_CLOSE of (RP k, site s) has fired since the flags were last cleared, in some plan. -/
def CloseFired (ss : Scanner) (k s : Nat) : Prop :=
  ∃ p ∈ ss.plans, ∃ sl ∈ p.active, sl.entry.action = .regClose k ∧ sl.fired.getLsbD s = true

/-- An entry of the roster (R60, R63, R64): only a state in which a pupil is in stands behind OUT; EXPECTED has had no IN arrival; and
PROVISIONAL or UNEXPLAINED only if the pupil is due, the REG_CLOSE of the due point has fired, and no IN arrival has been taken. -/
structure EntryLawful (closed : Nat → Nat → Prop) (e : RosterEntry) : Prop where
  prior : ∀ st, e.prior = some st → st = .present ∨ st = .late ∨ st = .notDue
  expected : e.state = .expected → e.arrivalSecond = none
  absent : e.state = .provisional ∨ e.state = .unexplained →
    e.arrivalSecond = none ∧ ∃ q, e.due = some q ∧ closed q.point q.site

/-- The day's bells and registration: no pair of today's plan stays open behind the current minute while the scanner runs (R30, R33);
a CLOSE sweep is in the list only once its REG_CLOSE has fired (R59), and no sweep from step 2 of a rollover on (R62); every roster
entry is lawful, with none PROVISIONAL or UNEXPLAINED from step 4 of a rollover on, the roster being cleared by then (R56, R60). -/
structure DayInOrder (d : Device) : Prop where
  plans : ∀ p ∈ d.ss.plans, PlanLawful p
  behind : d.mainPower = true → d.tb.validity = .valid → d.tb.rollover = none → ∀ p, d.tb.today = .plan p →
    ∀ sl ∈ (d.ss.plan p).active, ∀ s, sl.names s = true → d.ss.effective sl.entry.minute s ≤ d.minute →
      sl.fired.getLsbD s = true ∨ sl.passed.getLsbD s = true
  sweeps : ∀ w ∈ d.ae.sweeps, (∀ r, d.tb.rollover = some r → r.step < 2) ∧ (w.kind = .close → CloseFired d.ss w.point w.site)
  entries : ∀ e ∈ d.ae.roster.getD [], EntryLawful
    (fun k s => CloseFired d.ss k s ∧ ∀ r, d.tb.rollover = some r → r.step < 4) e

/-- The flags of every pair of an active copy that has fired or been passed stand at its position, with the same entry (R26, R29). -/
def FlagsStand (before after : Scanner) : Prop :=
  ∀ (p i : Nat) (sl : PlanSlot), 1 ≤ p → (before.plan p).active[i]? = some sl → sl.fired ≠ 0 ∨ sl.passed ≠ 0 →
    ∃ later, (after.plan p).active[i]? = some later ∧ later.entry = sl.entry ∧
      ∀ s, (sl.fired.getLsbD s = true → later.fired.getLsbD s = true) ∧ (sl.passed.getLsbD s = true → later.passed.getLsbD s = true)

/-- The laws of the device's tables and places, which every step keeps together, the commands waiting being well-formed. -/
structure Lawful (s : State) : Prop where
  clock : ClockInRange s.dev.tb
  limits : NoticesInLimits s
  sizes : TablesInSize s
  ring : RingInSequence s.dev.rl
  places : EachNoticeInOnePlace s.dev
  pupils : PupilsHeldOnce s.dev
  excuses : ExcusesApart s.dev.ae.excuses
  verdicts : VerdictsWithinFour s.dev.gb
  links : LinksAgree s.dev.ae
  tallies : TalliesInRange s.dev.ae
  day : DayInOrder s.dev
  commands : ∀ c ∈ s.pending, c.wf = true

end Sys2Proof.Machine
end

