-- ==== Sys2Proof/Certificates/Slice0/Obligations.lean ====
section
/-! DEFINITION. The statements for the provers, one definition each (OBLIGATIONS.json). A request's checks stand in the order its rule
gives; `answers` and `goesTo` give the whole next device, so what they do not name is unchanged. -/
open Sys2Proof Sys2Proof.Machine

/-! ### The queue and the office port -/

/-- A step takes the command at the front of the queue and runs it on the state with the queue's rest; with none waiting the
block idles. The queue and the idle step are the model's (log 1). -/
def Obligations.StepTakesTheFrontCommand : Prop :=
  ∀ s : State, (s.pending = [] → step s = .next s) ∧
    ∀ c rest, s.pending = c :: rest → step s = exec c { s with pending := rest }

/-- Every command, whatever its operands, is answered in every state: no fault, no refusal, and the queue is left alone. -/
def Obligations.EveryCommandIsAnswered : Prop := ∀ (c : Instr) (s : State), ∃ d, exec c s = goesTo s d

/-- A request taken is answered with its own tag and code; one that is not answered OK has an empty body, no flags, and has
changed nothing but the reply in hand. -/
def Obligations.RefusedRequestChangesNothing : Prop :=
  ∀ (c : Instr) (s : State) (tag code : Nat), Ready s → requestOfInstr c = some (tag, code) →
    ∃ a d, exec c s = answers s tag code a d ∧ (a.result ≠ .ok → d = s.dev ∧ a.flags = {} ∧ a.body = .empty)

/-- The office line: a good frame while a request is in hand sets OVERRUN and does nothing else; OVERRUN with none in hand does
nothing; an unknown code is answered UNKNOWN and a wrong body length LENGTH, and neither changes anything; a bad frame and a
byte timeout do nothing. -/
def Obligations.OfficeLineTakesOneRequest : Prop :=
  (∀ (c : Instr) (s : State) (tag code : Nat), Powered s → s.dev.op.inHand.isSome = true → requestOfInstr c = some (tag, code) →
    exec c s = goesTo s (s.dev.raise .overrun)) ∧
  (∀ (s : State) (tag code : Nat), Powered s → s.dev.op.inHand.isSome = true →
    exec (.unknownRequest tag code) s = goesTo s (s.dev.raise .overrun) ∧
    exec (.wrongBodyLength tag code) s = goesTo s (s.dev.raise .overrun) ∧
    exec .overrun s = goesTo s (s.dev.raise .overrun)) ∧
  (∀ (s : State) (tag code : Nat), Ready s →
    exec (.unknownRequest tag code) s = refuses s tag code .unknown ∧
    exec (.wrongBodyLength tag code) s = refuses s tag code .length ∧
    exec .overrun s = goesTo s s.dev) ∧
  ∀ s : State, exec .officeBadFrame s = goesTo s s.dev ∧ exec .officeByteTimeout s = goesTo s s.dev

/-- While a rollover is ACTIVE the requests of Table 1-7's first column are refused and change nothing: as they would be without
the rollover where a check that comes before BUSY fails, and BUSY otherwise; the other requests are never answered BUSY. The
checks before BUSY are those with result RANGE, and for LOAD_PLAN, code 12, FULL and DUPLICATE too (the model's order, log 13). -/
def Obligations.RolloverHoldsRequestsBack : Prop :=
  (∀ (c : Instr) (s : State) (tag code : Nat), Ready s → s.dev.tb.rollover.isSome = true →
    requestOfInstr c = some (tag, code) → heldByRollover code = true →
      let idle : State := { s with dev := { s.dev with tb.rollover := none } }
      let early (r : Result) : Prop := r = .range ∨ code = 12 ∧ (r = .full ∨ r = .duplicate)
      (∀ r, early r → exec c idle = refuses idle tag code r → exec c s = refuses s tag code r) ∧
      ((∀ r, early r → exec c idle ≠ refuses idle tag code r) → exec c s = refuses s tag code .busy)) ∧
  (∀ (c : Instr) (s : State) (tag code : Nat) (a : Answer) (d : Device), Ready s →
    requestOfInstr c = some (tag, code) → heldByRollover code = false → exec c s = answers s tag code a d → a.result ≠ .busy)

/-! ### The Time Base -/

/-- SET_TIME: its refusals in order, and its effect from an INVALID clock, which becomes VALID with cause CLOCK and the settling of
every zone, to another date, and within the date. QUERY_TIME is answered whatever the Time Base is doing, with the clock as it stands,
and changes nothing. A SET_TIME that starts a rollover finds the records of a gate reply that still wait taken first; that records
wait is the model's (log 26). -/
def Obligations.TimeIsSetAndRead : Prop :=
  (∀ (s : State) (tag day second tick : Nat), Ready s →
     let set (d : Device) : Device :=
       { d with tb.second := second, tb.tick := tick, tb.balance := 0, tb.candidate := none }
     let taken := takeWaiting s.dev
     (s.dev.gb.records = [] → taken = s.dev) ∧
     (36524 < day ∨ 86399 < second ∨ 63 < tick → exec (.setTime tag day second tick) s = refuses s tag 1 .range) ∧
     (day ≤ 36524 → second ≤ 86399 → tick ≤ 63 → s.dev.tb.rollover.isSome = true →
       exec (.setTime tag day second tick) s = refuses s tag 1 .busy) ∧
     (day ≤ 36524 → second ≤ 86399 → tick ≤ 63 → s.dev.tb.rollover = none → s.dev.tb.discipline = .locked →
       exec (.setTime tag day second tick) s = refuses s tag 1 .locked) ∧
     (day ≤ 36524 → second ≤ 86399 → tick ≤ 63 → s.dev.tb.rollover = none → s.dev.tb.discipline = .unlocked →
       (s.dev.tb.validity = .invalid →
         let made := settling (fun e => ({ e with tb.validity := .valid } : Device).raise .clock) (set taken)
         exec (.setTime tag day second tick) s = answers s tag 1 (ok .empty) (startRollover (.set day false) made) ∧
         made.op.holds .clock = true ∧ made = { set taken with
           tb.validity := .valid, su.zones := made.su.zones, op.causes := made.op.causes, op.changedZones := made.op.changedZones }) ∧
       (s.dev.tb.validity = .valid → day ≠ s.dev.tb.date →
         exec (.setTime tag day second tick) s = answers s tag 1 (ok .empty) (startRollover (.set day true) (set taken))) ∧
       (s.dev.tb.validity = .valid → day = s.dev.tb.date → s.dev.tb.second / 60 < second / 60 →
         exec (.setTime tag day second tick) s = answers s tag 1 (ok .empty) (reassess [0, 1, 2] (set s.dev))) ∧
       (s.dev.tb.validity = .valid → day = s.dev.tb.date → second / 60 ≤ s.dev.tb.second / 60 →
         exec (.setTime tag day second tick) s = answers s tag 1 (ok .empty) (set s.dev)))) ∧
  (∀ (s : State) (tag : Nat), Ready s →
     let tb := s.dev.tb
     exec (.queryTime tag) s = answers s tag 2
       (ok (.time ⟨tb.date, tb.second, tb.tick, tb.validity, tb.disciplined, tb.discipline, tb.balance, tb.lastError,
         tb.cycleLength, tb.cycleDay, tb.today, tb.rollover.map fun r => (r.kind, r.step), tb.exceptions.length⟩)) s.dev)

/-- SET_DISCIPLINE: ENABLED is 1 and DISABLED 2; the present setting changes nothing; a change unlocks, clears both counts, the
balance and the candidate, and starts or stops the mark silence timer; leaving LOCKED sets CLOCK. The two codes are the model's
(log 11). -/
def Obligations.SetDisciplineChangesTheLock : Prop :=
  ∀ (s : State) (tag setting : Nat), Ready s →
    (setting ≠ 1 → setting ≠ 2 → exec (.setDiscipline tag setting) s = refuses s tag 3 .range) ∧
    (∀ on : Bool, setting = (if on then 1 else 2) →
      (s.dev.tb.disciplined = on → exec (.setDiscipline tag setting) s = answers s tag 3 (ok .empty) s.dev) ∧
      (s.dev.tb.disciplined ≠ on →
        let changed : Device := { s.dev with
          tb.disciplined := on, tb.balance := 0, tb.candidate := none, tb.lockCount := 0, tb.unlockCount := 0
          tb.discipline := .unlocked, tb.markSeen := false, tb.markSilence := if on then some 0 else none }
        (s.dev.tb.discipline = .unlocked → exec (.setDiscipline tag setting) s = answers s tag 3 (ok .empty) changed) ∧
        (s.dev.tb.discipline = .locked → exec (.setDiscipline tag setting) s = answers s tag 3 (ok .empty) (changed.raise .clock))))

/-- A master mark: it is taken while discipline is ENABLED, the clock VALID, and 45 s (2880 oscillator ticks) have passed on the
mark silence timer, or none counts, and ignored otherwise; a taken mark stores its error and restarts the timer; the lock rule;
and the expiry of the mark silence timer. That the expiry is taken as the moment it names is the model's (log 2). -/
def Obligations.MasterMarksLockTheClock : Prop :=
  (∀ s : State, Powered s →
     let tb := s.dev.tb
     let p : Int := ((tb.second % 60) * 64 + tb.tick : Nat)
     let takes := tb.disciplined = true ∧ tb.validity = .valid ∧ (tb.markSeen = true → ∀ t, tb.markSilence = some t → 2880 ≤ t)
     (¬ takes → exec .masterMark s = goesTo s s.dev) ∧
     (takes → ∃ d, exec .masterMark s = goesTo s d ∧ d.tb.lastError = some (if p < 1920 then p else p - 3840) ∧
       d.tb.markSilence = some 0 ∧ d.tb.markSeen = true ∧ d.tb.disciplined = true ∧ d.tb.validity = .valid)) ∧
  (∀ (s : State) (d : Device), Powered s → s.dev.takesMark = true → exec .masterMark s = goesTo s d →
    let e := s.dev.tb.markError.natAbs
    let lock := s.dev.tb.lockCount
    let unlock := s.dev.tb.unlockCount
    (e ≤ 2 → lock + 1 < 2 → d.tb.lockCount = lock + 1 ∧ d.tb.unlockCount = 0 ∧ d.tb.discipline = s.dev.tb.discipline) ∧
    (e ≤ 2 → 2 ≤ lock + 1 → d.tb.lockCount = 0 ∧ d.tb.unlockCount = 0 ∧ d.tb.discipline = .locked ∧
      (s.dev.tb.discipline = .unlocked → d.op.holds .clock = true)) ∧
    (16 < e → unlock + 1 < 2 → d.tb.unlockCount = unlock + 1 ∧ d.tb.lockCount = 0 ∧ d.tb.discipline = s.dev.tb.discipline) ∧
    (16 < e → 2 ≤ unlock + 1 → d.tb.lockCount = 0 ∧ d.tb.unlockCount = 0 ∧ d.tb.discipline = .unlocked ∧
      (s.dev.tb.discipline = .locked → d.op.holds .clock = true)) ∧
    (2 < e → e ≤ 16 → d.tb.lockCount = 0 ∧ d.tb.unlockCount = 0 ∧ d.tb.discipline = s.dev.tb.discipline)) ∧
  (∀ (s : State) (t : Nat), Powered s → s.dev.tb.markSilence = some t →
    let expired : Device := { s.dev with
      tb.markSilence := none, tb.candidate := none, tb.lockCount := 0, tb.unlockCount := 0, tb.discipline := .unlocked }
    (s.dev.tb.discipline = .unlocked → exec .markSilenceExpiry s = goesTo s expired) ∧
    (s.dev.tb.discipline = .locked → exec .markSilenceExpiry s = goesTo s (expired.raise .clock))) ∧
  (∀ s : State, Powered s → s.dev.tb.markSilence = none → exec .markSilenceExpiry s = goesTo s s.dev)

/-- The correction of a taken mark with error e, after the lock rule: within 64 ticks it is slewed; beyond, a lone mark is a candidate
and the second one that agrees within 4 steps the clock to the nearest whole minute, forward for e below 0, with cause CLOCK. A step
within the day hands the scanner its jump notice, a reassessment where the minute is later, and the top of the minute landed on, but
not during a rollover; a step across midnight starts a rollover of kind STEP, or is counted during one. The top of the minute landed
on, that records of a gate reply still waiting are taken before the rollover, and that the count of midnights missed stays at 36,524,
are the model's (logs 19, 26, 41). -/
def Obligations.MarksSlewOrStep : Prop :=
  (∀ s : State, Powered s → s.dev.takesMark = true →
    let tb := s.dev.tb
    let e := tb.markError
    let ruled := lockRule e { s.dev with
      tb.lastError := some e, tb.markSilence := some 0, tb.markSeen := true, tb.slewPhase := 0 }
    let minute := tb.second / 60 + (if e < 0 then 1 else 0)
    let settled := ({ ruled with tb.tick := 0, tb.balance := 0, tb.candidate := none } : Device).raise .clock
    let stepped : Device := { settled with tb.second := 60 * minute }
    let mark := exec .masterMark s
    (e.natAbs ≤ 64 → mark = goesTo s { ruled with tb.balance := e, tb.candidate := none }) ∧
    (64 < e.natAbs → tb.candidate = none → mark = goesTo s { ruled with tb.candidate := some e }) ∧
    (∀ c, 64 < e.natAbs → tb.candidate = some c → 4 < (e - c).natAbs → mark = goesTo s { ruled with tb.candidate := some e }) ∧
    (∀ c, 64 < e.natAbs → tb.candidate = some c → (e - c).natAbs ≤ 4 →
      (minute < 1440 →
        (tb.rollover = none → mark = goesTo s (topOfMinute (jumpNotice (tb.second / 60) stepped))) ∧
        (tb.rollover.isSome = true → mark = goesTo s stepped)) ∧
      (1440 ≤ minute →
        (tb.rollover = none → mark = goesTo s (startRollover .step { takeWaiting settled with tb.second := 0 })) ∧
        (tb.rollover.isSome = true →
          mark = goesTo s { settled with tb.second := 0, tb.missed := min 36524 (tb.missed + 1) })))) ∧
  (∀ (e : Int) (d : Device),
    let counts (lock unlock : Nat) : Device := { d with tb.lockCount := lock, tb.unlockCount := unlock }
    let moves (st : DisciplineState) : Device :=
      if d.tb.discipline = st then counts 0 0 else ({ counts 0 0 with tb.discipline := st } : Device).raise .clock
    (e.natAbs ≤ 2 → lockRule e d = if d.tb.lockCount + 1 < 2 then counts (d.tb.lockCount + 1) 0 else moves .locked) ∧
    (16 < e.natAbs → lockRule e d = if d.tb.unlockCount + 1 < 2 then counts 0 (d.tb.unlockCount + 1) else moves .unlocked) ∧
    (2 < e.natAbs → e.natAbs ≤ 16 → lockRule e d = counts 0 0)) ∧
  (∀ (old : Nat) (d : Device),
    (old < d.tb.second / 60 → jumpNotice old d = reassess [0, 1, 2] d) ∧ (d.tb.second / 60 ≤ old → jumpNotice old d = d))

/-- An oscillator tick advances the clock by one tick; every 16th advances it by none while the balance is positive and by two while it
is negative, and works one tick of the balance off. An advance that brings the second to a multiple of 60 hands the scanner the top of
the minute, but not during a rollover or on the backup supply. The clock never advances the date itself: crossing into 00:00:00 while
VALID with main power on and no rollover ACTIVE starts a rollover of kind MIDNIGHT; during a rollover or on the backup supply the
midnight is counted; while INVALID nothing follows. That the tick brings the sense lines (log 4); that it moves the mark silence timer
and one count of running seconds with main power on only, which serves every block (logs 3, 7, 38); that the count of 16 runs on from
the last taken mark, on the backup supply too (log 38); that the start finds the records of a gate reply that still wait taken (log 26)
and forgets the poll in flight (log 28); and that the count of midnights missed stays at 36,524 (log 41), are the model's. -/
def Obligations.OscillatorTickAdvancesTheClock : Prop :=
  (∀ (s : State) (sense : ZoneSet), ClockInRange s.dev.tb →
     let tb := s.dev.tb
     let sixteenth := tb.slewPhase = 15
     let advance := if sixteenth then (if 0 < tb.balance then 0 else if tb.balance < 0 then 2 else 1) else 1
     let left := if sixteenth then (if 0 < tb.balance then tb.balance - 1 else if tb.balance < 0 then tb.balance + 1 else 0)
       else tb.balance
     ∃ d, exec (.oscillatorTick sense) s = goesTo s d ∧
       d.tb.second * 64 + d.tb.tick = (tb.second * 64 + tb.tick + advance) % 5529600 ∧ d.tb.second < 86400 ∧ d.tb.tick < 64 ∧
       d.tb.balance = left ∧ d.tb.slewPhase = (tb.slewPhase + 1) % 16 ∧ d.tb.date = tb.date ∧ d.tb.validity = tb.validity ∧
       d.tb.cycleDay = tb.cycleDay ∧ d.tb.today = tb.today) ∧
  (∀ (s : State) (sense : ZoneSet), s.dev.tb.tick < 64 → s.dev.tb.slewPhase < 16 →
     let tb := s.dev.tb
     let sixteenth := tb.slewPhase = 15
     let advance := if sixteenth then (if 0 < tb.balance then 0 else if tb.balance < 0 then 2 else 1) else 1
     let left := if sixteenth ∧ 0 < tb.balance then tb.balance - 1 else if sixteenth ∧ tb.balance < 0 then tb.balance + 1
       else tb.balance
     let counted : Device := { s.dev with sense := sense }
     let worked : Device := if s.dev.mainPower then runningTick (silenceTick counted) else counted
     let before : Device := { worked with tb.slewPhase := (tb.slewPhase + 1) % 16, tb.balance := left }
     let handed (d : Device) : Device := if d.tb.rollover = none ∧ d.mainPower = true then topOfMinute d else d
     let ticked := exec (.oscillatorTick sense) s
     let at' (d : Device) : Device := { d with tb.tick := tb.tick + advance - 64 }
     (tb.tick + advance < 64 → ticked = goesTo s { before with tb.tick := tb.tick + advance }) ∧
     (64 ≤ tb.tick + advance → tb.second + 1 < 86400 →
       let on : Device := { before with tb.tick := 0, tb.second := tb.second + 1 }
       ((tb.second + 1) % 60 = 0 → ticked = goesTo s (at' (handed on))) ∧
       ((tb.second + 1) % 60 ≠ 0 → ticked = goesTo s (at' on))) ∧
     (64 ≤ tb.tick + advance → 86400 ≤ tb.second + 1 →
       let past : Device := { before with tb.tick := 0 }
       (tb.validity = .valid → tb.rollover = none → s.dev.mainPower = true →
         ticked = goesTo s (at' (startRollover .midnight { takeWaiting past with tb.second := 0 }))) ∧
       (tb.validity = .valid → tb.rollover.isSome = true ∨ s.dev.mainPower = false →
         ticked = goesTo s (at' { past with tb.second := 0, tb.missed := min 36524 (tb.missed + 1) })) ∧
       (tb.validity = .invalid → ticked = goesTo s (at' { past with tb.second := 0 })))) ∧
  (∀ d : Device,
    (d.tb.validity = .invalid ∨ d.tb.today = .closed → topOfMinute d = d) ∧
    (d.tb.validity = .valid → d.tb.today ≠ .closed →
      topOfMinute d = firePointsAt [0, 1, 2] (d.tb.second / 60) (fireDue [0, 1, 2] (d.tb.second / 60) d)))

/-- An oscillator tick with main power on runs the mark silence timer on to its 3 minutes, and every 64th is a running second:
notices age wherever they are held, outcome deadlines fall, and the silence, auto-restart and idle check timers run on. On the
backup supply a tick that advances the clock by one does nothing else. That one count serves every block, that the time in DOWN
stands for the auto-restart timer, that the tick brings the sense lines, and that no other block's time, nor the mark silence
timer, counts on the backup supply, are the model's (logs 3, 4, 7, 34, 38). -/
def Obligations.RunningSecondPasses : Prop :=
  (∀ (s : State) (sense : ZoneSet), Powered s → s.dev.tb.tick < 63 → s.dev.tb.slewPhase < 15 →
    let older (n : Notice) : Notice := { n with age := min 65535 (n.age + 1) }
    let ticked : Device := { s.dev with
      sense := sense, tb.tick := s.dev.tb.tick + 1, tb.slewPhase := s.dev.tb.slewPhase + 1
      tb.markSilence := s.dev.tb.markSilence.map fun t => min 11520 (t + 1) }
    (s.dev.tb.runningPhase < 63 →
      exec (.oscillatorTick sense) s = goesTo s { ticked with tb.runningPhase := s.dev.tb.runningPhase + 1 }) ∧
    (s.dev.tb.runningPhase = 63 → exec (.oscillatorTick sense) s = goesTo s { ticked with
      tb.runningPhase := 0
      nu.urgent := s.dev.nu.urgent.map older
      nu.routine := s.dev.nu.routine.map older
      nu.bulk := s.dev.nu.bulk.map older
      nu.awaiting := s.dev.nu.awaiting.map fun w => ⟨older w.notice, w.deadline - 1⟩
      nu.calls := s.dev.nu.calls.map fun e => match e.content with
        | .notice n o sup => { e with content := .notice (older n) o sup }
        | .message _ _ _ _ _ _ _ => e
        | .parentUnaware _ _ => e
      rl.ring := s.dev.rl.ring.map fun r => { r with notice := older r.notice }
      rl.silence := s.dev.rl.silence.map (· + 1)
      rl.downFor := if s.dev.rl.link = .down then min 65535 (s.dev.rl.downFor + 1) else s.dev.rl.downFor
      su.zones := s.dev.su.zones.map fun v => { v with timer := v.timer.map fun t => min 10 (t + 1) } })) ∧
  (∀ (s : State) (sense : ZoneSet), s.dev.mainPower = false → s.dev.tb.tick < 63 → s.dev.tb.slewPhase < 15 →
    exec (.oscillatorTick sense) s = goesTo s { s.dev with
      sense := sense, tb.tick := s.dev.tb.tick + 1, tb.slewPhase := s.dev.tb.slewPhase + 1 })

/-- LOAD_EXCEPTION, DROP_EXCEPTION and QUERY_EXCEPTIONS, with no rollover ACTIVE. What is held afterwards is said by membership
and order. A flag byte other than 0 and 1 is refused RANGE (the model's, log 10). -/
def Obligations.ExceptionsAreHeldByDate : Prop :=
  (∀ (s : State) (tag date outcome : Nat) (start : Bool), Steady s → date ≤ 36524 → (outcome ≤ 8 ∨ outcome = 255) →
    let load := exec (.loadException tag date outcome (if start then 1 else 0)) s
    let x : CalException := ⟨date, if outcome = 0 then none else some (if outcome = 255 then .closed else .plan outcome), start⟩
    (96 ≤ s.dev.tb.exceptions.length → (∀ y ∈ s.dev.tb.exceptions, y.date ≠ date) → load = refuses s tag 6 .full) ∧
    ((s.dev.tb.exceptions.length < 96 ∨ ∃ y ∈ s.dev.tb.exceptions, y.date = date) →
      ∃ l, load = answers s tag 6 (ok .empty) { s.dev with tb.exceptions := l } ∧
        (∀ y, y ∈ l ↔ y = x ∨ y ∈ s.dev.tb.exceptions ∧ y.date ≠ date) ∧
        (s.dev.tb.exceptions.Pairwise (·.date < ·.date) → l.Pairwise (·.date < ·.date)))) ∧
  (∀ (s : State) (tag date outcome flag : Nat), Ready s → 36524 < date ∨ (8 < outcome ∧ outcome ≠ 255) ∨ 1 < flag →
    exec (.loadException tag date outcome flag) s = refuses s tag 6 .range) ∧
  (∀ (s : State) (tag date : Nat), Steady s →
    ((∀ y ∈ s.dev.tb.exceptions, y.date ≠ date) → exec (.dropException tag date) s = refuses s tag 7 .notFound) ∧
    ((∃ y ∈ s.dev.tb.exceptions, y.date = date) → exec (.dropException tag date) s =
      answers s tag 7 (ok .empty) { s.dev with tb.exceptions := s.dev.tb.exceptions.filter fun y => y.date != date }) ∧
    exec (.queryExceptions tag date) s =
      answers s tag 8 (ok (.exceptions ((s.dev.tb.exceptions.filter fun y => decide (date ≤ y.date)).take 16))) s.dev)

/-- SET_CYCLE_LENGTH and SET_CYCLE_DAY; LOAD_RULE, LOAD_WEEKDAY and QUERY_CALENDAR with no rollover ACTIVE. A rule with no
weekday matches no day. Outcome 0 and a weekday bit above Sunday out of range are the model's (logs 10, 12). -/
def Obligations.CycleAndCalendarAreSet : Prop :=
  (∀ (s : State) (tag n : Nat), Ready s →
     (n = 0 ∨ 10 < n → exec (.setCycleLength tag n) s = refuses s tag 4 .range) ∧
     (1 ≤ n → n ≤ 10 → s.dev.tb.rollover.isSome = true → exec (.setCycleLength tag n) s = refuses s tag 4 .busy) ∧
     (1 ≤ n → n ≤ 10 → s.dev.tb.rollover = none → s.dev.tb.cycleDay ≤ n →
       exec (.setCycleLength tag n) s = answers s tag 4 (ok .empty) { s.dev with tb.cycleLength := n }) ∧
     (1 ≤ n → n ≤ 10 → s.dev.tb.rollover = none → n < s.dev.tb.cycleDay →
       exec (.setCycleLength tag n) s = answers s tag 4 (ok .empty) { s.dev with tb.cycleLength := n, tb.cycleDay := 1 }) ∧
     (n = 0 ∨ s.dev.tb.cycleLength < n → exec (.setCycleDay tag n) s = refuses s tag 5 .range) ∧
     (1 ≤ n → n ≤ s.dev.tb.cycleLength → s.dev.tb.rollover.isSome = true → exec (.setCycleDay tag n) s = refuses s tag 5 .busy) ∧
     (1 ≤ n → n ≤ s.dev.tb.cycleLength → s.dev.tb.rollover = none →
       exec (.setCycleDay tag n) s = answers s tag 5 (ok .empty) { s.dev with tb.cycleDay := n })) ∧
  (∀ (s : State) (tag number weekdays cycleDay outcome : Nat), Steady s →
    let load := exec (.loadRule tag number weekdays cycleDay outcome) s
    let rule (c : DayPlanChoice) : CalRule := ⟨BitVec.ofNat 7 weekdays, if cycleDay = 0 then none else some cycleDay, c⟩
    (number = 0 ∨ 8 < number ∨ 128 ≤ weekdays ∨ 10 < cycleDay ∨ outcome = 0 ∨ (8 < outcome ∧ outcome ≠ 255) →
      load = refuses s tag 9 .range) ∧
    (1 ≤ number → number ≤ 8 → weekdays < 128 → cycleDay ≤ 10 →
      (1 ≤ outcome → outcome ≤ 8 → load = answers s tag 9 (ok .empty)
        { s.dev with tb.rules := s.dev.tb.rules.set (number - 1) (rule (.plan outcome)) }) ∧
      (outcome = 255 → load = answers s tag 9 (ok .empty)
        { s.dev with tb.rules := s.dev.tb.rules.set (number - 1) (rule .closed) }))) ∧
  (∀ (s : State) (tag day outcome : Nat), Steady s →
    let load := exec (.loadWeekday tag day outcome) s
    (day = 0 ∨ 7 < day ∨ outcome = 0 ∨ (8 < outcome ∧ outcome ≠ 255) → load = refuses s tag 10 .range) ∧
    (1 ≤ day → day ≤ 7 →
      (1 ≤ outcome → outcome ≤ 8 → load = answers s tag 10 (ok .empty)
        { s.dev with tb.weekdays := s.dev.tb.weekdays.set (day - 1) (.plan outcome) }) ∧
      (outcome = 255 → load = answers s tag 10 (ok .empty)
        { s.dev with tb.weekdays := s.dev.tb.weekdays.set (day - 1) .closed }))) ∧
  (∀ (s : State) (tag : Nat), Steady s →
    exec (.queryCalendar tag) s = answers s tag 11 (ok (.calendar s.dev.tb.rules s.dev.tb.weekdays s.dev.tb.cycleLength)) s.dev) ∧
  (∀ (r : CalRule) (date candidate : Nat), r.weekdays = 0 → r.matchesDay date candidate = false)

/-- The choice of a date's plan: a held exception's outcome; otherwise the lowest-numbered rule whose weekdays include the
date's and whose cycle day is ANY or the candidate; otherwise the weekday's default. Day 0 was a Saturday. -/
def Obligations.PlanForADate : Prop :=
  ∀ (tb : TimeBase) (date cycle : Nat),
    let candidate := if cycle < tb.cycleLength then cycle + 1 else 1
    let day := (date + 5) % 7
    let fits : CalRule → Prop := fun r => r.weekdays.getLsbD day = true ∧ (r.cycleDay = none ∨ r.cycleDay = some candidate)
    (∀ x c, tb.exceptions.find? (·.date == date) = some x → x.outcome = some c → tb.planFor date cycle = c) ∧
    ((∀ x, tb.exceptions.find? (·.date == date) = some x → x.outcome = none) →
      (∀ (i : Nat) (r : CalRule), tb.rules[i]? = some r → fits r →
        (∀ (j : Nat) (q : CalRule), j < i → tb.rules[j]? = some q → ¬ fits q) → tb.planFor date cycle = r.outcome) ∧
      ((∀ r ∈ tb.rules, ¬ fits r) → ∀ c, tb.weekdays[day]? = some c → tb.planFor date cycle = c)) ∧
    (tb.today ≠ .closed ↔ ∀ d : Device, d.tb = tb → d.schoolDay = true)
/-! ### The rollover and the resets -/

/-- The steps of a rollover that are taken whole: 1 ends the sweeps, 3 clears the roster and releases the latch, 6 sets the
cycle day, 8 clears the day's scanner state, 11 aborts a fan-out in flight; and 7, which promotes the pending plan at its
cursor. Step 13 ends the rollover with cause DAY: midnights missed meanwhile start a RESUME at once; otherwise the state is IDLE
and the start of day is handed: every site is reassessed, then the messages held are taken in order and the last one's place
becomes the collected mark. With no rollover ACTIVE the command does nothing. What one command takes is the model's (log 15),
and so is what the start of a rollover does to the Gate Bus: no record waits, the poll in flight is forgotten and the round is
over (logs 26, 27, 28). -/
def Obligations.RolloverStepsInOrder : Prop :=
  (∀ (s : State) (r : Rollover), Powered s → s.dev.tb.rollover = some r →
     (r.step = 1 → exec .rolloverStep s = goesTo s { s.dev with
       ae.sweeps := [], tb.rollover := some { r with step := 2, cursor := 1 } }) ∧
     (r.step = 3 → exec .rolloverStep s = goesTo s { s.dev with
       ae.roster := none, ae.latch := none, tb.rollover := some { r with step := 4, cursor := 1 } }) ∧
     (r.step = 6 → exec .rolloverStep s = goesTo s { s.dev with
       tb.cycleDay := r.nextCycle, tb.rollover := some { r with step := 7, cursor := 1 } }) ∧
     (r.step = 7 → exec .rolloverStep s = goesTo s { s.dev with
       ss.plans := s.dev.ss.plans.modify (r.cursor - 1) fun p =>
         if p.pending then ⟨p.staged.map fun e => ⟨e, 0, 0⟩, p.staged, false⟩ else p
       tb.rollover := some (if r.cursor < 8 then { r with cursor := r.cursor + 1 } else { r with step := 8, cursor := 1 }) }) ∧
     (r.step = 8 → exec .rolloverStep s = goesTo s { s.dev with
       ss := ⟨s.dev.ss.plans.map fun p => { p with active := p.active.map fun sl => ⟨sl.entry, 0, 0⟩ },
         s.dev.ss.sites.map fun v => { v with shift := 0 }, List.replicate 12 .notSet⟩
       tb.rollover := some { r with step := 9, cursor := 1 } }) ∧
     (r.step = 11 → s.dev.nu.fanout.status = .idle → exec .rolloverStep s = goesTo s { s.dev with
       tb.rollover := some { r with step := 12, cursor := 1 } }) ∧
     (r.step = 11 → s.dev.nu.fanout.status ≠ .idle → exec .rolloverStep s = goesTo s { s.dev with
       nu.fanout := { s.dev.nu.fanout with status := .idle, lastEnd := .aborted }
       op.causes := s.dev.op.causes ||| 0x020#12
       tb.rollover := some { r with step := 12, cursor := 1 } })) ∧
  (∀ (s : State) (r : Rollover), Powered s → s.dev.tb.rollover = some r → r.step = 13 →
    let ended : Device :=
      ({ s.dev with tb.missed := s.dev.tb.missed - r.taken, tb.rollover := none } : Device).raise .day
    (r.taken < s.dev.tb.missed → exec .rolloverStep s = goesTo s (startRollover .resume ended)) ∧
    (s.dev.tb.missed ≤ r.taken → exec .rolloverStep s = goesTo s (startOfDay ended))) ∧
  (∀ d : Device, let ready := reassess [0, 1, 2] d
    (d.rl.rolloverHold = [] → startOfDay d = ready) ∧
    (∀ l m, d.rl.rolloverHold = l ++ [m] →
      let handed := (l ++ [m]).foldl (fun e x => takeContent x.content e) { ready with rl.rolloverHold := [] }
      startOfDay d = { handed with
        rl.collected := m.place, rl.markDue := handed.rl.markDue && m.place != handed.rl.lastMark })) ∧
  (∀ (kind : RolloverKind) (d : Device), startRollover kind d = { d with
    tb.rollover := some ⟨kind, 1, 1, 0, d.tb.cycleDay⟩, gb.inFlight := none, gb.replyDropped := false, gb.records := []
    gb.reached := 9 }) ∧
  (∀ s : State, Powered s → s.dev.tb.rollover = none → exec .rolloverStep s = goesTo s s.dev)

/-- The steps that open the day: 4 sets the date by the kind, or ends the calendar range: the clock is INVALID, on which every zone
settles, and unlocked, the date 36,524, the day CLOSED, and step 13 follows, with cause CLOCK and nothing else changed; 5 takes the
new date, and for a RESUME every date since the old one in date order: it chooses the date's plan from the cycle day so far, which a
school day moves on but for kind SET, and walks the pupils of a term start; the plan of the new date becomes today's. Then the
exceptions dated before the new date go one by one, and step 6 follows. Which positions of the cursor the dates, the roll numbers and
the exceptions take is the model's (log 15), and so is what the end of the range leaves of the missed midnights of a MIDNIGHT or STEP
(log 17). -/
def Obligations.RolloverOpensTheDay : Prop :=
  ∀ (s : State) (r : Rollover), Powered s → s.dev.tb.rollover = some r →
    let tb := s.dev.tb
    let date := match r.kind with
      | .set day _ => day
      | .resume => tb.date + tb.missed
      | _ => tb.date + 1
    (r.step = 4 → date ≤ 36524 → exec .rolloverStep s = goesTo s { s.dev with
      tb.date := date
      tb.rollover := some { r with step := 5, cursor := 1, taken := if r.kind = .resume then tb.missed else 0 } }) ∧
    (r.step = 4 → 36524 < date →
      let loose : Device := { s.dev with tb.discipline := .unlocked, tb.lockCount := 0, tb.unlockCount := 0 }
      let unlocked : Device := if tb.discipline = .locked then loose.raise .clock else loose
      let ended := if tb.validity = .invalid then unlocked
        else settling (fun e => ({ e with tb.validity := .invalid } : Device).raise .clock) unlocked
      ∃ d, exec .rolloverStep s = goesTo s d ∧ d = ({ ended with
        tb.candidate := none, tb.date := 36524, tb.today := .closed, tb.missed := if r.kind = .resume then 0 else tb.missed
        tb.rollover := some { r with step := 13, cursor := 1, taken := 0 } } : Device).raise .clock ∧
      d.tb.validity = .invalid ∧ d.tb.discipline = .unlocked ∧ d.tb.lockCount = 0 ∧ d.tb.unlockCount = 0 ∧
      d.op.holds .clock = true) ∧
    (r.step = 5 →
      let dates := if r.kind = .resume then List.range' (tb.date + 1 - r.taken) r.taken else [tb.date]
      let place := (r.cursor - 1) / 2401
      let roll := (r.cursor - 1) % 2401
      (∀ day, dates[place]? = some day → roll = 0 →
        let soFar := if place = 0 then tb.cycleDay else r.nextCycle
        let plan := tb.planFor day soFar
        let held := plan = .closed ∨ ¬ (r.kind = .midnight ∨ r.kind = .step ∨ r.kind = .resume)
        let termStart := (tb.exceptions.find? (·.date == day)).any (·.termStart)
        exec .rolloverStep s = goesTo s { s.dev with
          tb.today := if day = tb.date then plan else tb.today
          tb.rollover := some { r with
            nextCycle := if held then soFar else if soFar < tb.cycleLength then soFar + 1 else 1
            cursor := if termStart then r.cursor + 1 else (place + 1) * 2401 + 1 } }) ∧
      (∀ day, dates[place]? = some day → roll ≠ 0 → exec .rolloverStep s = goesTo s { s.dev with
        ae.pupils := s.dev.ae.pupils.map fun p => if p.roll = roll then { p with latePoints := 0, lateMinutes := 0 } else p
        tb.rollover := some { r with cursor := r.cursor + 1 } }) ∧
      (dates[place]? = none →
        (∀ l x m, tb.exceptions = l ++ x :: m → (∀ y ∈ l, tb.date ≤ y.date) → x.date < tb.date →
          exec .rolloverStep s = goesTo s { s.dev with tb.exceptions := l ++ m }) ∧
        ((∀ x ∈ tb.exceptions, tb.date ≤ x.date) → exec .rolloverStep s = goesTo s { s.dev with
          tb.rollover := some { r with step := 6, cursor := 1 } })))

/-- The steps that walk a table take one place of it: 2 counts an UNEXPLAINED pupil's day, but for a SET from INVALID, 9 drops an
expired excuse or sets one PENDING, 10 closes a stale notice, on which what waited for its place resumes, and at the end empties the
called-today record, and 12 gives a pupil an entry and after the last roll number applies the ABSENT excuses that cover the date, in
table order. The last place of each leads to the next step. That one command takes one place is the model's (logs 15, 16). -/
def Obligations.RolloverWalksItsTables : Prop :=
  (∀ (s : State) (r : Rollover), Powered s → s.dev.tb.rollover = some r →
    let past := some { r with cursor := r.cursor + 1 }
    let next (step : Nat) := some { r with step := step, cursor := 1 }
    let on (step : Nat) := if r.cursor < 2400 then past else next step
    (r.step = 2 → (∀ day, r.kind ≠ .set day false) →
      (∀ e, s.dev.ae.entry r.cursor = some e → e.state = .unexplained → exec .rolloverStep s = goesTo s { s.dev with
        tb.rollover := on 3
        ae.pupils := s.dev.ae.pupils.map fun p =>
          if p.roll = r.cursor then { p with unexplainedDays := min 255 (p.unexplainedDays + 1) } else p }) ∧
      ((∀ e, s.dev.ae.entry r.cursor = some e → e.state ≠ .unexplained) →
        exec .rolloverStep s = goesTo s { s.dev with tb.rollover := on 3 })) ∧
    (r.step = 2 → (∃ day, r.kind = .set day false) → exec .rolloverStep s = goesTo s { s.dev with tb.rollover := next 3 }) ∧
    (r.step = 9 →
      (∀ x, s.dev.ae.excuses[r.cursor - 1]? = some x → x.last < s.dev.tb.date →
        exec .rolloverStep s = goesTo s { s.dev with ae.excuses := s.dev.ae.excuses.eraseIdx (r.cursor - 1) }) ∧
      (∀ x, s.dev.ae.excuses[r.cursor - 1]? = some x → s.dev.tb.date ≤ x.last →
        exec .rolloverStep s = goesTo s { s.dev with
          tb.rollover := past, ae.excuses := s.dev.ae.excuses.set (r.cursor - 1) { x with state := .pending } }) ∧
      (s.dev.ae.excuses[r.cursor - 1]? = none → exec .rolloverStep s = goesTo s { s.dev with tb.rollover := next 10 })) ∧
    (r.step = 10 →
      let stale (n : Notice) : Prop := n.cls ≠ .bulk ∧ n.subjectDay < s.dev.tb.date
      (∀ n, s.dev.nu.queued[r.cursor - 1]? = some n → stale n →
        ∃ d, exec .rolloverStep s = goesTo s d ∧ d.nu.queued = s.dev.nu.queued.filter (fun m => m.tag != n.tag) ∧
          QueueFallResumes s.dev d ∧ d = { s.dev with
            ae.sweeps := d.ae.sweeps, nu.urgent := d.nu.urgent, nu.routine := d.nu.routine, nu.bulk := d.nu.bulk
            nu.fanout := d.nu.fanout }) ∧
      (∀ n, s.dev.nu.queued[r.cursor - 1]? = some n → ¬ stale n →
        exec .rolloverStep s = goesTo s { s.dev with tb.rollover := past }) ∧
      (s.dev.nu.queued[r.cursor - 1]? = none → (∃ n ∈ s.dev.nu.queued, stale n) →
        exec .rolloverStep s = goesTo s { s.dev with tb.rollover := next 10 }) ∧
      (s.dev.nu.queued[r.cursor - 1]? = none → (∀ n ∈ s.dev.nu.queued, ¬ stale n) → exec .rolloverStep s = goesTo s { s.dev with
        nu.calledToday := [], tb.rollover := next 11 })) ∧
    (∀ l, r.step = 12 → (if r.cursor = 1 then some [] else s.dev.ae.roster) = some l →
      let goes (entries : List RosterEntry) : Prop :=
        let built : Device := { s.dev with ae.roster := some (l ++ entries) }
        exec .rolloverStep s = goesTo s
          (if r.cursor < 2400 then { built with tb.rollover := past }
           else { built with tb.rollover := next 13, ae := applyAbsences s.dev.tb.date built.ae })
      (s.dev.ae.pupil r.cursor = none → goes []) ∧
      (∀ p, s.dev.ae.pupil r.cursor = some p →
        let duePoint := (s.dev.ae.groups.getD p.group []).getD (s.dev.tb.cycleDay - 1) none
        (s.dev.tb.today = .closed ∨ duePoint = none →
          goes [⟨r.cursor, none, .notDue, none, none, none, none, none, none, none, true⟩]) ∧
        (∀ q, s.dev.tb.today ≠ .closed → duePoint = some q →
          goes [⟨r.cursor, some q, .expected, none, none, none, none, none, none, none, true⟩])))) ∧
  (∀ (date : Nat) (ae : Attendance),
    let absent := ae.excuses.filter fun x => x.kind == .absent && (decide (x.first ≤ date) && decide (date ≤ x.last))
    let away (a : Attendance) (x : Excuse) : Attendance := { a with
      excuses := a.excuses.map fun y =>
        if y.pupil = x.pupil ∧ y.kind = x.kind ∧ y.first = x.first then { y with state := .applied } else y
      roster := a.roster.map fun l => l.map fun e =>
        if e.roll = x.pupil then { e with state := .excusedAway, excuseRef := some ⟨x.kind, x.first⟩ } else e }
    applyAbsences date ae = absent.foldl (fun a x =>
      if (a.entry x.pupil).map (·.state) = some .expected then away a x else a) ae)

/-- The values of the two columns of Table 1-8 and of the other blocks' reset tables that retention loss gives: RETENTION_LOSS
puts every block there from any state, and then samples the inputs: an active alert input raises ALERT over all zones, a held key is
held. The strap and the sense lines are the pins' (logs 4, 5). The cause ALERT of the sampling, the cycle day and outcome of an
unused rule, the unused fields of a pattern and a round due to begin are the model's (logs 27, 29, 39). -/
def Obligations.RetentionLossGivesTheResetValues : Prop :=
  (∀ (s : State) (strap : Bool), exec (.retentionLoss strap) s = goesTo s { Device.reset with
    fastBaud := strap, sense := s.dev.sense
    su.alertLevel := s.dev.su.alertLevel, su.paKeyHeld := s.dev.su.paKeyHeld
    su.alert := if s.dev.su.alertLevel then some ⟨BitVec.allOnes 24, 0⟩ else none
    op.causes := if s.dev.su.alertLevel then Cause.restarted.bit ||| Cause.alert.bit else Cause.restarted.bit }) ∧
  (let d := Device.reset; State.reset = ⟨d, []⟩ ∧
    d.tb.date = 0 ∧ d.tb.second = 0 ∧ d.tb.tick = 0 ∧ d.tb.validity = .invalid ∧ d.tb.disciplined = false ∧
    d.tb.discipline = .unlocked ∧ d.tb.balance = 0 ∧ d.tb.candidate = none ∧ d.tb.lockCount = 0 ∧ d.tb.unlockCount = 0 ∧
    d.tb.markSilence = none ∧ d.tb.markSeen = false ∧ d.tb.lastError = none ∧ d.tb.cycleLength = 1 ∧ d.tb.cycleDay = 1 ∧
    d.tb.today = .closed ∧ d.tb.exceptions = [] ∧ d.tb.rules = List.replicate 8 ⟨0, none, .closed⟩ ∧
    d.tb.weekdays = List.replicate 7 .closed ∧ d.tb.rollover = none ∧ d.tb.missed = 0 ∧
    d.ss = ⟨List.replicate 8 ⟨[], [], false⟩, List.replicate 3 ⟨0, 0, 20, false, 0⟩, List.replicate 12 .notSet⟩ ∧
    d.ae.pupils = [] ∧ d.ae.contacts = [] ∧ d.ae.groups = List.replicate 16 (List.replicate 10 none) ∧ d.ae.roster = none ∧
    d.ae.latch = none ∧ d.ae.sweeps = [] ∧ d.ae.excuses = [] ∧ d.ae.journal = [] ∧ d.ae.nextSerial = 1 ∧ d.ae.lateStep = 0 ∧
    d.nu.queued = [] ∧ d.nu.awaiting = [] ∧ d.nu.calls = [] ∧ d.nu.calledToday = [] ∧ d.nu.nextTag = 1 ∧ d.nu.nextCall = 1 ∧
    d.nu.outcomeTimeout = 20 ∧ d.nu.fallbackDelay = 10 ∧ d.nu.fanout.status = .idle ∧ d.nu.fanout.lastEnd = .notYet ∧
    d.rl.link = .off ∧ d.rl.settings = ⟨8, 4, 400, 5, 5, 60, false⟩ ∧ d.rl.lampAuto = true ∧ d.rl.lampManual = false ∧
    d.rl.ring = [] ∧ d.rl.readPos = 0 ∧ d.rl.sendSeq = 0 ∧ d.rl.lastSeq = 0 ∧ d.rl.lastPlace = 0 ∧ d.rl.collected = 0 ∧
    d.rl.hold = false ∧ d.rl.rewindCount = 0 ∧ d.rl.clearCount = 0 ∧ d.rl.resyncTimer = false ∧ d.rl.attempts = 0 ∧
    d.rl.startOwed = false ∧ d.rl.runOwed = false ∧ d.rl.rewindOwed = false ∧ d.rl.furtherOwed = false ∧ d.rl.activity = .rest ∧
    d.rl.markHold = none ∧ d.rl.rolloverHold = [] ∧ d.rl.silence = none ∧ d.rl.frame = none ∧
    d.su.patterns = List.replicate 16 ⟨.ring, 30, 0, 0, 0, 0⟩ ∧ d.su.generators = List.replicate 4 ⟨none, none⟩ ∧
    d.su.bankA = List.replicate 24 ⟨none, false, false⟩ ∧ d.su.bankB = List.replicate 24 ⟨none, false, false⟩ ∧ d.su.active = .a ∧
    d.su.quiet = 0 ∧ d.su.alert = none ∧ d.su.alertInputZones = BitVec.allOnes 24 ∧ d.su.paRequest = 0 ∧
    d.su.paKeyZones = BitVec.allOnes 24 ∧ d.su.zones = List.replicate 24 ⟨false, false, 0, 0, none⟩ ∧
    d.gb = ⟨List.replicate 8 ⟨.disabled, 0, 0, [], [], 0, 0⟩, 0, 9, none, false, [], none⟩ ∧
    d.op = ⟨none, Cause.restarted.bit, BitVec.allOnes 12, 0, 0, 1, 0⟩)

/-- Main power lost is only that, but that records of a gate reply still waiting are taken first (log 26); with it off only the
oscillator, the two power-ups and the levels at the alert and PA pins act (log 7). Power-up with retention intact turns main
power on, reads the strap and takes the warm reset; where midnights were missed and no rollover is retained, a RESUME starts in
place of the scanner's reassessment. A power-up with power already on is taken in the same way (log 8). -/
def Obligations.PowerComesAndGoes : Prop :=
  (∀ s : State,
    (s.dev.mainPower = false ∨ s.dev.gb.records = [] → exec .mainPowerLoss s = goesTo s { s.dev with mainPower := false }) ∧
    (s.dev.mainPower = true → exec .mainPowerLoss s = goesTo s { takeWaiting s.dev with mainPower := false })) ∧
  (∀ (s : State) (strap : Bool),
    let on : State := { s with dev := { s.dev with mainPower := true, fastBaud := strap } }
    let warm := blocksWarm on.dev
    (s.dev.tb.rollover.isSome = true ∨ s.dev.tb.missed = 0 → exec (.powerUp strap) s = exec .warmReset on) ∧
    (s.dev.tb.rollover = none → 0 < s.dev.tb.missed → exec (.powerUp strap) s = goesTo s (startRollover .resume warm)) ∧
    (s.dev.tb.rollover.isSome = true → exec .warmReset on = goesTo s warm) ∧
    (s.dev.tb.rollover = none → exec .warmReset on = goesTo s (reassess [0, 1, 2] warm)) ∧
    warm.mainPower = true ∧ warm.fastBaud = strap ∧ warm.sense = s.dev.sense ∧
    warm.tb = { s.dev.tb with
      discipline := .unlocked, balance := 0, candidate := none, lockCount := 0, unlockCount := 0, lastError := none
      markSeen := false, markSilence := if s.dev.tb.disciplined then some 0 else none }) ∧
  (∀ (c : Instr) (s : State), s.dev.mainPower = false → actsUnpowered c = false → exec c s = goesTo s s.dev)

/-- A warm reset by the reset pin, and by the last byte of a RESET's reply, which is answered OK: the blocks take their tables' values
and, with no rollover ACTIVE, the scanner reassesses every site. The values: the Time Base has those of Table 1-8's second column; the
roster, the latch and the rest of the Attendance Engine are kept and the sweeps restart; the ring's notices go back as on leaving UP,
one by one to the head of their classes or to the desk, and where the link was UP every URGENT notice then old enough falls back, so
that with room for them all and none so old each class is the ring's followed by the queue's; the link is STARTING where auto-start is
ENABLED and OFF otherwise, with its settings and lamp kept; the generators, the PA request and supervision's counts fall, and the rest
of the Sounder Unit is kept; the stations are SEARCHING or DISABLED without verdicts; the Office Port holds RESTARTED alone. Then an
active alert input is taken as becoming active and a held key as held. Records of a gate reply that still wait are taken first, the
round is one due to begin, the restart guard and the last frame's mark fall, the cause ALERT of the sampling stands, and old notices
fall back in queue order: the model's (logs 26, 27, 29, 40, 47). -/
def Obligations.WarmResetKeepsAndClears : Prop :=
  (∀ (s : State) (tag : Nat), Ready s → exec (.reset tag) s = answers s tag 75 (ok .empty) s.dev) ∧
  (∀ (s : State) (r : Reply), Powered s → s.dev.op.inHand = some r →
    (r.code = 75 → r.answer.result = .ok →
      exec .replyComplete s = exec .warmReset { s with dev := { s.dev with op.inHand := none } }) ∧
    (r.code ≠ 75 ∨ r.answer.result ≠ .ok → exec .replyComplete s = goesTo s { s.dev with op.inHand := none })) ∧
  (∀ s : State, Ready s → exec .replyComplete s = goesTo s s.dev) ∧
  (∀ s : State, Powered s →
    (s.dev.tb.rollover.isSome = true → exec .warmReset s = goesTo s (blocksWarm s.dev)) ∧
    (s.dev.tb.rollover = none → exec .warmReset s = goesTo s (reassess [0, 1, 2] (blocksWarm s.dev)))) ∧
  (∀ d : Device, ∃ w : Device, blocksWarm d = sampleInputs d.su.alertLevel d.su.paKeyHeld w ∧
    let b := takeWaiting d
    let ring := d.rl.ring.map (·.notice)
    let back (c : NoticeClass) := ring.filter (·.cls == c)
    let returned := returnNotices ring 0 0 0 b
    (d.gb.records = [] → b = d) ∧ b.tb = d.tb ∧ b.ss = d.ss ∧ b.rl = d.rl ∧ b.su = d.su ∧
    w = { b with
      tb := { d.tb with
        discipline := .unlocked, balance := 0, candidate := none, lockCount := 0, unlockCount := 0, lastError := none
        markSeen := false, markSilence := if d.tb.disciplined then some 0 else none }
      ae := { b.ae with sweeps := b.ae.sweeps.map fun v =>
        { v with cursor := 1, status := if v.status = .waiting then .waiting else .running } }
      nu := { b.nu with
        urgent := w.nu.urgent, routine := w.nu.routine, bulk := w.nu.bulk, calls := w.nu.calls, nextCall := w.nu.nextCall
        fanout := w.nu.fanout }
      rl := { d.rl with
        link := if d.rl.settings.autoStart then .starting else .off
        frame := if d.rl.settings.autoStart then some .start else none
        ring := [], readPos := 0, sendSeq := 0, lastSeq := 0, lastPlace := 0, collected := 0, hold := false, rewindCount := 0
        clearCount := 0, resyncTimer := false, attempts := 0, startOwed := false, runOwed := false, rewindOwed := false
        furtherOwed := false, activity := .rest, markHold := none, rolloverHold := [], silence := none, downFor := 0
        restartGuard := false, lastMark := 0, markDue := false, idleDue := false }
      su := { d.su with
        generators := List.replicate 4 ⟨none, none⟩, paRequest := 0, paKeyHeld := false
        zones := (List.range' 1 24).map fun z =>
          let v := d.su.zone z
          { v with fault := false, bad := 0, good := 0, timer := if v.supervised && !w.engaged z then some 0 else none } }
      gb := ⟨b.gb.stations.map fun st => ⟨if st.state = .disabled then .disabled else .searching, st.site, 0, [], [], 0, 0⟩,
        0, 9, none, false, [], none⟩
      op := { b.op with inHand := none, causes := Cause.restarted.bit, changedZones := 0, changedStations := 0 } } ∧
    w.nu = (if d.rl.link = .up then fallBackAll returned else returned).nu ∧
    (b.nu.queueCount + ring.length ≤ 192 →
      d.rl.link ≠ .up ∨ (∀ n ∈ back .urgent ++ b.nu.urgent, n.age < 60 * b.nu.fallbackDelay) → w.nu = { b.nu with
        urgent := back .urgent ++ b.nu.urgent, routine := back .routine ++ b.nu.routine, bulk := back .bulk ++ b.nu.bulk }) ∧
    (d.rl.link = .up → ∀ n ∈ w.nu.urgent, n.age < 60 * b.nu.fallbackDelay)) ∧
  (∀ d : Device, sampleInputs false false d = d ∧
    sampleInputs true true d = sampleInputs false true (sampleInputs true false d)) ∧
  (∀ s : State, Powered s →
    (s.dev.su.alertLevel = false → exec (.alertInput true) s =
      goesTo s (sampleInputs true false { s.dev with su.alertLevel := true })) ∧
    exec (.paKey true) s = goesTo s (sampleInputs false true s.dev))

/-! ### The Schedule Scanner -/

/-- LOAD_PLAN: which entries pass its first check, and as what they are taken; its checks in order; and what it writes, by the plan's
standing, in plan order: ascending minute, then ROUTE_SWAP, RING, REG_START, REG_CLOSE, then the request's order. Two REG_START, or two
REG_CLOSE, of one point with a site in common are DUPLICATE; a REG_CLOSE that names a site without a REG_START of its point at or
before its minute is RANGE; a plan is in use when it is today's or a flag of its active copy is set. An action or a site bit outside
its table is refused RANGE (the model's, log 10). -/
def Obligations.LoadPlanWritesByStanding : Prop :=
  (∀ e : PlanEntryOp, (planEntry e).isSome = true ↔ e.minute ≤ 1439 ∧ 0 < e.siteMask ∧ e.siteMask < 8 ∧
    (e.action = 1 ∧ 1 ≤ e.generator ∧ e.generator ≤ 4 ∧ 1 ≤ e.pattern ∧ e.pattern ≤ 16 ∨
     e.action = 2 ∧ (e.siteMask = 1 ∨ e.siteMask = 2 ∨ e.siteMask = 4) ∨
     (e.action = 3 ∨ e.action = 4) ∧ 1 ≤ e.point ∧ e.point ≤ 4)) ∧
  (∀ (e : PlanEntryOp) (x : PlanEntry), planEntry e = some x →
    x = ⟨e.minute, BitVec.ofNat 3 e.siteMask, if e.action = 1 then .ring e.generator e.pattern else if e.action = 2 then .routeSwap
      else if e.action = 3 then .regStart e.point else .regClose e.point⟩) ∧
  (∀ l : List PlanEntry,
    (planDuplicates l = true ↔ ∃ (i j : Nat) (a b : PlanEntry), i < j ∧ l[i]? = some a ∧ l[j]? = some b ∧
      (∃ k, a.action = .regStart k ∧ b.action = .regStart k ∨ a.action = .regClose k ∧ b.action = .regClose k) ∧
      ∃ site, site ≤ 2 ∧ a.sites.getLsbD site = true ∧ b.sites.getLsbD site = true) ∧
    (∀ e, closesEarly l e = true ↔ ∃ k site, e.action = .regClose k ∧ site ≤ 2 ∧ e.sites.getLsbD site = true ∧
      ∀ o ∈ l, o.action = .regStart k → o.sites.getLsbD site = true → e.minute < o.minute)) ∧
  (∀ a b : PlanEntry,
    let rank (e : PlanEntry) : Nat := match e.action with
      | .routeSwap => 0
      | .ring _ _ => 1
      | .regStart _ => 2
      | .regClose _ => 3
    a.action.rank = rank a ∧
    (planBefore a b = true ↔ a.minute < b.minute ∨ a.minute = b.minute ∧ rank a < rank b)) ∧
  (∀ (d : Device) (plan : Nat), d.planInUse plan = true ↔
    d.tb.today = .plan plan ∨ ∃ sl ∈ (d.ss.plan plan).active, sl.fired ≠ 0 ∨ sl.passed ≠ 0) ∧
  (∀ (s : State) (tag plan : Nat) (entries : List PlanEntryOp), Ready s →
    let load := exec (.loadPlan tag plan entries) s
    (plan = 0 ∨ 8 < plan ∨ (∃ e ∈ entries, planEntry e = none) → load = refuses s tag 12 .range) ∧
    (∀ l, 1 ≤ plan → plan ≤ 8 → decodeAll planEntry entries = some l →
      (32 < l.length → load = refuses s tag 12 .full) ∧
      (l.length ≤ 32 → planDuplicates l = true → load = refuses s tag 12 .duplicate) ∧
      (l.length ≤ 32 → planDuplicates l = false → l.any (closesEarly l) = true → load = refuses s tag 12 .range) ∧
      (l.length ≤ 32 → planDuplicates l = false → l.any (closesEarly l) = false →
        (s.dev.tb.rollover.isSome = true → load = refuses s tag 12 .busy) ∧
        (s.dev.tb.rollover = none → ∃ ordered : List PlanEntry, ordered.Perm l ∧
          ordered.Pairwise (fun a b => planBefore b a = false) ∧
          (∀ m k, ordered.filter (fun e => e.minute == m && e.action.rank == k) =
            l.filter (fun e => e.minute == m && e.action.rank == k)) ∧
          (s.dev.planInUse plan = true → load = answers s tag 12 (ok .empty) { s.dev with
            ss.plans := s.dev.ss.plans.set (plan - 1) { s.dev.ss.plan plan with staged := ordered, pending := true } }) ∧
          (s.dev.planInUse plan = false → load = answers s tag 12 (ok .empty) { s.dev with
            ss.plans := s.dev.ss.plans.set (plan - 1) ⟨ordered.map fun e => ⟨e, 0, 0⟩, ordered, false⟩ })))))

/-- QUERY_PLAN gives a copy in plan order, its PENDING flag, and the flags of today's active copy; QUERY_DAY gives the day. Both
are refused BUSY during a rollover and change nothing. The site day state: CLOSED, BEFORE, and OPEN or LATE_IN_FORCE by the deadline of
the latest REG_START fired; a REG_START fired today, in any plan; and the confirm points, which a CLOSED day gives as NONE. The copy
codes are the model's (log 11), and so is what a CLOSED day gives (log 18). -/
def Obligations.PlansAndDayAreRead : Prop :=
  (∀ (s : State) (tag plan copy : Nat), Ready s →
    let read := exec (.queryPlan tag plan copy) s
    let p := s.dev.ss.plan plan
    (plan = 0 ∨ 8 < plan ∨ copy = 0 ∨ 2 < copy → read = refuses s tag 13 .range) ∧
    (1 ≤ plan → plan ≤ 8 → 1 ≤ copy → copy ≤ 2 → s.dev.tb.rollover.isSome = true → read = refuses s tag 13 .busy) ∧
    (1 ≤ plan → plan ≤ 8 → s.dev.tb.rollover = none →
      (copy = 2 → read = answers s tag 13 (ok (.plan p.staged p.pending [])) s.dev) ∧
      (copy = 1 → s.dev.tb.today ≠ .plan plan → read = answers s tag 13 (ok (.plan (p.active.map (·.entry)) p.pending [])) s.dev) ∧
      (copy = 1 → s.dev.tb.today = .plan plan → read = answers s tag 13
        (ok (.plan (p.active.map (·.entry)) p.pending (p.active.map fun sl => (sl.fired, sl.passed)))) s.dev))) ∧
  (∀ (s : State) (tag : Nat), Ready s →
    (s.dev.tb.rollover.isSome = true → exec (.queryDay tag) s = refuses s tag 17 .busy) ∧
    (s.dev.tb.rollover = none → exec (.queryDay tag) s = answers s tag 17
      (ok (.day ⟨s.dev.tb.today, s.dev.schoolDay, s.dev.ss.sites, [s.dev.dayState 0, s.dev.dayState 1, s.dev.dayState 2],
        s.dev.confirmView, [s.dev.ss.regStarted 0, s.dev.ss.regStarted 1, s.dev.ss.regStarted 2]⟩)) s.dev)) ∧
  (∀ (d : Device) (site : Nat),
    let slots := match d.tb.today with
      | .closed => []
      | .plan n => (d.ss.plan n).active
    let starts (sl : PlanSlot) : Prop := ∃ k, sl.entry.action = .regStart k
    let fired (sl : PlanSlot) : Prop := sl ∈ slots ∧ starts sl ∧ sl.fired.getLsbD site = true
    let minuteOf (sl : PlanSlot) : Nat := d.ss.effective sl.entry.minute site
    let opens := d.tb.validity = .valid ∧ ∃ sl ∈ slots, starts sl ∧ sl.entry.sites.getLsbD site = true
    (¬ opens → d.dayState site = .closed) ∧
    (opens → (∀ sl, ¬ fired sl) → d.dayState site = .before) ∧
    (∀ sl, opens → fired sl → (∀ other, fired other → minuteOf other ≤ minuteOf sl) →
      let until' := min (60 * minuteOf sl + 60 * (d.ss.site site).grace) 86399
      (d.tb.second ≤ until' → d.dayState site = .open) ∧ (until' < d.tb.second → d.dayState site = .lateInForce)) ∧
    (d.ss.regStarted site = true ↔
      ∃ p ∈ d.ss.plans, ∃ sl ∈ p.active, starts sl ∧ sl.fired.getLsbD site = true)) ∧
  (∀ d : Device, (d.tb.today ≠ .closed → d.confirmView = d.ss.confirm) ∧
    (d.tb.today = .closed → d.confirmView = d.ss.confirm.map fun _ => .notSet))

/-- SET_SITE and SET_SHIFT: refusals, clamping, and the reassessment of the site by a change of its minutes. That a flag byte
other than 0 and 1 is refused RANGE, and that TOO_LATE looks at the offset asked for, are the model's (logs 10, 20). -/
def Obligations.SiteRequestsClampAndReassess : Prop :=
  (∀ (s : State) (tag site : Nat) (offset : Int) (grace confirmDelay : Nat) (each : Bool), Ready s →
    let set := exec (.setSite tag site offset grace confirmDelay (if each then 1 else 0)) s
    let old := s.dev.ss.site site
    let new : SiteSettings := ⟨max (-60) (min 60 offset), min 20 grace, max 5 (min 60 confirmDelay), each, old.shift⟩
    let clamped : Bool := offset < -60 || 60 < offset || 20 < grace || confirmDelay < 5 || 60 < confirmDelay
    let written : Device := { s.dev with ss.sites := s.dev.ss.sites.set site new }
    (2 < site → set = refuses s tag 14 .range) ∧
    (site ≤ 2 → s.dev.tb.rollover.isSome = true → set = refuses s tag 14 .busy) ∧
    (site ≤ 2 → s.dev.tb.rollover = none → offset ≠ old.offset → s.dev.ss.regStarted site = true → set = refuses s tag 14 .tooLate) ∧
    (site ≤ 2 → s.dev.tb.rollover = none → (offset = old.offset ∨ s.dev.ss.regStarted site = false) →
      (new.offset = old.offset → set = answers s tag 14 (okClamped clamped .empty) written) ∧
      (new.offset ≠ old.offset → set = answers s tag 14 (okClamped clamped .empty) (reassess [site] written)))) ∧
  (∀ (s : State) (tag site minutes : Nat), Ready s →
    let set := exec (.setShift tag site minutes) s
    (2 < site → set = refuses s tag 15 .range) ∧
    (site ≤ 2 → s.dev.tb.rollover.isSome = true → set = refuses s tag 15 .busy) ∧
    (site ≤ 2 → s.dev.tb.rollover = none → s.dev.ss.regStarted site = true → set = refuses s tag 15 .tooLate) ∧
    (site ≤ 2 → s.dev.tb.rollover = none → s.dev.ss.regStarted site = false →
      set = answers s tag 15 (okClamped (decide (240 < minutes)) .empty) (reassess [site]
        { s.dev with ss.sites := s.dev.ss.sites.set site { s.dev.ss.site site with shift := min 240 minutes } }))) ∧
  (∀ (s : State) (tag site : Nat) (offset : Int) (grace confirmDelay flag : Nat), Ready s → 1 < flag →
    exec (.setSite tag site offset grace confirmDelay flag) s = refuses s tag 14 .range)

/-- SELECT_TODAY: its checks in order; today's plan itself changes nothing; another one becomes today's, and every site is reassessed.
Where CLOSED is reached every entry loses its due point and its excuse reference, and one in EXPECTED, EXCUSED_AWAY, PRESENT or LATE is
NOT_DUE; where CLOSED is left an entry made at the build takes the due point of the present cycle day and its state by R58, and the
ABSENT excuses that cover today are applied. Plan 0 out of range is the model's (log 12). -/
def Obligations.SelectTodayChangesThePlan : Prop :=
  ∀ (s : State) (tag n : Nat), Ready s →
    let select := exec (.selectToday tag n) s
    (n = 0 ∨ (8 < n ∧ n ≠ 255) → select = refuses s tag 16 .range) ∧
    (∀ c : DayPlanChoice, (c = .closed ∧ n = 255 ∨ 1 ≤ n ∧ n ≤ 8 ∧ c = .plan n) →
      (s.dev.tb.rollover.isSome = true → select = refuses s tag 16 .busy) ∧
      (s.dev.tb.rollover = none → s.dev.tb.validity = .invalid → select = refuses s tag 16 .state) ∧
      (s.dev.tb.rollover = none → s.dev.tb.validity = .valid → (∃ site, site ≤ 2 ∧ s.dev.ss.regStarted site = true) →
        select = refuses s tag 16 .tooLate) ∧
      (s.dev.tb.rollover = none → s.dev.tb.validity = .valid → (∀ site, site ≤ 2 → s.dev.ss.regStarted site = false) →
        (s.dev.tb.today = c → select = answers s tag 16 (ok .empty) s.dev) ∧
        (s.dev.tb.today ≠ c →
          let now : Device := { s.dev with tb.today := c }
          (s.dev.tb.today ≠ .closed → c ≠ .closed → select = answers s tag 16 (ok .empty) (reassess [0, 1, 2] now)) ∧
          let emptied (e : RosterEntry) : RosterEntry := { e with
            due := none, excuseRef := none
            state := if e.state = .expected ∨ e.state = .excusedAway ∨ e.state = .present ∨ e.state = .late then .notDue else e.state
            prior := if e.state = .out then some .notDue else e.prior }
          let dueOf (e : RosterEntry) : Option DuePoint := (s.dev.ae.pupil e.roll).bind fun p =>
            (s.dev.ae.groups.getD p.group []).getD (s.dev.tb.cycleDay - 1) none
          let came (e : RosterEntry) : Prop := e.state = .notDue ∧ e.arrivalSecond ≠ none
          let opened (e : RosterEntry) : RosterEntry := match if e.atBuild then dueOf e else none with
            | none => e
            | some q => { e with
                due := some q
                state := if e.state = .notDue then (if e.arrivalSecond = none then .expected else .present) else e.state
                prior := if e.state = .out then some .present else e.prior
                band := if e.state = .out ∨ came e then some .onTime else e.band }
          (c = .closed → select = answers s tag 16 (ok .empty) { now with
            ae.roster := s.dev.ae.roster.map fun l => l.map emptied }) ∧
          (s.dev.tb.today = .closed → select = answers s tag 16 (ok .empty) (reassess [0, 1, 2] { now with
            ae := applyAbsences s.dev.tb.date { s.dev.ae with roster := s.dev.ae.roster.map fun l => l.map opened } })))))

/-- The effective minute of an entry on a site is its minute with the site's offset and shift, clamped into the day. At the top
of a minute an open RING of one site whose effective minute it is starts its pattern and is fired; at any other minute, or once
fired, nothing is handed. A reassessment passes an open RING whose minute is behind. Two entries of any action on any sites are
handed in plan order, at their minute or when caught up. And for any plan, any flags and any confirm points: a top of the minute
walks the slots of today's plan in order, each as it then stands, fires on each its open pairs of the minute together, site by site, and
then the confirm points of the minute by point and site; a reassessment of some sites first fires their overdue points by minute, point
and site, then walks the slots with pairs behind the minute, a RING passed and any other handed, and ends as the top of the minute does.
With the clock INVALID or the day CLOSED both change nothing. A registration close queues its CLOSE sweep and sets its confirm point
or, where that is past, queues its confirm sweep; a confirm point fires at its minute. Sweeps enter their list at its end (the
model's, log 45). -/
def Obligations.BellsRingAtTheirEffectiveMinute : Prop :=
  (∀ (ss : Scanner) (m site : Nat), let sum := (m : Int) + (ss.site site).offset + (ss.site site).shift
    (sum < 0 → ss.effective m site = 0) ∧ (0 ≤ sum → sum ≤ 1439 → (ss.effective m site : Int) = sum) ∧
    (1439 < sum → ss.effective m site = 1439)) ∧
  (∀ (d : Device) (p m g i : Nat) (fired passed : SiteSet), 1 ≤ p → p ≤ d.ss.plans.length → d.tb.validity = .valid →
    d.tb.today = .plan p → (∀ c ∈ d.ss.confirm, c = .notSet) → d.ss.plan p = ⟨[⟨⟨m, 1, .ring g i⟩, fired, passed⟩], [], false⟩ →
    let isOpen := fired.getLsbD 0 = false ∧ passed.getLsbD 0 = false
    let slot (f q : SiteSet) : Scanner := { d.ss with plans := d.ss.plans.set (p - 1) ⟨[⟨⟨m, 1, .ring g i⟩, f, q⟩], [], false⟩ }
    (isOpen → d.ss.effective m 0 = d.minute → topOfMinute d = startPattern g i { d with ss := slot (fired ||| 1) passed } ∧
      reassess [0, 1, 2] d = startPattern g i { d with ss := slot (fired ||| 1) passed }) ∧
    (¬ isOpen → topOfMinute d = d ∧ reassess [0, 1, 2] d = d) ∧
    (isOpen → d.minute < d.ss.effective m 0 → topOfMinute d = d ∧ reassess [0, 1, 2] d = d) ∧
    (isOpen → d.ss.effective m 0 < d.minute → topOfMinute d = d ∧
      reassess [0, 1, 2] d = { d with ss := slot fired (passed ||| 1) })) ∧
  (∀ (d : Device) (p : Nat) (x y : PlanEntry), 1 ≤ p → p ≤ d.ss.plans.length → d.tb.validity = .valid → d.tb.today = .plan p →
    (∀ c ∈ d.ss.confirm, c = .notSet) → x.sites ≠ 0 → y.sites ≠ 0 →
    let two (f q : SiteSet) (e : Device) : Device :=
      { e with ss.plans := e.ss.plans.set (p - 1) ⟨[⟨x, f, 0⟩, ⟨y, q, 0⟩], [], false⟩ }
    let hand (e : PlanEntry) (a : Device) : Device := match e.action with
      | .ring g i => startPattern g i a
      | .routeSwap => exchangeBanks a
      | .regStart _ => a
      | .regClose k => ([0, 1, 2].filter (e.sites.getLsbD ·)).foldl (fun b s => handClose d.minute k s e.minute b) a
    d = two 0 0 d →
    ((∀ s, s ≤ 2 → d.ss.effective x.minute s = d.minute ∧ d.ss.effective y.minute s = d.minute) →
      topOfMinute d = hand y (two x.sites y.sites (hand x (two x.sites 0 d)))) ∧
    ((∀ s, s ≤ 2 → d.ss.effective x.minute s < d.minute ∧ d.ss.effective y.minute s < d.minute) →
      (∀ g i, x.action ≠ .ring g i ∧ y.action ≠ .ring g i) →
      topOfMinute d = d ∧ reassess [0, 1, 2] d = hand y (two x.sites y.sites (hand x (two x.sites 0 d))))) ∧
  (∀ (d : Device) (sites : List Nat), d.tb.validity ≠ .valid ∨ d.tb.today = .closed → topOfMinute d = d ∧ reassess sites d = d) ∧
  (∀ (d : Device) (p : Nat) (sites : List Nat), 1 ≤ p → d.tb.validity = .valid → d.tb.today = .plan p →
    let n := d.minute
    let pairs : List (Nat × Nat) := [(1, 0), (1, 1), (1, 2), (2, 0), (2, 1), (2, 2), (3, 0), (3, 1), (3, 2), (4, 0), (4, 1), (4, 2)]
    let slots (a : Device) : List PlanSlot := match a.ss.plans[p - 1]? with | none => [] | some q => q.active
    let setTo (b : SiteSet) (l : List Nat) : SiteSet := l.foldl (fun x s => x ||| (1#3 <<< s)) b
    let mark (i : Nat) (f : PlanSlot → PlanSlot) (a : Device) : Device :=
      { a with ss.plans := a.ss.plans.modify (p - 1) fun q => { q with active := q.active.modify i f } }
    let fire (i : Nat) (l : List Nat) (sl : PlanSlot) (a : Device) : Device :=
      let now := mark i (fun x => { x with fired := setTo x.fired l }) a
      match sl.entry.action with
      | .ring g k => startPattern g k now
      | .routeSwap => exchangeBanks now
      | .regStart _ => now
      | .regClose k => l.foldl (fun b s => handClose n k s sl.entry.minute b) now
    let walk (on : List Nat) (due : Nat → Prop) [DecidablePred due] (take : Nat → List Nat → PlanSlot → Device → Device)
        (a : Device) : Device :=
      (List.range (slots a).length).foldl (fun b i => match (slots b)[i]? with
        | none => b
        | some sl => match on.filter fun s => sl.entry.sites.getLsbD s && !sl.fired.getLsbD s && !sl.passed.getLsbD s &&
            decide (due (b.ss.effective sl.entry.minute s)) with
          | [] => b
          | l => take i l sl b) a
    let point (q : Nat × Nat) (a : Device) : Option ConfirmPoint := a.ss.confirm[3 * (q.1 - 1) + q.2]?
    let confirm (q : Nat × Nat) (a : Device) : Device := { a with
      ss.confirm := a.ss.confirm.set (3 * (q.1 - 1) + q.2) .firedToday
      ae.sweeps := a.ae.sweeps ++ [⟨.confirm, q.1, q.2, 1,
        if ∃ w ∈ a.ae.sweeps, w.kind = .close ∧ w.point = q.1 ∧ w.site = q.2 then .waiting else .running⟩] }
    let minute (on : List Nat) (a : Device) : Device :=
      pairs.foldl (fun b q => if q.2 ∈ on ∧ point q b = some (.setAt n) then confirm q b else b) (walk on (· = n) fire a)
    let overdue : List (Nat × Nat) := (List.range (n + 1)).flatMap fun m =>
      pairs.filter fun q => decide (q.2 ∈ sites ∧ point q d = some (.setAt m))
    let caught (i : Nat) (l : List Nat) (sl : PlanSlot) (a : Device) : Device := match sl.entry.action with
      | .ring _ _ => mark i (fun x => { x with passed := setTo x.passed l }) a
      | .routeSwap => fire i l sl a
      | .regStart _ => fire i l sl a
      | .regClose _ => fire i l sl a
    topOfMinute d = minute [0, 1, 2] d ∧
    reassess sites d = minute sites (walk sites (· < n) caught (overdue.foldl (fun a q => confirm q a) d))) ∧
  (∀ (d : Device) (n k site m : Nat),
    let c := min (d.ss.effective m site + (d.ss.site site).confirmDelay) 1439
    let place := 3 * (k - 1) + site
    let swept := d.ae.sweeps ++ [⟨.close, k, site, 1, .running⟩]
    (n < c → handClose n k site m d = { d with ae.sweeps := swept, ss.confirm := d.ss.confirm.set place (.setAt c) }) ∧
    (c ≤ n → handClose n k site m d = { d with
      ae.sweeps := swept ++ [⟨.confirm, k, site, 1, .waiting⟩], ss.confirm := d.ss.confirm.set place .firedToday })) ∧
  (∀ (d : Device) (p : Nat), d.tb.validity = .valid → d.tb.today = .plan p → (d.ss.plan p).active = [] →
    d.ss.confirm.length = 12 →
    let pairs : List (Nat × Nat) := [(1, 0), (1, 1), (1, 2), (2, 0), (2, 1), (2, 2), (3, 0), (3, 1), (3, 2), (4, 0), (4, 1), (4, 2)]
    let due (q : Nat × Nat) : Bool := d.ss.confirm[3 * (q.1 - 1) + q.2]? == some (.setAt d.minute)
    let closing (q : Nat × Nat) : Bool := d.ae.sweeps.any fun w => w.kind == .close && w.point == q.1 && w.site == q.2
    topOfMinute d = { d with
      ss.confirm := d.ss.confirm.map fun c => if c = .setAt d.minute then .firedToday else c
      ae.sweeps := d.ae.sweeps ++
        (pairs.filter due).map fun q => ⟨.confirm, q.1, q.2, 1, if closing q then .waiting else .running⟩ })

/-! ### The roll and the contacts -/

/-- LOAD_PUPIL: its checks in order, and the record, the contacts and the roster after one that is taken. -/
def Obligations.LoadPupilKeepsTheLinks : Prop :=
  ∀ (s : State) (tag roll : Nat) (card : Option Nat) (cohort group grace : Nat) (slots : List (Option Nat)), Ready s →
    let load := exec (.loadPupil tag roll card cohort group grace slots) s
    let ae := s.dev.ae
    let keys := slots.filterMap id
    let outside := roll = 0 ∨ 2400 < roll ∨ cohort = 0 ∨ 7 < cohort ∨ 15 < group ∨ card = some 0
    let unheld := ∃ k ∈ keys, ae.contactOf k = none
    let double := ¬ keys.Nodup ∨ ∃ n p, card = some n ∧ p ∈ ae.pupils ∧ p.card = some n ∧ p.roll ≠ roll
    let full := ∃ k ∈ keys, ∃ c, ae.contactOf k = some c ∧ 6 ≤ c.pupils.length ∧ roll ∉ c.pupils
    let index : Option Nat → Option Nat := fun slot => slot.bind fun k => (ae.contactOf k).map (·.index)
    let named := (slots.map index).filterMap id
    let fresh : Pupil := ⟨roll, card, cohort, group, min 30 grace, slots.map index, 0, 0, 0⟩
    let linked := ae.contacts.map fun c =>
      if c.index ∈ named then (if roll ∈ c.pupils then c else { c with pupils := c.pupils ++ [roll] })
      else { c with pupils := c.pupils.filter fun r => r != roll }
    (outside → load = refuses s tag 18 .range) ∧
    (¬ outside → s.dev.tb.rollover.isSome = true → load = refuses s tag 18 .busy) ∧
    (¬ outside → s.dev.tb.rollover = none →
      (unheld → load = refuses s tag 18 .notFound) ∧
      (¬ unheld → double → load = refuses s tag 18 .duplicate) ∧
      (¬ unheld → ¬ double → full → load = refuses s tag 18 .full) ∧
      (¬ unheld → ¬ double → ¬ full →
        (∀ p, ae.pupil roll = some p → ∃ l : List Pupil,
          load = answers s tag 18 (okClamped (decide (30 < grace)) .empty)
            { s.dev with ae.pupils := l, ae.contacts := linked } ∧
          ∀ q, q ∈ l ↔ q = { fresh with
              latePoints := p.latePoints, lateMinutes := p.lateMinutes, unexplainedDays := p.unexplainedDays } ∨
            q ∈ ae.pupils ∧ q.roll ≠ roll) ∧
        (ae.pupil roll = none → ∃ (l : List Pupil) (m : Option (List RosterEntry)),
          load = answers s tag 18 (okClamped (decide (30 < grace)) .empty)
            { s.dev with ae.pupils := l, ae.contacts := linked, ae.roster := m } ∧
          (∀ q, q ∈ l ↔ q = fresh ∨ q ∈ ae.pupils ∧ q.roll ≠ roll) ∧ m.isSome = ae.roster.isSome ∧
          ∀ old new, ae.roster = some old → m = some new → ∀ e, e ∈ new ↔
            e = ⟨roll, none, .notDue, none, none, none, none, none, none, none, false⟩ ∨ e ∈ old)))

/-- LOAD_CONTACT and DROP_CONTACT with no rollover ACTIVE: checks in order, the lowest free index for a new key, both sides of every
link, and a contact table in ascending key order left in it. A flag byte other than 0 and 1 is refused RANGE (the model's, log 10). -/
def Obligations.ContactsKeepBothSides : Prop :=
  (∀ (s : State) (tag key : Nat) (excuse notify : Bool) (pupils : List Nat), Steady s →
    let load := exec (.loadContact tag key (if excuse then 1 else 0) (if notify then 1 else 0) pupils) s
    let ae := s.dev.ae
    let outside := key = 0 ∨ pupils = [] ∨ 6 < pupils.length ∨ ∃ r ∈ pupils, r = 0 ∨ 2400 < r
    let unheld := ∃ r ∈ pupils, ae.pupil r = none
    let full := ae.contactOf key = none ∧ 4096 ≤ ae.contacts.length ∨
      ∃ r ∈ pupils, ∃ p, ae.pupil r = some p ∧ none ∉ p.slots ∧ ∀ c, ae.contactOf key = some c → some c.index ∉ p.slots
    (outside → load = refuses s tag 22 .range) ∧
    (¬ outside → unheld → load = refuses s tag 22 .notFound) ∧
    (¬ outside → ¬ unheld → ¬ pupils.Nodup → load = refuses s tag 22 .duplicate) ∧
    (¬ outside → ¬ unheld → pupils.Nodup → full → load = refuses s tag 22 .full) ∧
    (¬ outside → ¬ unheld → pupils.Nodup → ¬ full → ∃ (index : Nat) (l : List Contact),
      (∀ c, ae.contactOf key = some c → index = c.index) ∧
      (ae.contactOf key = none → 1 ≤ index ∧ index ≤ 4096 ∧ (∀ c ∈ ae.contacts, c.index ≠ index) ∧
        ∀ j, 1 ≤ j → j < index → ∃ c ∈ ae.contacts, c.index = j) ∧
      (∀ c, c ∈ l ↔ c = ⟨index, key, excuse, notify, pupils⟩ ∨ c ∈ ae.contacts ∧ c.key ≠ key) ∧
      (ae.contacts.Pairwise (·.key < ·.key) → l.Pairwise (·.key < ·.key)) ∧
      load = answers s tag 22 (ok (.contactIndex index)) { s.dev with
        ae.contacts := l
        ae.pupils := ae.pupils.map fun p =>
          if p.roll ∈ pupils then
            (if some index ∈ p.slots then p
             else { p with slots := p.slots.set (p.slots.findIdx (· == none)) (some index) })
          else { p with slots := p.slots.map fun v => if v = some index then none else v } })) ∧
  (∀ (s : State) (tag key : Nat), Steady s →
    (key = 0 → exec (.dropContact tag key) s = refuses s tag 23 .range) ∧
    (1 ≤ key → s.dev.ae.contactOf key = none → exec (.dropContact tag key) s = refuses s tag 23 .notFound) ∧
    (∀ c, 1 ≤ key → s.dev.ae.contactOf key = some c → exec (.dropContact tag key) s = answers s tag 23 (ok .empty) { s.dev with
      ae.contacts := s.dev.ae.contacts.filter fun q => q.key != key
      ae.pupils := s.dev.ae.pupils.map fun p => { p with slots := p.slots.map fun v => if v = some c.index then none else v }
      ae.excuses := s.dev.ae.excuses.map fun x => if x.source = .contact c.index then { x with source := .contact 0 } else x })) ∧
  (∀ (s : State) (tag key excuse notify : Nat) (pupils : List Nat), Ready s → 1 < excuse ∨ 1 < notify →
    exec (.loadContact tag key excuse notify pupils) s = refuses s tag 22 .range)

/-- QUERY_PUPIL, QUERY_CARD, QUERY_CONTACT, QUERY_CONTACTS and QUERY_GROUP, with no rollover ACTIVE, leave every table as it
stands. A pupil and a roster entry are found by roll number, a contact by key or by index. -/
def Obligations.RollIsRead : Prop :=
  (∀ (ae : Attendance) (n : Nat), ae.pupil n = ae.pupils.find? (·.roll == n) ∧ ae.contactOf n = ae.contacts.find? (·.key == n) ∧
    ae.contactAt n = ae.contacts.find? (·.index == n) ∧ ae.entry n = ae.roster.bind fun l => l.find? (·.roll == n)) ∧
  ∀ (s : State) (tag n : Nat), Steady s →
    let ae := s.dev.ae
    (n = 0 ∨ 2400 < n → exec (.queryPupil tag n) s = refuses s tag 20 .range) ∧
    (1 ≤ n → n ≤ 2400 → (∀ p ∈ ae.pupils, p.roll < n) → exec (.queryPupil tag n) s = refuses s tag 20 .notFound) ∧
    (∀ (i : Nat) (p : Pupil), 1 ≤ n → n ≤ 2400 → ae.pupils[i]? = some p → n ≤ p.roll →
      (∀ (j : Nat) (q : Pupil), j < i → ae.pupils[j]? = some q → q.roll < n) →
      exec (.queryPupil tag n) s = answers s tag 20 (ok (.pupil p
        (p.slots.map fun v => (v.bind ae.contactAt).map fun c => (c.index, c.key)) ae.pupils.length)) s.dev) ∧
    (n = 0 → exec (.queryCard tag n) s = refuses s tag 21 .range ∧ exec (.queryContact tag n) s = refuses s tag 24 .range) ∧
    (1 ≤ n → (∀ p ∈ ae.pupils, p.card ≠ some n) → exec (.queryCard tag n) s = refuses s tag 21 .notFound) ∧
    (∀ p, 1 ≤ n → ae.pupils.find? (·.card == some n) = some p →
      exec (.queryCard tag n) s = answers s tag 21 (ok (.rollNumber p.roll)) s.dev) ∧
    (1 ≤ n → ae.contactOf n = none → exec (.queryContact tag n) s = refuses s tag 24 .notFound) ∧
    (∀ c, 1 ≤ n → ae.contactOf n = some c → exec (.queryContact tag n) s = answers s tag 24 (ok (.contact c)) s.dev) ∧
    ((∀ c ∈ ae.contacts, c.key < n) → exec (.queryContacts tag n) s = refuses s tag 25 .notFound) ∧
    ((∃ c ∈ ae.contacts, n ≤ c.key) → exec (.queryContacts tag n) s = answers s tag 25
      (ok (.contacts ((ae.contacts.filter fun c => decide (n ≤ c.key)).take 16) ae.contacts.length)) s.dev) ∧
    (15 < n → exec (.queryGroup tag n) s = refuses s tag 27 .range) ∧
    (∀ l, n ≤ 15 → ae.groups[n]? = some l → exec (.queryGroup tag n) s = answers s tag 27 (ok (.group l)) s.dev)

/-- DROP_PUPIL takes the pupil out of every table in one event; LOAD_GROUP and CLEAR_TALLIES, with no rollover ACTIVE, write
what they name and nothing else. The bits of the choice of tallies and the count of records are the model's (logs 10, 11, 21).
-/
def Obligations.PupilTablesAreWritten : Prop :=
  (∀ (s : State) (tag roll : Nat), Ready s →
     let drop := exec (.dropPupil tag roll) s
     (roll = 0 ∨ 2400 < roll → drop = refuses s tag 19 .range) ∧
     (1 ≤ roll → roll ≤ 2400 → s.dev.tb.rollover.isSome = true → drop = refuses s tag 19 .busy) ∧
     (1 ≤ roll → roll ≤ 2400 → s.dev.tb.rollover = none → s.dev.ae.pupil roll = none → drop = refuses s tag 19 .notFound) ∧
     (1 ≤ roll → roll ≤ 2400 → s.dev.tb.rollover = none → (s.dev.ae.pupil roll).isSome = true →
       drop = answers s tag 19 (ok .empty) { s.dev with
         ae.pupils := s.dev.ae.pupils.filter fun p => p.roll != roll
         ae.excuses := s.dev.ae.excuses.filter fun x => x.pupil != roll
         ae.roster := s.dev.ae.roster.map fun l => l.filter fun e => e.roll != roll
         ae.contacts := s.dev.ae.contacts.map fun c => { c with pupils := c.pupils.filter fun r => r != roll } })) ∧
  (∀ (s : State) (tag group : Nat) (entries : List GroupEntryOp), Steady s →
    let bad : GroupEntryOp → Prop := fun e => ¬ (e.point = 0 ∧ e.site = 0) ∧ ¬ (1 ≤ e.point ∧ e.point ≤ 4 ∧ e.site ≤ 2)
    (15 < group ∨ (∃ e ∈ entries, bad e) → exec (.loadGroup tag group entries) s = refuses s tag 26 .range) ∧
    (group ≤ 15 → (∀ e ∈ entries, ¬ bad e) → exec (.loadGroup tag group entries) s = answers s tag 26 (ok .empty) { s.dev with
      ae.groups := s.dev.ae.groups.set group
        (entries.map fun e => if e.point = 0 then none else some ⟨e.point, e.site⟩) })) ∧
  (∀ (s : State) (tag roll choice : Nat), Steady s →
    let clear := exec (.clearTallies tag roll choice) s
    let cleared : Pupil → Pupil := fun p => { p with
      latePoints := if choice % 2 = 1 then 0 else p.latePoints
      lateMinutes := if choice / 2 % 2 = 1 then 0 else p.lateMinutes
      unexplainedDays := if choice / 4 = 1 then 0 else p.unexplainedDays }
    (2400 < roll ∨ choice = 0 ∨ 8 ≤ choice → clear = refuses s tag 28 .range) ∧
    (1 ≤ choice → choice < 8 →
      (1 ≤ roll → roll ≤ 2400 → s.dev.ae.pupil roll = none → clear = refuses s tag 28 .notFound) ∧
      (1 ≤ roll → roll ≤ 2400 → (s.dev.ae.pupil roll).isSome = true →
        clear = answers s tag 28 (ok (.recordCount (s.dev.ae.pupils.filter (·.roll == roll)).length))
          { s.dev with ae.pupils := s.dev.ae.pupils.map fun p => if p.roll = roll then cleared p else p }) ∧
      (roll = 0 → clear = answers s tag 28 (ok (.recordCount s.dev.ae.pupils.length))
        { s.dev with ae.pupils := s.dev.ae.pupils.map cleared })))

/-! ### The roster and its sweeps -/

/-- DESK_MARK: its checks in order, the marks and the states they are taken from, and the entry after; and the absence-notice rule,
as an arrival or an explanation, by where the notice of the tag is found: withdrawn from the queue, on which what waited for its place
resumes; in the ring; withdrawn from the awaiting-outcome table; SUPERSEDED in the desk call list; in the pupil's called-today place;
or nowhere. The follow-up ARRIVED_AFTER_CALL goes to the absence notice's contact, or to the desk where the queue is full. The marks'
codes are the model's (log 11). -/
def Obligations.DeskMarksMoveTheEntry : Prop :=
  (∀ (s : State) (tag roll mark : Nat), Ready s →
    let desk := exec (.deskMark tag roll mark) s
    let inside := 1 ≤ roll ∧ roll ≤ 2400 ∧ 1 ≤ mark ∧ mark ≤ 3
    (¬ inside → desk = refuses s tag 29 .range) ∧
    (inside → s.dev.tb.rollover.isSome = true → desk = refuses s tag 29 .busy) ∧
    (inside → s.dev.tb.rollover = none → s.dev.ae.roster = none → desk = refuses s tag 29 .state) ∧
    (inside → s.dev.tb.rollover = none → s.dev.ae.roster.isSome = true → s.dev.ae.pupil roll = none →
      desk = refuses s tag 29 .notFound)) ∧
  (∀ (s : State) (tag roll : Nat) (e : RosterEntry), Steady s → 1 ≤ roll → roll ≤ 2400 → (s.dev.ae.pupil roll).isSome = true →
    s.dev.ae.entry roll = some e →
    let onEntry (f : RosterEntry → RosterEntry) : Device := { s.dev with
      ae.roster := s.dev.ae.roster.map fun l => l.map fun x => if x.roll == roll then f x else x }
    let here : Device := onEntry fun x => { x with state := .present, band := some .desk, arrivalSecond := some s.dev.tb.second }
    let told : Device := onEntry fun x => { x with state := .explained }
    let gone : Device := onEntry fun x => { x with state := .excusedAway }
    (e.state = .expected ∨ e.state = .provisional →
      exec (.deskMark tag roll 1) s = answers s tag 29 (ok (.mark e.state .present)) here) ∧
    (e.state = .unexplained → exec (.deskMark tag roll 1) s =
      answers s tag 29 (ok (.mark .unexplained .present)) (absenceRuleFor true roll e.absenceTag here)) ∧
    (e.state = .provisional → exec (.deskMark tag roll 2) s = answers s tag 29 (ok (.mark .provisional .explained)) told) ∧
    (e.state = .unexplained → exec (.deskMark tag roll 2) s =
      answers s tag 29 (ok (.mark .unexplained .explained)) (absenceRuleFor false roll e.absenceTag told)) ∧
    (e.state = .expected → exec (.deskMark tag roll 3) s = answers s tag 29 (ok (.mark .expected .excusedAway)) gone) ∧
    (e.state ≠ .expected → exec (.deskMark tag roll 3) s = refuses s tag 29 .state) ∧
    (e.state ≠ .provisional → e.state ≠ .unexplained → exec (.deskMark tag roll 2) s = refuses s tag 29 .state) ∧
    (e.state ≠ .expected → e.state ≠ .provisional → e.state ≠ .unexplained → exec (.deskMark tag roll 1) s = refuses s tag 29 .state)) ∧
  (∀ (d : Device) (asArrival : Bool) (roll : Nat), absenceRuleFor asArrival roll none d = d ∧ ∀ t,
    let rule := absenceRuleFor asArrival roll (some t) d
    let kept (n : Notice) : Bool := n.tag != t
    let unqueued := ∀ n ∈ d.nu.queued, n.tag ≠ t
    let unsent := unqueued ∧ ∀ r ∈ d.rl.ring, r.notice.tag ≠ t
    let unlisted := unsent ∧ d.nu.awaitingOf t = none ∧ ∀ e ∈ d.nu.calls, e.holdsTag t = false
    let follows (b : Device) (contact key step : Nat) : Prop :=
      let n : Notice := ⟨b.freeTag, .arrivedAfterCall t, roll, contact, key, step, d.tb.date, d.tb.second, 0, none⟩
      let given : Device := { b with nu.nextTag := if 65535 ≤ b.freeTag then 1 else b.freeTag + 1 }
      (asArrival = false → rule = b) ∧
      (asArrival = true → d.nu.queueCount < 256 → rule = { given with nu.urgent := d.nu.urgent ++ [n] }) ∧
      (asArrival = true → 256 ≤ d.nu.queueCount → rule = addCall .queueFull true (.notice n none false) given)
    (¬ unqueued → QueueFallResumes d rule ∧ rule = { d with
      nu.urgent := d.nu.urgent.filter kept, nu.routine := d.nu.routine.filter kept, nu.bulk := d.nu.bulk.filter kept
      ae.sweeps := rule.ae.sweeps, nu.fanout := rule.nu.fanout }) ∧
    (∀ r, unqueued → d.rl.ring.find? (·.notice.tag == t) = some r → follows d r.notice.contact r.notice.key r.notice.step) ∧
    (∀ w, unsent → d.nu.awaitingOf t = some w →
      follows { d with nu.awaiting := d.nu.awaiting.filter fun v => kept v.notice } w.notice.contact w.notice.key w.notice.step) ∧
    (unsent → d.nu.awaitingOf t = none → (∃ e ∈ d.nu.calls, e.holdsTag t = true) → rule = ({ d with
      nu.calls := d.nu.calls.map fun e => match e.content with
        | .notice n o _ => if n.tag = t then { e with content := .notice n o true } else e
        | .message _ _ _ _ _ _ _ => e
        | .parentUnaware _ _ => e } : Device).raise .calls) ∧
    (∀ c, unlisted → d.nu.calledToday.find? (fun c => c.roll == roll && c.tag == t) = some c → follows d c.contact c.key c.step) ∧
    (unlisted → (∀ c ∈ d.nu.calledToday, c.roll = roll → c.tag ≠ t) → rule = d))

/-- QUERY_ROSTER, QUERY_SWEEPS, SNAPSHOT and QUERY_COUNTS, with no rollover ACTIVE: the latch holds one copy, read once. A set of
states has a bit for each state in the order of Table 4-2, and the empty set asks for every state. The counts are those of the roster's
entries due at each site by state, LATE by band, with the entries without a due point and the roster's size; all 0 while none is held.
That a state bit above OUT is out of range, that the roll number to ask again from is the next match's, and that the sweep list stands
in order of entry, are the model's (logs 10, 44, 45). -/
def Obligations.RosterAndCountsAreRead : Prop :=
  ∀ (s : State) (tag : Nat), Steady s →
    let ae := s.dev.ae
    let bit : RosterState → Nat
      | .notDue => 0
      | .expected => 1
      | .excusedAway => 2
      | .present => 3
      | .late => 4
      | .provisional => 5
      | .unexplained => 6
      | .explained => 7
      | .out => 8
    (∀ roll states, roll = 0 ∨ 2400 < roll ∨ 512 ≤ states → exec (.queryRoster tag roll states) s = refuses s tag 30 .range) ∧
    (∀ roll states, 1 ≤ roll → roll ≤ 2400 → states < 512 → ae.roster = none →
      exec (.queryRoster tag roll states) s = refuses s tag 30 .state) ∧
    (∀ roll states l, 1 ≤ roll → roll ≤ 2400 → states < 512 → ae.roster = some l →
      let found := l.filter fun e => decide (roll ≤ e.roll) && (states == 0 || states.testBit (bit e.state))
      exec (.queryRoster tag roll states) s =
        answers s tag 30 (ok (.roster (found.take 8) ((found[8]?.map (·.roll)).getD 0))) s.dev) ∧
    exec (.querySweeps tag) s = answers s tag 31 (ok (.sweeps ae.sweeps)) s.dev ∧
    (ae.roster = none → exec (.snapshot tag) s = refuses s tag 32 .state) ∧
    (ae.roster.isSome = true → ae.latch = none → exec (.snapshot tag) s =
      answers s tag 32 (ok (.snapshotSecond s.dev.tb.second)) { s.dev with ae.latch := some ⟨ae.counts, s.dev.tb.second⟩ }) ∧
    (∀ c, ae.roster.isSome = true → ae.latch = some c → exec (.snapshot tag) s =
      answers s tag 32 ⟨.ok, { alreadyLatched := true }, .snapshotSecond c.second⟩ s.dev) ∧
    (∀ c, ae.latch = some c → exec (.queryCounts tag) s =
      answers s tag 33 ⟨.ok, { latched := true }, .counts c.counts (some c.second)⟩ { s.dev with ae.latch := none }) ∧
    (ae.latch = none → exec (.queryCounts tag) s =
      answers s tag 33 ⟨.ok, { noRoster := ae.roster.isNone }, .counts ae.counts none⟩ s.dev) ∧
    (ae.roster = none → ae.counts = ⟨List.replicate 3 ⟨0, 0, 0, 0, 0, 0, 0, 0, 0, 0⟩, 0, 0⟩) ∧
    (∀ l, ae.roster = some l →
      let count (site : Nat) (f : RosterEntry → Bool) : Nat := (l.filter fun e => e.due.map (·.site) == some site && f e).length
      let inState (site : Nat) (st : RosterState) : Nat := count site (·.state == st)
      let lateBy (b : Band) (e : RosterEntry) : Bool := e.state == .late && e.band == some b
      let counted (site : Nat) : SiteCounts := {
        due := count site fun _ => true
        expected := inState site .expected
        present := inState site .present
        late := count site fun e => lateBy .late e || lateBy .lateExcused e
        veryLate := count site (lateBy .veryLate)
        provisional := inState site .provisional
        unexplained := inState site .unexplained
        explained := inState site .explained
        excusedAway := inState site .excusedAway
        out := inState site .out }
      ae.counts = ⟨[counted 0, counted 1, counted 2], (l.filter (·.due == none)).length, l.length⟩)

/-- A CLOSE sweep's step takes the entry at its cursor and moves on; after roll number 2400 it leaves the list and the confirm
sweep waiting behind it runs. -/
def Obligations.CloseSweepMakesProvisional : Prop :=
  ∀ (s : State) (k site : Nat), Powered s →
    let ae := s.dev.ae
    (ae.sweep .close k site = none → exec (.closeSweepStep k site) s = goesTo s s.dev) ∧
    (∀ w, ae.sweep .close k site = some w →
      let swept := ae.roster.map fun l => l.map fun e =>
        if e.roll = w.cursor ∧ e.due = some ⟨k, site⟩ ∧ e.state = .expected then { e with state := .provisional } else e
      let mine : Sweep → Bool := fun v => v.kind == .close && v.point == k && v.site == site
      (w.cursor < 2400 → exec (.closeSweepStep k site) s = goesTo s { s.dev with
        ae.roster := swept
        ae.sweeps := ae.sweeps.map fun v => if mine v then { v with cursor := w.cursor + 1 } else v }) ∧
      (2400 ≤ w.cursor → exec (.closeSweepStep k site) s = goesTo s { s.dev with
        ae.roster := swept
        ae.sweeps := (ae.sweeps.filter fun v => !mine v).map fun v =>
          if v.kind = .confirm ∧ v.point = k ∧ v.site = site ∧ v.status = .waiting then { v with status := .running } else v }))

/-- A confirm sweep's step at a PROVISIONAL entry of its point: a LATE_EXPECTED excuse explains it; a contact that may be notified and
a full queue pause the sweep; with room the entry is UNEXPLAINED and its notice queued; without a contact the notice goes to the desk
at once, with the tag of its composition, which the entry holds. The step that takes roll number 2400 ends the sweep, which leaves the
list. A sweep not RUNNING takes no step. The contact that may be notified is the first of the pupil's slots, in slot order, whose
contact has MAY_NOTIFY; a later step looks past its slot. That a notice without a contact has key 0 is the model's (log 43). -/
def Obligations.ConfirmSweepMakesUnexplained : Prop :=
  ∀ (s : State) (k site : Nat), Powered s →
    let ae := s.dev.ae
    let step := exec (.confirmSweepStep k site) s
    ((∀ w, ae.sweep .confirm k site = some w → w.status ≠ .running) → step = goesTo s s.dev) ∧
    (∀ w, ae.sweep .confirm k site = some w → w.status = .running →
      let mine : Sweep → Bool := fun v => v.kind == .confirm && v.point == k && v.site == site
      let onward (d : Device) : Device := { d with
        ae.sweeps := if w.cursor < 2400 then d.ae.sweeps.map fun v => if mine v then { v with cursor := w.cursor + 1 } else v
          else d.ae.sweeps.filter fun v => !mine v }
      (∀ e, ae.entry w.cursor = some e → e.due ≠ some ⟨k, site⟩ ∨ e.state ≠ .provisional → step = goesTo s (onward s.dev)) ∧
      (ae.entry w.cursor = none → step = goesTo s (onward s.dev)) ∧
      (∀ e, ae.entry w.cursor = some e → e.due = some ⟨k, site⟩ → e.state = .provisional →
        (∀ x, ae.excuseFor e.roll .lateExpected s.dev.tb.date = some x →
          step = goesTo s (onward (s.dev.onAe (Attendance.excuseTaken x .explained)))) ∧
        (ae.excuseFor e.roll .lateExpected s.dev.tb.date = none →
          (∀ n c, ae.notifiable e.roll 0 = some (n, c) → 256 ≤ s.dev.nu.queueCount → step = goesTo s { s.dev with
            ae.sweeps := ae.sweeps.map fun v => if mine v then { v with status := .paused } else v }) ∧
          (∀ n c, ae.notifiable e.roll 0 = some (n, c) → s.dev.nu.queueCount < 256 → step = goesTo s (onward { s.dev with
            ae.roster := ae.roster.map fun l => l.map fun x =>
              if x.roll == e.roll then { x with state := .unexplained, absenceTag := some s.dev.freeTag } else x
            nu.urgent := s.dev.nu.urgent ++
              [⟨s.dev.freeTag, .absentUnexplained, e.roll, c.index, c.key, n, s.dev.tb.date, s.dev.tb.second, 0, none⟩]
            nu.nextTag := if 65535 ≤ s.dev.freeTag then 1 else s.dev.freeTag + 1 })) ∧
          (ae.notifiable e.roll 0 = none → ∃ d, step = goesTo s d ∧
            d = onward (toCalls .noContact none
              ⟨s.dev.freeTag, .absentUnexplained, e.roll, 0, 0, 1, s.dev.tb.date, s.dev.tb.second, 0, none⟩ { s.dev with
                ae.roster := ae.roster.map fun l => l.map fun x =>
                  if x.roll == e.roll then { x with state := .unexplained, absenceTag := some s.dev.freeTag } else x
                nu.nextTag := if 65535 ≤ s.dev.freeTag then 1 else s.dev.freeTag + 1 }) ∧
            d.ae = (onward { s.dev with
              ae.roster := ae.roster.map fun l => l.map fun x =>
                if x.roll == e.roll then { x with state := .unexplained, absenceTag := some s.dev.freeTag } else x }).ae ∧
            d.nu.queued = s.dev.nu.queued ∧
            (s.dev.nu.calls.length < 128 → ∃ number : Nat, ∃ call ∈ d.nu.calls, call = ⟨number, .noContact, true, s.dev.tb.second,
              s.dev.tb.date, .notice ⟨s.dev.freeTag, .absentUnexplained, e.roll, 0, 0, 1, s.dev.tb.date, s.dev.tb.second, 0, none⟩
              none false⟩) ∧
            (128 ≤ s.dev.nu.calls.length → d.nu.calls = s.dev.nu.calls ∧ d.op.holds .callsFull = true))))) ∧
  (∀ (ae : Attendance) (roll after : Nat),
    let may (p : Pupil) (k : Nat) (c : Contact) : Prop :=
      after < k ∧ (∃ i, p.slots[k - 1]? = some (some i) ∧ ae.contactAt i = some c) ∧ c.mayNotify = true
    (∀ k c, ae.notifiable roll after = some (k, c) ↔
      ∃ p, ae.pupil roll = some p ∧ may p k c ∧ ∀ j other, j < k → ¬ may p j other) ∧
    (ae.notifiable roll after = none ↔ ∀ p k c, ae.pupil roll = some p → ¬ may p k c))

/-! ### Arrivals -/

/-- The band of an arrival at second a by Table 5-2, its lateness minutes, and the deadline: for a due point whose start minute
today's plan gives, with the close second 86,399 where the plan holds none, the pupil's own grace where it has one, and
LATE_EXCUSED while a LATE_EXPECTED excuse covers the second. A point the plan does not open is ON_TIME. An entry is judged at its due
point. -/
def Obligations.LatenessIsJudged : Prop :=
  ∀ (d : Device) (p : Pupil) (q : DuePoint),
    let a := d.tb.second
    let slots := match d.tb.today with
      | .closed => []
      | .plan n => (d.ss.plan n).active
    let minuteOf (act : PlanAction) : Option Nat :=
      (slots.find? fun sl => sl.entry.action == act && sl.entry.sites.getLsbD q.site).map fun sl => d.ss.effective sl.entry.minute q.site
    (∀ e : RosterEntry, e.due = some q → d.judge p e = d.judgeAt p q) ∧
    (minuteOf (.regStart q.point) = none → d.judgeAt p q = (.onTime, 0)) ∧
    (∀ es, minuteOf (.regStart q.point) = some es →
      let bell := 60 * es
      let close := match minuteOf (.regClose q.point) with
        | some ec => 60 * ec
        | none => 86399
      let grace := if p.grace = 0 then (d.ss.site q.site).grace else p.grace
      let dl := min (bell + 60 * grace) 86399
      let excused := ∃ x, d.ae.excuseFor p.roll .lateExpected d.tb.date = some x ∧ a ≤ 60 * x.minute + 59
      (a ≤ bell → d.judgeAt p q = (.onTime, 0)) ∧
      (bell < a → a ≤ close → a ≤ dl → d.judgeAt p q = (.grace, 0)) ∧
      (bell < a → close < a →
        (excused → (d.judgeAt p q).1 = .lateExcused) ∧ (¬ excused → (d.judgeAt p q).1 = .veryLate)) ∧
      (bell < a → a ≤ close → dl < a →
        (excused → (d.judgeAt p q).1 = .lateExcused) ∧ (¬ excused → (d.judgeAt p q).1 = .late)) ∧
      (bell < a → close < a ∨ dl < a →
        60 * ((d.judgeAt p q).2 - 1) < a - bell ∧ a - bell ≤ 60 * (d.judgeAt p q).2))

/-- What the Attendance Engine does with an arrival: an unresolved number, an untimed one, and a timed arrival by the state of the
entry it finds: each of the five states it is judged from, with each band, or one it is not. Each appends one journal record, before
the notices of a judged arrival: the absence-notice rule's, LATE_RECORDED, LATE_PATTERN. The verdict of each band; the pupil a record
resolves to, by roll number when keyed and else by card; the LEAVING_EARLY excuse that covers a sign-out, from 30 minutes before its
minute on; the journal record; and how a lateness notice and LEFT_SITE are composed. That LEFT_SITE without a contact has key 0 is the
model's (log 43). -/
def Obligations.ArrivalsAreTaken : Prop :=
  (∀ (d : Device) (a : Arrival),
    let verdict (v : Verdict) (roll lateness : Nat) (e : Option RosterEntry) : VerdictRecord := ⟨v, roll, lateness,
      e.bind fun e => e.due.bind fun q => if q.site = a.site then none else some q.site, d.tb.second⟩
    (d.resolve a = none →
      takeArrival a d = (verdict .unknownCard 0 0 none,
        appendJournal (journalOf a false (verdict .unknownCard 0 0 none) false d.tb.date) d)) ∧
    (∀ p, d.resolve a = some p → (d.tb.validity = .invalid ∨ d.ae.roster = none) →
      takeArrival a d = (verdict .untimed p.roll 0 none,
        appendJournal (journalOf a true (verdict .untimed p.roll 0 none) false d.tb.date) d)) ∧
    (∀ p e, d.resolve a = some p → d.tb.validity = .valid → d.ae.entry p.roll = some e →
      let onEntry (f : RosterEntry → RosterEntry) : Device := { d with
        ae.roster := d.ae.roster.map fun l => l.map fun x => if x.roll == e.roll then f x else x }
      let plain (v : Verdict) (f : RosterEntry) := takeArrival a d =
        (verdict v e.roll 0 (some e), appendJournal (journalOf a true (verdict v e.roll 0 (some e)) false d.tb.date) (onEntry fun _ => f))
      (a.inward = true → e.state = .present ∨ e.state = .late → plain .alreadyIn e) ∧
      (a.inward = true → e.state = .notDue →
        plain .notExpected { e with arrivalSecond := some (e.arrivalSecond.getD d.tb.second) }) ∧
      (a.inward = true → e.state = .out → ∀ before, e.prior = some before →
        plain .returned { e with state := before, returnSecond := some d.tb.second, prior := none }) ∧
      (a.inward = false → e.state ≠ .present → e.state ≠ .late → e.state ≠ .notDue → plain .notIn e) ∧
      (∀ b m, a.inward = true →
        (e.state = .expected ∨ e.state = .provisional ∨ e.state = .unexplained ∨ e.state = .explained ∨ e.state = .excusedAway) →
        d.judge p e = (b, m) →
        let excused := e.state = .explained ∨ e.state = .excusedAway
        let points := min 255 (p.latePoints + if b = .late then 1 else if b = .veryLate then 2 else 0)
        let mark (r : ExcuseRef) (st : ExcuseState) (l : List Excuse) : List Excuse :=
          l.map fun x => if x.pupil = e.roll ∧ x.kind = r.kind ∧ x.first = r.first then { x with state := st } else x
        let arrived (ref : RosterEntry → Option ExcuseRef) (excuses : List Excuse) : Device :=
          appendJournal (journalOf a true (verdict b.verdict e.roll m (some e)) (decide (e.state ≠ .expected)) d.tb.date)
            { onEntry (fun x => { x with
                state := if b = .onTime ∨ b = .grace then .present else .late
                band := some b, arrivalSecond := some d.tb.second, excuseRef := ref x }) with
              ae.excuses := excuses
              ae.pupils := d.ae.pupils.map fun x => if x.roll == p.roll then
                { p with latePoints := points, lateMinutes := min 65535 (p.lateMinutes + m) } else x }
        let recorded (c : Device) : Device := match e.due with
          | some q => if (d.ss.site q.site).notifyEachLate then composeLateness (.lateRecorded b m) e.roll c else c
          | none => c
        let patterned (c : Device) : Device :=
          if d.ae.lateStep ≠ 0 ∧ p.latePoints / d.ae.lateStep < points / d.ae.lateStep then
            composeLateness (.latePattern points b) e.roll c
          else c
        let takes (c : Device) : Prop :=
          let told := if e.state = .unexplained ∨ e.state = .explained then absenceRuleFor true e.roll e.absenceTag c else c
          takeArrival a d =
            (verdict b.verdict e.roll m (some e), if b = .late ∨ b = .veryLate then patterned (recorded told) else told)
        let overridden (r : ExcuseRef) := excused ∧ e.excuseRef = some r
        let before (refd : RosterEntry → Option ExcuseRef) (further : List Excuse → List Excuse) : Prop :=
          (∀ r, overridden r → takes (arrived refd (further (mark r .overridden d.ae.excuses)))) ∧
          ((∀ r, ¬ overridden r) → takes (arrived refd (further d.ae.excuses)))
        (b ≠ .lateExcused → before (·.excuseRef) id) ∧
        (∀ x, b = .lateExcused → d.ae.excuseFor e.roll .lateExpected d.tb.date = some x →
          (overridden ⟨.lateExpected, x.first⟩ → before (·.excuseRef) id) ∧
          (¬ overridden ⟨.lateExpected, x.first⟩ →
            before (fun _ => some ⟨.lateExpected, x.first⟩) (mark ⟨.lateExpected, x.first⟩ .applied)))) ∧
      (a.inward = false → e.state = .present ∨ e.state = .late ∨ e.state = .notDue →
        let left := onEntry fun x => { x with state := .out, prior := some x.state, signOut := some a.reason, returnSecond := none }
        let record := journalOf a true (verdict .signedOut e.roll 0 (some e)) false d.tb.date
        (∀ x, d.leavingExcuse e.roll = some x → takeArrival a d = (verdict .signedOut e.roll 0 (some e),
          appendJournal record (left.onAe (Attendance.excuseTaken x .out)))) ∧
        (d.leavingExcuse e.roll = none → takeArrival a d = (verdict .signedOut e.roll 0 (some e),
          composeLeftSite a.reason e.roll (appendJournal record left)))))) ∧
  (Band.verdict .onTime = .onTime ∧ Band.verdict .grace = .grace ∧ Band.verdict .late = .late ∧ Band.verdict .veryLate = .veryLate ∧
    Band.verdict .lateExcused = .lateExcused) ∧
  (∀ (d : Device) (body : NoticeBody) (roll : Nat), body.cls = .routine →
    (d.ae.notifiable roll 0 = none → composeLateness body roll d = d) ∧
    (∀ k c, d.ae.notifiable roll 0 = some (k, c) →
      let n : Notice := ⟨d.freeTag, body, roll, c.index, c.key, k, d.tb.date, d.tb.second, 0, none⟩
      let given : Device := { d with nu.nextTag := if 65535 ≤ d.freeTag then 1 else d.freeTag + 1 }
      (d.nu.queueCount < 240 → composeLateness body roll d = { given with nu.routine := d.nu.routine ++ [n] }) ∧
      (240 ≤ d.nu.queueCount → composeLateness body roll d = toCalls .queueFull none n given))) ∧
  (∀ (d : Device) (a : Arrival),
    (a.keyed = true → d.resolve a =
      if 1 ≤ a.number ∧ a.number ≤ 2400 then d.ae.pupils.find? (·.roll == a.number) else none) ∧
    (a.keyed = false → d.resolve a = d.ae.pupils.find? (·.card == some a.number))) ∧
  (∀ (d : Device) (roll : Nat) (x : Excuse),
    (∀ kind date, d.ae.excuseFor roll kind date = d.ae.excuses.find? fun y =>
      y.pupil == roll && y.kind == kind && (decide (y.first ≤ date) && decide (date ≤ y.last))) ∧
    (d.leavingExcuse roll = some x ↔
      d.ae.excuseFor roll .leavingEarly d.tb.date = some x ∧ 60 * (x.minute - 30) ≤ d.tb.second)) ∧
  (∀ (a : Arrival) (resolved overridden : Bool) (v : VerdictRecord) (date : Nat), journalOf a resolved v overridden date = {
    serial := 0
    date := date
    second := v.second
    station := a.station
    roll := v.roll
    card := if a.keyed = true ∧ resolved = true then 0 else a.number
    direction := if a.inward then .inward else .outward
    signOut := if a.inward then none else some a.reason
    verdict := v.verdict
    lateness := v.lateness
    wrongSite := v.dueSite.isSome
    excuseOverridden := overridden
    keyed := a.keyed }) ∧
  (∀ (d : Device) (reason : SignOut) (roll : Nat),
    let n (contact key step : Nat) : Notice :=
      ⟨d.freeTag, .leftSite reason, roll, contact, key, step, d.tb.date, d.tb.second, 0, none⟩
    let given : Device := { d with nu.nextTag := if 65535 ≤ d.freeTag then 1 else d.freeTag + 1 }
    let asked := composeLeftSite reason roll d
    (d.ae.notifiable roll 0 = none → asked = addCall .noContact true (.notice (n 0 0 1) none false) given) ∧
    (∀ k c, d.ae.notifiable roll 0 = some (k, c) →
      (d.nu.queueCount < 256 → asked = { given with nu.urgent := d.nu.urgent ++ [n c.index c.key k] }) ∧
      (256 ≤ d.nu.queueCount → asked = addCall .queueFull true (.notice (n c.index c.key k) none false) given)))

/-- The journal appends with the next serial and JOURNAL; at 1024 the oldest goes first, and one not yet read moves the read
cursor on and counts as lost. READ_JOURNAL releases, answers with up to 8 unread records, and clears the lost count. -/
def Obligations.JournalIsKeptAndRead : Prop :=
  (∀ (d : Device) (r : JournalRecord),
    let n := d.ae.nextSerial
    let after (l : List JournalRecord) : Device := ({ d with
      ae.journal := l ++ [{ r with serial := n }], ae.nextSerial := if 16777215 ≤ n then 1 else n + 1 } : Device).raise .journal
    (d.ae.journal.length < 1024 → appendJournal r d = after d.ae.journal) ∧
    (∀ oldest l, d.ae.journal = oldest :: l → 1024 ≤ d.ae.journal.length →
      (oldest.serial ≠ d.op.readCursor → appendJournal r d = after l) ∧
      (oldest.serial = d.op.readCursor → appendJournal r d = { after l with
        op.readCursor := if 16777215 ≤ oldest.serial then 1 else oldest.serial + 1
        op.lostCount := min 65535 (d.op.lostCount + 1)
        op.causes := d.op.causes ||| 0x004#12 }))) ∧
  (∀ (s : State) (tag serial : Nat), Ready s →
    let unread := s.dev.ae.journal.dropWhile fun r => r.serial != s.dev.op.readCursor
    ((∀ r ∈ unread, r.serial ≠ serial) → exec (.readJournal tag serial) s =
      answers s tag 72 ⟨.ok, { releaseIgnored := serial != 0 }, .journal (unread.take 8) unread.length s.dev.op.lostCount⟩
        { s.dev with op.lostCount := 0 }) ∧
    ((∃ r ∈ unread, r.serial = serial) → 1 ≤ serial → ∃ cursor, cursor = (if 16777215 ≤ serial then 1 else serial + 1) ∧
      let left := s.dev.ae.journal.dropWhile fun r => r.serial != cursor
      exec (.readJournal tag serial) s =
        answers s tag 72 ⟨.ok, {}, .journal (left.take 8) left.length s.dev.op.lostCount⟩
          { s.dev with op.readCursor := cursor, op.lostCount := 0 }))

/-! ### Excuses and parent messages -/

/-- Recording an excuse keeps entries of one pupil and kind apart: none overlaps or touches another (R92). It replaces the entries of
the new excuse's pupil and kind that overlap or touch its days, and no other entry, by one that covers them all and the new days, with
the new minute and source. -/
def Obligations.MergingKeepsExcusesApart : Prop :=
  ∀ (new : Excuse) (table : List Excuse), new.first ≤ new.last → (∀ x ∈ table, x.first ≤ x.last) →
    let apart : Excuse → Excuse → Prop := fun a b => a.pupil = b.pupil → a.kind = b.kind → a.last + 1 < b.first ∨ b.last + 1 < a.first
    let found := table.filter fun x => decide (x.pupil = new.pupil ∧ x.kind = new.kind ∧ x.first ≤ new.last + 1 ∧ new.first ≤ x.last + 1)
    let m := mergedIn new table
    (table.Pairwise apart → (recordIn new table).Pairwise apart) ∧
    (∀ x, x ∈ recordIn new table ↔ x = m ∨ x ∈ table ∧ ¬ x ∈ found) ∧
    m.pupil = new.pupil ∧ m.kind = new.kind ∧ m.minute = new.minute ∧ m.source = new.source ∧
    m.first ≤ new.first ∧ new.last ≤ m.last ∧ (∀ x ∈ found, m.first ≤ x.first ∧ x.last ≤ m.last) ∧
    (m.first = new.first ∨ ∃ x ∈ found, m.first = x.first) ∧ (m.last = new.last ∨ ∃ x ∈ found, m.last = x.last) ∧
    ((∃ x ∈ found, x.state = .overridden) → m.state = .overridden) ∧
    ((∀ x ∈ found, x.state ≠ .overridden) → (∃ x ∈ found, x.state = .applied) → m.state = .applied) ∧
    ((∀ x ∈ found, x.state = .pending) → m.state = .pending) ∧
    (recordIn new table).length + found.length = table.length + 1

/-- ADD_EXCUSE, REMOVE_EXCUSE and QUERY_EXCUSES. An excuse added is merged into the table, and a reference to an entry it is
merged with moves to the merged entry. One that does not cover today, or finds no entry of its pupil, changes no entry's state;
one that does acts by Table 4-5. QUERY_EXCUSES gives the source as the desk or the contact's key, 0 for a dropped contact. The codes of
the kinds are the model's (log 11). -/
def Obligations.ExcuseRequestsKeepTheTable : Prop :=
  let codeOf : ExcuseKind → Nat
    | .absent => 1
    | .lateExpected => 2
    | .leavingEarly => 3
  (∀ (s : State) (tag roll kind first last minute : Nat), Ready s →
    let add := exec (.addExcuse tag roll kind first last minute) s
    let outside := roll = 0 ∨ 2400 < roll ∨ kind = 0 ∨ 3 < kind ∨ 36524 < first ∨ 36524 < last ∨ last < first ∨ last < s.dev.tb.date
    (outside → add = refuses s tag 36 .range) ∧
    (¬ outside → s.dev.tb.rollover.isSome = true → add = refuses s tag 36 .busy) ∧
    (¬ outside → s.dev.tb.rollover = none → s.dev.ae.pupil roll = none → add = refuses s tag 36 .notFound) ∧
    (¬ outside → s.dev.tb.rollover = none → (s.dev.ae.pupil roll).isSome = true → ∀ k, kind = codeOf k →
      let new : Excuse := ⟨roll, k, first, last, if k = .absent then 0 else min 1439 minute, .desk, .pending⟩
      let m := mergedIn new s.dev.ae.excuses
      let table := recordIn new s.dev.ae.excuses
      let ref : ExcuseRef := ⟨k, m.first⟩
      let clamped : Bool := k != .absent && decide (1439 < minute)
      let base : Device := { s.dev with
        ae.excuses := table
        ae.roster := s.dev.ae.roster.map fun l => l.map fun x =>
          if x.roll = roll ∧ ∃ y ∈ s.dev.ae.excuses, y.pupil = roll ∧ y.kind = k ∧ y.first ≤ last + 1 ∧ first ≤ y.last + 1 ∧
              x.excuseRef = some ⟨y.kind, y.first⟩ then
            { x with excuseRef := some ref } else x }
      let moved (st : RosterState) : Device := { base with
        ae.excuses := table.map fun x => if x.pupil = roll ∧ x.kind = k ∧ x.first = m.first then { x with state := .applied } else x
        ae.roster := s.dev.ae.roster.map fun l => l.map fun x =>
          if x.roll = roll then { x with state := st, excuseRef := some ref } else x }
      let gives (r : RosterResult) (d : Device) : Prop :=
        add = answers s tag 36 (okClamped clamped (.excuseAdded m.first m.last table.length r)) d
      (512 < table.length → add = refuses s tag 36 .full) ∧
      (table.length ≤ 512 →
        (s.dev.ae.entry roll = none ∨ s.dev.tb.date < m.first → gives .unchanged base) ∧
        (∀ e, s.dev.ae.entry roll = some e → m.first ≤ s.dev.tb.date →
          (k = .leavingEarly ∨ e.state = .notDue ∨ e.state = .excusedAway ∨ e.state = .explained → gives .unchanged base) ∧
          (k = .lateExpected → e.state = .expected → gives .unchanged base) ∧
          (k ≠ .leavingEarly → e.state = .present ∨ e.state = .late ∨ e.state = .out → gives .alreadyIn base) ∧
          (k = .absent → e.state = .expected → gives .changed (moved .excusedAway)) ∧
          (k ≠ .leavingEarly → e.state = .provisional → gives .changed (moved .explained)) ∧
          (k ≠ .leavingEarly → e.state = .unexplained →
            gives .changed (absenceRuleFor false roll e.absenceTag (moved .explained))))))) ∧
  (∀ (s : State) (tag roll kind day : Nat), Ready s →
    let remove := exec (.removeExcuse tag roll kind day) s
    let outside := roll = 0 ∨ 2400 < roll ∨ kind = 0 ∨ 3 < kind ∨ 36524 < day
    (outside → remove = refuses s tag 37 .range) ∧
    (¬ outside → s.dev.tb.rollover.isSome = true → remove = refuses s tag 37 .busy) ∧
    (¬ outside → s.dev.tb.rollover = none → ∀ k, kind = codeOf k →
      (s.dev.ae.excuseFor roll k day = none → remove = refuses s tag 37 .notFound) ∧
      (∀ x, s.dev.ae.excuseFor roll k day = some x → remove = answers s tag 37 (ok (.excuseRemoved x.first x.last)) { s.dev with
        ae.excuses := s.dev.ae.excuses.filter fun y => !(y.pupil == roll && y.kind == k && y.first == x.first)
        ae.roster := s.dev.ae.roster.map fun l => l.map fun e =>
          if e.roll = roll ∧ e.excuseRef = some ⟨k, x.first⟩ then { e with excuseRef := none } else e }))) ∧
  (∀ (s : State) (tag day roll : Nat), Steady s →
    (36524 < day ∨ 2400 < roll → exec (.queryExcuses tag day roll) s = refuses s tag 38 .range) ∧
    (day ≤ 36524 → roll ≤ 2400 → exec (.queryExcuses tag day roll) s = answers s tag 38
      (ok (.excuses (((s.dev.ae.excuses.dropWhile fun x =>
        decide (x.first < day) || (x.first == day && decide (x.pupil < roll))).take 8).map fun x => (x, s.dev.ae.sourceKey x))
        s.dev.ae.excuses.length)) s.dev)) ∧
  (∀ (ae : Attendance) (x : Excuse),
    (x.source = .desk → ae.sourceKey x = 0) ∧
    (∀ i, x.source = .contact i →
      (∀ c, ae.contactAt i = some c → ae.sourceKey x = c.key) ∧ (ae.contactAt i = none → ae.sourceKey x = 0)))

/-- The one acknowledgement of a parent message. For a message whose ACK_PARENT finds room in the queue it alone is queued, last among
the ROUTINE notices, to the sender's contact and key. Its code for an unknown sender, a sender without pupils, free text, a sender
without MAY_EXCUSE, a message that cannot be recorded, and recorded excuses by their roster results; the desk call entry of a message
not authorised or not recorded; and the entry after a lone excuse, by Table 4-5. Then, whatever the queue holds, all that a message
handed on does: its desk call entry, its excuses recorded and applied in target order, and its acknowledgement, which goes to the desk
call list where the queue is full. The excuses a message makes, one a target; when it records none; and what recording and applying one
excuse does. The pupil and the days an acknowledgement carries where the rules do not say are the model's (log 40). -/
def Obligations.ParentMessagesAreAcknowledged : Prop :=
  (∀ (d : Device) (m : ParentMessage), d.nu.queueCount < 240 →
    let sender := d.ae.sender m.key
    let after := takeMessage m d
    let acked (code : AckCode) (contact first last : Nat) : Prop := ∃ n : Notice, after.nu.routine = d.nu.routine ++ [n] ∧
      n.body = .ackParent code m.intent m.roll first last ∧ n.contact = contact ∧ n.key = m.key ∧ n.step = 1 ∧
      n.pupil = (match sender with | some c => if m.roll ∈ c.pupils then m.roll else 0 | none => 0) ∧ n.subjectDay = d.tb.date ∧
      n.composed = d.tb.second ∧ n.age = 0 ∧ n.kept = none
    let desk (reason : CallReason) (urgent : Bool) (c : Contact) : Prop :=
      (d.nu.calls.length < 128 → ∃ number : Nat, ⟨number, reason, urgent, d.tb.second, d.tb.date,
        .message c.index m.key m.roll m.intent m.dayCount m.minute m.number⟩ ∈ after.nu.calls) ∧
      (128 ≤ d.nu.calls.length → after.nu.calls = d.nu.calls ∧ after.op.holds .callsFull = true)
    (sender = none → acked .unknownPupil 0 0 0) ∧
    (∀ c, sender = some c → c.pupils = [] → acked .unknownPupil c.index 0 0) ∧
    (∀ c, sender = some c → c.pupils ≠ [] → m.intent = 5 →
      (d.nu.calls.length < 128 → acked .accepted c.index 0 0) ∧ (128 ≤ d.nu.calls.length → acked .notRecorded c.index 0 0)) ∧
    (∀ c, sender = some c → c.pupils ≠ [] → m.intent ≠ 5 → c.mayExcuse = false →
      acked .notAuthorised c.index 0 0 ∧ after.ae = d.ae ∧ desk .notAuthorised false c) ∧
    (∀ c, sender = some c → c.pupils ≠ [] → m.intent ≠ 5 → c.mayExcuse = true →
      (m.intent = 0 ∨ 5 < m.intent ∨ d.tb.validity = .invalid → d.recordable m c = none) ∧
      (d.recordable m c = none → acked .notRecorded c.index 0 0 ∧ after.ae = d.ae ∧ desk .notRecorded true c)) ∧
    (∀ c news, sender = some c → c.pupils ≠ [] → m.intent ≠ 5 → c.mayExcuse = true → d.recordable m c = some news →
      let lastDay := if m.intent = 2 then min 36524 (d.tb.date + max 1 (min 14 m.dayCount) - 1) else 0
      let records (code : AckCode) : Prop := acked code c.index (if m.intent = 2 then d.tb.date else 0) lastDay
      (d.ae.roster = none → records .accepted ∧
        after.ae = { d.ae with excuses := news.foldl (fun table x => recordIn x table) d.ae.excuses }) ∧
      ((∀ l, d.ae.roster = some l → ∀ e ∈ l, ∀ t, e.absenceTag = some t → ∀ n ∈ d.nu.routine, n.tag ≠ t) →
        let results := (recordAll news d).1
        (.alreadyIn ∈ results → .changed ∉ results → records .alreadyIn) ∧
        (.alreadyIn ∉ results ∨ .changed ∈ results → records .accepted)) ∧
      (∀ x e, news = [x] → d.tb.date ≤ 36524 → d.ae.entry x.pupil = some e →
        (∀ t, e.absenceTag = some t → ∀ n ∈ d.nu.routine, n.tag ≠ t) →
        let stands (st : RosterState) : Prop := ∃ e', after.ae.entry x.pupil = some e' ∧ e'.state = st
        (x.kind ≠ .leavingEarly → e.state = .present ∨ e.state = .late ∨ e.state = .out → records .alreadyIn ∧ stands e.state) ∧
        (x.kind = .absent → e.state = .expected → records .accepted ∧ stands .excusedAway) ∧
        (x.kind ≠ .leavingEarly → e.state = .provisional ∨ e.state = .unexplained → records .accepted ∧ stands .explained) ∧
        (x.kind = .leavingEarly ∨ e.state = .notDue ∨ e.state = .excusedAway ∨ e.state = .explained ∨
          x.kind = .lateExpected ∧ e.state = .expected → records .accepted ∧ stands e.state)))) ∧
  (∀ (d : Device) (key roll intent dayCount minute number : Nat),
    let handed := takeContent (.parent key roll intent dayCount minute number) d
    let sender := if key = 0 then none else d.ae.contactOf key
    let pupil := match sender with
      | some c => if roll ∈ c.pupils then roll else 0
      | none => 0
    let acked (code : AckCode) (contact first last : Nat) (b : Device) : Prop :=
      let n : Notice := ⟨b.freeTag, .ackParent code intent roll first last, pupil, contact, key, 1, d.tb.date, d.tb.second, 0, none⟩
      let given : Device := { b with nu.nextTag := if 65535 ≤ b.freeTag then 1 else b.freeTag + 1 }
      (b.nu.queueCount < 240 → handed = { given with nu.routine := b.nu.routine ++ [n] }) ∧
      (240 ≤ b.nu.queueCount → handed = addCall .queueFull false (.notice n none false) given)
    let desk (reason : CallReason) (urgent : Bool) (contact : Nat) : Device :=
      addCall reason urgent (.message contact key roll intent dayCount minute number) d
    handed = takeMessage ⟨key, roll, intent, dayCount, minute, number⟩ d ∧
    (sender = none → (intent = 5 → acked .unknownPupil 0 0 0 (desk .freeText false 0)) ∧
      (intent ≠ 5 → acked .unknownPupil 0 0 0 d)) ∧
    (∀ c, sender = some c →
      (intent = 5 → acked (if c.pupils = [] then .unknownPupil else if 128 ≤ d.nu.calls.length then .notRecorded else .accepted)
        c.index 0 0 (desk .freeText false c.index)) ∧
      (intent ≠ 5 → c.pupils = [] → acked .unknownPupil c.index 0 0 d) ∧
      (intent ≠ 5 → c.pupils ≠ [] → c.mayExcuse = false → acked .notAuthorised c.index 0 0 (desk .notAuthorised false c.index)) ∧
      (intent ≠ 5 → c.pupils ≠ [] → c.mayExcuse = true →
        let targets := if roll ≠ 0 ∧ roll ∈ c.pupils then [roll] else c.pupils
        let lastDay := min 36524 (d.tb.date + max 1 (min 14 dayCount) - 1)
        let news : List Excuse := targets.map fun p => {
          pupil := p
          kind := if intent = 3 then .lateExpected else if intent = 4 then .leavingEarly else .absent
          first := d.tb.date
          last := if intent = 2 then lastDay else d.tb.date
          minute := if intent = 3 ∨ intent = 4 then min 1439 minute else 0
          source := .contact c.index
          state := .pending }
        let fits := d.tb.validity = .valid ∧ 1 ≤ intent ∧ intent ≤ 4 ∧
          (news.foldl (fun table x => recordIn x table) d.ae.excuses).length ≤ 512
        let did := recordAll news d
        let code : AckCode := if .alreadyIn ∈ did.1 ∧ .changed ∉ did.1 then .alreadyIn else .accepted
        (¬ fits → acked .notRecorded c.index 0 0 (desk .notRecorded true c.index)) ∧
        (fits → acked code c.index (if intent = 2 then d.tb.date else 0) (if intent = 2 then lastDay else 0) did.2)))) ∧
  (∀ d : Device, recordAll [] d = ([], d) ∧ ∀ x l,
    let one := recordAndApply x d
    let others := recordAll l one.2
    recordAll (x :: l) d = (one.1 :: others.1, others.2)) ∧
  (∀ (d : Device) (new : Excuse),
    let m := mergedIn new d.ae.excuses
    let table := recordIn new d.ae.excuses
    let ref : ExcuseRef := ⟨new.kind, m.first⟩
    let base : Device := { d with
      ae.excuses := table
      ae.roster := d.ae.roster.map fun l => l.map fun x =>
        if x.roll = new.pupil ∧ ∃ y ∈ d.ae.excuses, new.meets y = true ∧ x.excuseRef = some ⟨y.kind, y.first⟩ then
          { x with excuseRef := some ref } else x }
    let moved (st : RosterState) : Device := { base with
      ae.excuses := table.map fun x =>
        if x.pupil = new.pupil ∧ x.kind = new.kind ∧ x.first = m.first then { x with state := .applied } else x
      ae.roster := d.ae.roster.map fun l => l.map fun x =>
        if x.roll = new.pupil then { x with state := st, excuseRef := some ref } else x }
    let did := recordAndApply new d
    (d.ae.entry new.pupil = none ∨ d.tb.date < m.first ∨ m.last < d.tb.date → did = (.unchanged, base)) ∧
    (∀ e, d.ae.entry new.pupil = some e → m.first ≤ d.tb.date → d.tb.date ≤ m.last →
      (new.kind = .leavingEarly ∨ e.state = .notDue ∨ e.state = .excusedAway ∨ e.state = .explained → did = (.unchanged, base)) ∧
      (new.kind = .lateExpected → e.state = .expected → did = (.unchanged, base)) ∧
      (new.kind ≠ .leavingEarly → e.state = .present ∨ e.state = .late ∨ e.state = .out → did = (.alreadyIn, base)) ∧
      (new.kind = .absent → e.state = .expected → did = (.changed, moved .excusedAway)) ∧
      (new.kind ≠ .leavingEarly → e.state = .provisional → did = (.changed, moved .explained)) ∧
      (new.kind ≠ .leavingEarly → e.state = .unexplained →
        did = (.changed, absenceRuleFor false new.pupil e.absenceTag (moved .explained)))))

/-! ### Notices -/

/-- COMPOSE_BULLETIN, STOP_BULLETIN and QUERY_FANOUT, and a step of the fan-out, which takes the pupil at its cursor: passed
over when the masks do not name it, passed by when no contact may be notified, held back by a queue of 192, or sent the
bulletin. A mask bit that names no member is refused RANGE, and the cursor stays at 2400 when the fan-out has completed there: the
model's (logs 10, 48). -/
def Obligations.BulletinsFanOut : Prop :=
  (∀ (s : State) (tag number cohorts sites : Nat), Ready s →
    let compose := exec (.composeBulletin tag number cohorts sites) s
    let outside := number = 0 ∨ cohorts = 0 ∨ sites = 0 ∨ 128 ≤ cohorts ∨ 8 ≤ sites
    (outside → compose = refuses s tag 39 .range) ∧
    (¬ outside → s.dev.tb.rollover.isSome = true → compose = refuses s tag 39 .busy) ∧
    (¬ outside → s.dev.tb.rollover = none → s.dev.nu.fanout.status ≠ .idle → compose = refuses s tag 39 .state) ∧
    (¬ outside → s.dev.tb.rollover = none → s.dev.nu.fanout.status = .idle →
      compose = answers s tag 39 (ok .empty) { s.dev with nu.fanout :=
        ⟨.running, number, BitVec.ofNat 7 cohorts, BitVec.ofNat 3 sites, 1, 0, 0, s.dev.nu.fanout.lastEnd⟩ })) ∧
  (∀ (s : State) (tag : Nat), Ready s →
    (s.dev.tb.rollover.isSome = true →
      exec (.stopBulletin tag) s = refuses s tag 40 .busy ∧ exec (.queryFanout tag) s = refuses s tag 41 .busy) ∧
    (s.dev.tb.rollover = none →
      (s.dev.nu.fanout.status = .idle → exec (.stopBulletin tag) s = answers s tag 40 (ok .empty) s.dev) ∧
      (s.dev.nu.fanout.status ≠ .idle → exec (.stopBulletin tag) s = answers s tag 40 (ok .empty)
        (({ s.dev with nu.fanout.status := .idle, nu.fanout.lastEnd := .stopped } : Device).raise .fanout)) ∧
      exec (.queryFanout tag) s = answers s tag 41 (ok (.fanout s.dev.nu.fanout)) s.dev)) ∧
  (∀ s : State, Powered s →
    let f := s.dev.nu.fanout
    let on (d : Device) : Device :=
      if f.cursor < 2400 then { d with nu.fanout.cursor := f.cursor + 1 }
      else ({ d with nu.fanout.status := .idle, nu.fanout.lastEnd := .complete } : Device).raise .fanout
    (f.status ≠ .running → exec .fanoutStep s = goesTo s s.dev) ∧
    (f.status = .running → s.dev.ae.pupil f.cursor = none → exec .fanoutStep s = goesTo s (on s.dev)) ∧
    (∀ p l, f.status = .running → s.dev.ae.pupil f.cursor = some p → s.dev.ae.groups[p.group]? = some l →
      let concerned := f.cohorts.getLsbD (p.cohort - 1) = true ∧
        (f.sites = 7 ∨ ∃ i q, i < s.dev.tb.cycleLength ∧ l[i]? = some (some q) ∧ f.sites.getLsbD q.site = true)
      (¬ concerned → exec .fanoutStep s = goesTo s (on s.dev)) ∧
      (concerned → s.dev.ae.notifiable p.roll 0 = none →
        exec .fanoutStep s = goesTo s (on { s.dev with nu.fanout.passedBy := f.passedBy + 1 })) ∧
      (∀ n c, concerned → s.dev.ae.notifiable p.roll 0 = some (n, c) →
        (192 ≤ s.dev.nu.queueCount → exec .fanoutStep s = goesTo s { s.dev with nu.fanout.status := .paused }) ∧
        (s.dev.nu.queueCount < 192 → exec .fanoutStep s = goesTo s (on { s.dev with
          nu.bulk := s.dev.nu.bulk ++
            [⟨s.dev.freeTag, .bulletin f.bulletin, p.roll, c.index, c.key, n, s.dev.tb.date, s.dev.tb.second, 0, none⟩]
          nu.nextTag := if 65535 ≤ s.dev.freeTag then 1 else s.dev.freeTag + 1
          nu.fanout.composed := f.composed + 1 })))))

/-- The desk call list: a new entry takes the first number from the counter on that no entry holds and stands last of its class, unless
128 are held; a notice goes there in its own class for QUEUE_FULL and as URGENT otherwise. The tag a composition gives is the first
from the counter on that no place, no called-today place and no roster entry holds. CLOSE_CALL takes an entry out; QUERY_CALLS,
QUERY_NOTICE and QUERY_NOTICES read, the last with the counts by class, of the queue and of the ring, and the tag counter. A notice is
found by its tag, in a desk call entry that holds one too. The place codes and that QUERY_NOTICES position 0 is out of range are the
model's (logs 11, 30). -/
def Obligations.DeskCallsAreKeptAndRead : Prop :=
  let counted (counter k : Nat) : Nat := if k ≤ 65535 - counter then counter + k else k - (65535 - counter)
  (∀ (d : Device) (reason : CallReason) (urgent : Bool) (content : CallContent),
    (128 ≤ d.nu.calls.length → addCall reason urgent content d = d.raise .callsFull) ∧
    (d.nu.calls.length < 128 → ∃ number k : Nat, number = counted d.nu.nextCall k ∧ (∀ e ∈ d.nu.calls, e.number ≠ number) ∧
      (∀ j, j < k → ∃ e ∈ d.nu.calls, e.number = counted d.nu.nextCall j) ∧
      let e : CallEntry := ⟨number, reason, urgent, d.tb.second, d.tb.date, content⟩
      addCall reason urgent content d = ({ d with
        nu.calls := if urgent then d.nu.calls.filter (·.urgent) ++ e :: d.nu.calls.filter (!·.urgent) else d.nu.calls ++ [e]
        nu.nextCall := if 65535 ≤ number then 1 else number + 1 } : Device).raise .calls)) ∧
  (∀ (d : Device) (reason : CallReason) (outcome : Option NoticeOutcome) (n : Notice),
    (n.cls = match n.body with
      | .absentUnexplained => .urgent
      | .leftSite _ => .urgent
      | .arrivedAfterCall _ => .urgent
      | .lateRecorded _ _ => .routine
      | .latePattern _ _ => .routine
      | .ackParent _ _ _ _ _ => .routine
      | .bulletin _ => .bulk) ∧
    toCalls reason outcome n d = addCall reason (reason != .queueFull || n.cls == .urgent)
      (.notice { n with kept := none } outcome false) d) ∧
  (∀ d : Device, d.heldTags.length < 65535 →
    let held (t : Nat) : Prop := (∃ n ∈ d.nu.queued, n.tag = t) ∨ (∃ r ∈ d.rl.ring, r.notice.tag = t) ∨
      (∃ w ∈ d.nu.awaiting, w.notice.tag = t) ∨ (∃ e ∈ d.nu.calls, e.holdsTag t = true) ∨ (∃ c ∈ d.nu.calledToday, c.tag = t) ∨
      ∃ l, d.ae.roster = some l ∧ ∃ e ∈ l, e.absenceTag = some t
    ¬ held d.freeTag ∧ ∃ k, d.freeTag = counted d.nu.nextTag k ∧ ∀ j, j < k → held (counted d.nu.nextTag j)) ∧
  (∀ (s : State) (tag n : Nat), Ready s → s.dev.tb.rollover.isSome = true →
    exec (.closeCall tag n) s = refuses s tag 42 .busy ∧ exec (.queryNotice tag n) s = refuses s tag 44 .busy) ∧
  (∀ (s : State) (tag number : Nat), Steady s →
    ((∀ e ∈ s.dev.nu.calls, e.number ≠ number) → exec (.closeCall tag number) s = refuses s tag 42 .notFound) ∧
    (∀ e, s.dev.nu.calls.find? (·.number == number) = some e → exec (.closeCall tag number) s =
      answers s tag 42 (ok (.callClosed e.notice?.isSome e.reason))
        { s.dev with nu.calls := s.dev.nu.calls.filter (·.number != number) })) ∧
  (∀ (s : State) (tag position : Nat), Ready s →
    (position = 0 ∨ 128 < position → exec (.queryCalls tag position) s = refuses s tag 43 .range) ∧
    (1 ≤ position → position ≤ 128 → s.dev.tb.rollover.isSome = true → exec (.queryCalls tag position) s = refuses s tag 43 .busy) ∧
    (1 ≤ position → position ≤ 128 → s.dev.tb.rollover = none → exec (.queryCalls tag position) s = answers s tag 43
      (ok (.calls ((s.dev.nu.calls.drop (position - 1)).take 8) s.dev.nu.calls.length)) s.dev)) ∧
  (∀ (s : State) (tag notice : Nat), Steady s →
    let read := exec (.queryNotice tag notice) s
    (∀ n ∈ s.dev.nu.queued, n.tag = notice → (s.dev.nu.queued.map (·.tag)).Nodup →
      read = answers s tag 44 (ok (.notice n .queue none none)) s.dev) ∧
    ((∀ n ∈ s.dev.nu.queued, n.tag ≠ notice) →
      (∀ r, s.dev.rl.ring.find? (·.notice.tag == notice) = some r →
        read = answers s tag 44 (ok (.notice r.notice .ring none none)) s.dev) ∧
      ((∀ r ∈ s.dev.rl.ring, r.notice.tag ≠ notice) →
        (∀ w, s.dev.nu.awaitingOf notice = some w →
          read = answers s tag 44 (ok (.notice w.notice .awaiting none (some w.deadline))) s.dev) ∧
        (∀ e n, s.dev.nu.awaitingOf notice = none → s.dev.nu.calls.find? (CallEntry.holdsTag notice) = some e → e.notice? = some n →
          read = answers s tag 44 (ok (.notice n .calls (some e.number) none)) s.dev) ∧
        (s.dev.nu.awaitingOf notice = none → (∀ e ∈ s.dev.nu.calls, e.holdsTag notice = false) →
          (∀ c, s.dev.nu.calledToday.find? (·.tag == notice) = some c →
            read = answers s tag 44 (ok (.noticeClosed c.roll c.reason)) s.dev) ∧
          ((∀ c ∈ s.dev.nu.calledToday, c.tag ≠ notice) → read = refuses s tag 44 .notFound))))) ∧
  (∀ (s : State) (tag position : Nat), Steady s →
    (∀ place, (place ≠ 1 ∧ place ≠ 3) ∨ position = 0 → exec (.queryNotices tag place position) s = refuses s tag 45 .range) ∧
    (1 ≤ position →
      exec (.queryNotices tag 1 position) s = answers s tag 45
        (ok (.notices .queue (((s.dev.nu.queued.map fun n => (n, none)).drop (position - 1)).take 8) s.dev.noticeCounts)) s.dev ∧
      exec (.queryNotices tag 3 position) s = answers s tag 45 (ok (.notices .awaiting
        (((s.dev.nu.awaiting.map fun w => (w.notice, some w.deadline)).drop (position - 1)).take 8) s.dev.noticeCounts)) s.dev)) ∧
  (∀ d : Device,
    let ringed (c : NoticeClass) : Nat := (d.rl.ring.filter fun r => r.notice.cls == c).length
    d.noticeCounts = ⟨[d.nu.urgent.length, d.nu.routine.length, d.nu.bulk.length], d.nu.awaiting.length,
      [ringed .urgent, ringed .routine, ringed .bulk], d.nu.calls.length, d.nu.nextTag⟩) ∧
  (∀ (nu : NoticeUnit) (t : Nat), nu.queued = nu.urgent ++ nu.routine ++ nu.bulk ∧
    nu.queueCount = nu.urgent.length + nu.routine.length + nu.bulk.length ∧
    nu.awaitingOf t = nu.awaiting.find? (·.notice.tag == t)) ∧
  (∀ (e : CallEntry) (n : Notice) (t : Nat),
    (e.notice? = some n ↔ ∃ o sup, e.content = .notice n o sup) ∧
    (e.holdsTag t = true ↔ ∃ m o sup, e.content = .notice m o sup ∧ m.tag = t))

/-- What becomes of a dispatched or old notice. An inbound outcome acts on a notice that awaits it: DELIVERED and REPLIED close it, a
reply acting on the pupil's entry where the contact of the notice's index and key is still held, and UNREACHABLE withdraws it,
escalates it to the next contact, to the desk where the queue is full, or takes it to the desk; it is kept with a notice in the ring,
to act at its receipt, and written beside one at the desk. An URGENT notice retired from the ring without one enters the
awaiting-outcome table. A notice whose outcome deadline has passed leaves the table: withdrawn when it is an absence notice no longer wanted,
and to the desk otherwise. An URGENT notice that has waited out the fallback delay while the link is not UP leaves the queue for the
desk, and what waited for its place resumes, as it does whenever a notice leaves the queue. A full desk call list drops them. That an
expiry is taken as the moment it names, that the entry of a notice of an earlier day has outcome NONE, that no kept outcome goes to the
desk, and how a dropped contact is told, are the model's (logs 2, 25, 36, 46). -/
def Obligations.OldNoticesGoToTheDesk : Prop :=
  (∀ (d : Device) (tag value code : Nat),
    let outcome := takeContent (.outcome tag value code) d
    (value = 0 ∨ 3 < value → outcome = d) ∧
    (∀ w, d.nu.awaitingOf tag = some w →
      let n := w.notice
      let left : Device := { d with nu.awaiting := d.nu.awaiting.filter (·.notice.tag != tag) }
      let closed (r : CalledReason) : Device :=
        if n.body = .absentUnexplained ∧ n.subjectDay = d.tb.date then { left with
          nu.calledToday := insertBefore (fun a b => a.roll < b.roll) ⟨n.pupil, n.tag, r, n.contact, n.key, n.step⟩
            (d.nu.calledToday.filter (·.roll != n.pupil)) }
        else left
      let waits := ∃ e, d.ae.entry n.pupil = some e ∧ e.absenceTag = some n.tag ∧ e.state = .unexplained
      let called (from' : Device) (reason : CallReason) (content : CallContent) : Prop :=
        (128 ≤ d.nu.calls.length → outcome = from'.raise .callsFull) ∧
        (d.nu.calls.length < 128 → ∃ number next : Nat, outcome = ({ from' with
          nu.nextCall := next
          nu.calls := d.nu.calls.filter (·.urgent) ++
            ⟨number, reason, true, d.tb.second, d.tb.date, content⟩ :: d.nu.calls.filter (!·.urgent) } : Device).raise .calls)
      (∀ o, outcomeCode value code = some o → outcome = outcomeActs o n left) ∧
      (value = 1 → outcome = closed .delivered) ∧
      (value = 2 →
        (¬ waits ∨ code = 0 ∨ 3 < code → outcome = closed .replied) ∧
        (waits → code = 1 ∨ code = 2 →
          (∀ c, d.ae.contactAt n.contact = some c → c.key = n.key → c.mayExcuse = true → outcome = { closed .replied with
            ae.roster := d.ae.roster.map fun l => l.map fun e =>
              if e.roll = n.pupil then { e with state := .explained } else e }) ∧
          ((∀ c, d.ae.contactAt n.contact = some c → c.key = n.key → c.mayExcuse = false) → outcome = closed .replied)) ∧
        (waits → code = 3 → called (closed .replied) .parentUnaware (.parentUnaware n.pupil n.tag))) ∧
      (value = 3 →
        (n.body = .absentUnexplained → ¬ waits → outcome = left) ∧
        (n.body ≠ .absentUnexplained → n.subjectDay < d.tb.date →
          called left .unreachableAll (.notice { n with kept := none } none false)) ∧
        ((n.body = .absentUnexplained → waits) → (n.body ≠ .absentUnexplained → d.tb.date ≤ n.subjectDay) →
          (d.ae.notifiable n.pupil n.step = none →
            called left .unreachableAll (.notice { n with kept := none } (some .unreachable) false)) ∧
          (∀ k c, d.ae.notifiable n.pupil n.step = some (k, c) → n.body.cls = .urgent →
            let t := left.freeTag
            let next : Notice := ⟨t, n.body, n.pupil, c.index, c.key, k, n.subjectDay, d.tb.second, 0, none⟩
            let tagged : Device := { left with
              nu.nextTag := if 65535 ≤ t then 1 else t + 1
              ae.roster := if n.body = .absentUnexplained then d.ae.roster.map fun l => l.map fun e =>
                  if e.roll = n.pupil ∧ e.absenceTag = some n.tag then { e with absenceTag := some t } else e
                else d.ae.roster }
            (d.nu.queueCount < 256 → outcome = { tagged with nu.urgent := d.nu.urgent ++ [next] }) ∧
            (256 ≤ d.nu.queueCount → called tagged .queueFull (.notice next none false)))))) ∧
    (∀ o, d.nu.awaitingOf tag = none →
      (value = 1 ∧ o = .delivered ∨ value = 2 ∧ o = .replied code ∨ value = 3 ∧ o = .unreachable) →
      ((∃ r ∈ d.rl.ring, r.notice.tag = tag) → outcome = { d with
        rl.ring := d.rl.ring.map fun r => if r.notice.tag = tag then { r with notice.kept := some o } else r }) ∧
      ((∀ r ∈ d.rl.ring, r.notice.tag ≠ tag) →
        ((∃ e ∈ d.nu.calls, e.holdsTag tag = true) → outcome = ({ d with
          nu.calls := d.nu.calls.map fun e => match e.content with
            | .notice n _ sup => if n.tag = tag then { e with content := .notice n (some o) sup } else e
            | .message _ _ _ _ _ _ _ => e
            | .parentUnaware _ _ => e } : Device).raise .calls) ∧
        ((∀ e ∈ d.nu.calls, e.holdsTag tag = false) → outcome = d)))) ∧
  (∀ (d : Device) (n : Notice),
    (n.cls ≠ .urgent → receipt n d = d) ∧
    (∀ o, n.cls = .urgent → n.kept = some o → receipt n d = outcomeActs o { n with kept := none } d) ∧
    (n.cls = .urgent → n.kept = none →
      (d.nu.awaiting.length < 192 →
        receipt n d = { d with nu.awaiting := d.nu.awaiting ++ [⟨n, 60 * d.nu.outcomeTimeout⟩] }) ∧
      (192 ≤ d.nu.awaiting.length → receipt n d =
        if n.body = .absentUnexplained ∧ n.subjectDay = d.tb.date then { d with
          nu.calledToday := insertBefore (fun a b => a.roll < b.roll) ⟨n.pupil, n.tag, .sentUntracked, n.contact, n.key, n.step⟩
            (d.nu.calledToday.filter (·.roll != n.pupil)) }
        else d))) ∧
  (∀ (s : State) (tag : Nat), Powered s →
    let step := exec (.outcomeTimeout tag) s
    (s.dev.nu.awaitingOf tag = none → step = goesTo s s.dev) ∧
    (∀ w, s.dev.nu.awaitingOf tag = some w →
      let left : Device := { s.dev with nu.awaiting := s.dev.nu.awaiting.filter (·.notice.tag != tag) }
      let wanted := w.notice.body ≠ .absentUnexplained ∨
        ∃ e, s.dev.ae.entry w.notice.pupil = some e ∧ e.absenceTag = some w.notice.tag ∧ e.state = .unexplained
      (¬ wanted → step = goesTo s left) ∧
      (wanted → 128 ≤ s.dev.nu.calls.length → step = goesTo s (left.raise .callsFull)) ∧
      (wanted → step = goesTo s (toCalls .noOutcome none w.notice left)) ∧
      (wanted → s.dev.nu.calls.length < 128 → w.notice.kept = none → ∃ d, step = goesTo s d ∧
        d.nu.awaiting = left.nu.awaiting ∧ d.ae = s.dev.ae ∧ d.rl = s.dev.rl ∧ d.op.holds .calls = true ∧
        ∃ e ∈ d.nu.calls, e.reason = .noOutcome ∧ e.urgent = true ∧ e.content = .notice w.notice none false))) ∧
  (∀ (s : State) (tag : Nat), Powered s →
    let step := exec (.relayDownFallback tag) s
    (s.dev.rl.link = .up ∨ (∀ n ∈ s.dev.nu.urgent, n.tag ≠ tag) → step = goesTo s s.dev) ∧
    (∀ n, s.dev.rl.link ≠ .up → s.dev.nu.urgent.find? (·.tag == tag) = some n → ∃ d, step = goesTo s d ∧
      d = toCalls .relayDown none { n with age := max n.age (60 * s.dev.nu.fallbackDelay) } (leaveQueue tag s.dev) ∧
      d.nu.urgent = s.dev.nu.urgent.filter (·.tag != tag) ∧ d.rl = s.dev.rl ∧ d.tb = s.dev.tb ∧ QueueFallResumes s.dev d ∧
      d.ae = { s.dev.ae with sweeps := d.ae.sweeps } ∧
      (128 ≤ s.dev.nu.calls.length → d.nu.calls = s.dev.nu.calls ∧ d.op.holds .callsFull = true) ∧
      (s.dev.nu.calls.length < 128 → d.op.holds .calls = true ∧
        ∃ e ∈ d.nu.calls, ∃ m, e.reason = .relayDown ∧ e.urgent = true ∧ e.content = .notice m none false ∧ m.tag = tag ∧
          m.body = n.body ∧ m.pupil = n.pupil))) ∧
  (∀ (tag : Nat) (d : Device), let e := leaveQueue tag d
    e.nu.urgent = d.nu.urgent.filter (·.tag != tag) ∧ e.nu.routine = d.nu.routine.filter (·.tag != tag) ∧
    e.nu.bulk = d.nu.bulk.filter (·.tag != tag) ∧ QueueFallResumes d e ∧
    e = { d with
      ae.sweeps := e.ae.sweeps, nu.urgent := e.nu.urgent, nu.routine := e.nu.routine, nu.bulk := e.nu.bulk
      nu.fanout := e.nu.fanout })

/-! ### The Relay Link -/

/-- Opening and closing the link: RELAY_START, RELAY_STOP, START_TIMER, AUTO_RESTART, RX_START and SILENCE_TIMEOUT in each link
state, and the last resync attempt. Leaving UP, or a restart, empties the ring and every condition of UP: the notices of the ring
go back, oldest first, each before every other of its class and behind those this event has returned, where the queue has room
for its class, and else to the desk, but for a bulletin, which is dropped; on leaving UP every queued URGENT notice as old as the
fallback delay then goes to the desk. Each change of state sets LINK. That an expiry is taken as the moment it names, that the restart
guard falls on leaving UP, and that old notices go to the desk in queue order, are the model's (logs 2, 40, 47). -/
def Obligations.LinkStartsAndStops : Prop :=
  (∀ (s : State) (tag : Nat), Ready s →
    let starting : Device := ({ s.dev with
      rl.link := .starting, rl.frame := some .start, rl.lastMark := 0, rl.markDue := false, rl.idleDue := false } : Device).raise .link
    let stopped : Device := ({ s.dev with rl.link := .off, rl.frame := none } : Device).raise .link
    (s.dev.rl.link = .off ∨ s.dev.rl.link = .down → exec (.relayStart tag) s = answers s tag 48 (ok .empty) starting) ∧
    (s.dev.rl.link = .starting ∨ s.dev.rl.link = .up → exec (.relayStart tag) s = answers s tag 48 (ok .empty) s.dev) ∧
    (s.dev.rl.link = .off → exec (.relayStop tag) s = answers s tag 49 (ok .empty) s.dev) ∧
    (s.dev.rl.link = .starting ∨ s.dev.rl.link = .down → exec (.relayStop tag) s = answers s tag 49 (ok .empty) stopped)) ∧
  (∀ s : State, Powered s →
    let starting : Device := ({ s.dev with
      rl.link := .starting, rl.frame := some .start, rl.lastMark := 0, rl.markDue := false, rl.idleDue := false } : Device).raise .link
    (s.dev.rl.link = .down → s.dev.rl.settings.autoRestart ≠ 0 → exec .autoRestart s = goesTo s starting) ∧
    (s.dev.rl.link ≠ .down ∨ s.dev.rl.settings.autoRestart = 0 → exec .autoRestart s = goesTo s s.dev) ∧
    (s.dev.rl.link = .starting → exec .startTimer s = goesTo s { s.dev with
      rl.frame := some .start, rl.lastMark := 0, rl.markDue := false, rl.idleDue := false }) ∧
    (s.dev.rl.link ≠ .starting → exec .startTimer s = goesTo s s.dev)) ∧
  (∀ s : State, Powered s →
    let opened (rl : RelayLink) : RelayLink := { rl with
      sendSeq := 0, readPos := 0, ring := [], lastSeq := 0, lastPlace := 0, collected := 0, hold := false
      rewindCount := 0, clearCount := 0, resyncTimer := false, attempts := 0, markHold := none, startOwed := true
      silence := some 0, restartGuard := true }
    let empty (rl : RelayLink) : RelayLink := { rl with
      ring := [], readPos := 0, frame := none, startOwed := false, runOwed := false, rewindOwed := false
      furtherOwed := false, activity := .rest, hold := false, rewindCount := 0, clearCount := 0, resyncTimer := false
      attempts := 0, markHold := none, rolloverHold := [], markDue := false, idleDue := false }
    (s.dev.rl.link = .off ∨ s.dev.rl.link = .down → exec .rxStart s = goesTo s s.dev) ∧
    (s.dev.rl.link = .starting → exec .rxStart s =
      goesTo s (({ s.dev with rl := { opened s.dev.rl with link := .up } } : Device).raise .link)) ∧
    (s.dev.rl.link = .up → s.dev.rl.restartGuard = true → exec .rxStart s = goesTo s { s.dev with
      rl.silence := some 0, rl.rewindCount := 0, rl.clearCount := 0 }) ∧
    let emptied : Device := returnNotices (s.dev.rl.ring.map (·.notice)) 0 0 0 { s.dev with rl := empty s.dev.rl }
    let left (state : LinkState) : Device := fallBackAll (({ emptied with
      rl.link := state, rl.silence := none, rl.downFor := 0, rl.restartGuard := false } : Device).raise .link)
    (s.dev.rl.link = .up → s.dev.rl.restartGuard = false → exec .rxStart s =
      goesTo s (({ emptied with rl := opened emptied.rl } : Device).raise .link)) ∧
    (s.dev.rl.link = .up → exec .silenceTimeout s = goesTo s (left .down)) ∧
    (∀ tag, Ready s → s.dev.rl.link = .up → exec (.relayStop tag) s = answers s tag 49 (ok .empty) (left .off)) ∧
    (s.dev.rl.link = .up → s.dev.rl.hold = true → s.dev.rl.resyncTimer = true →
      s.dev.rl.settings.attemptLimit ≤ s.dev.rl.attempts + 1 → exec .resyncTimeout s = goesTo s (left .down)) ∧
    (s.dev.rl.link = .up → s.dev.rl.restartGuard = false → ∃ d, exec .rxStart s = goesTo s d ∧
      d.rl = opened (empty s.dev.rl) ∧ d.op.holds .link = true ∧
      ((∀ r ∈ s.dev.rl.ring, r.notice.cls = .urgent) → s.dev.nu.queueCount + s.dev.rl.ring.length ≤ 256 →
        d.nu.urgent = s.dev.rl.ring.map (·.notice) ++ s.dev.nu.urgent ∧ d.nu.routine = s.dev.nu.routine ∧
        d.nu.bulk = s.dev.nu.bulk ∧ d.nu.calls = s.dev.nu.calls)) ∧
    (s.dev.rl.link ≠ .up → exec .silenceTimeout s = goesTo s s.dev) ∧
    (s.dev.rl.link = .up → ∃ d, exec .silenceTimeout s = goesTo s d ∧
      d.rl = { empty s.dev.rl with link := .down, silence := none, downFor := 0, restartGuard := false } ∧
      d.op.holds .link = true ∧ ∀ n ∈ d.nu.urgent, n.age < 60 * s.dev.nu.fallbackDelay) ∧
    (∀ tag, Ready s → s.dev.rl.link = .up → ∃ d, exec (.relayStop tag) s = answers s tag 49 (ok .empty) d ∧
      d.rl = { empty s.dev.rl with link := .off, silence := none, downFor := 0, restartGuard := false } ∧
      d.op.holds .link = true ∧ ∀ n ∈ d.nu.urgent, n.age < 60 * s.dev.nu.fallbackDelay)) ∧
  (∀ d : Device, fallBackAll d = (d.nu.urgent.filter fun n => decide (60 * d.nu.fallbackDelay ≤ n.age)).foldl
    (fun e n => toCalls .relayDown none n (leaveQueue n.tag e)) d) ∧
  (∀ (u r b : Nat) (d : Device), returnNotices [] u r b d = d) ∧
  (∀ (n : Notice) (l : List Notice) (u r b : Nat) (d : Device),
    let returned := returnNotices (n :: l) u r b d
    let count := d.nu.urgent.length + d.nu.routine.length + d.nu.bulk.length
    let toDesk := returnNotices l u r b (toCalls .queueFull none n d)
    let after (k : Nat) (held : List Notice) : List Notice := held.take k ++ n :: held.drop k
    (n.cls = .urgent → (256 ≤ count → returned = toDesk) ∧
      (count < 256 → returned = returnNotices l (u + 1) r b { d with nu.urgent := after u d.nu.urgent })) ∧
    (n.cls = .routine → (240 ≤ count → returned = toDesk) ∧
      (count < 240 → returned = returnNotices l u (r + 1) b { d with nu.routine := after r d.nu.routine })) ∧
    (n.cls = .bulk → (192 ≤ count → returned = returnNotices l u r b d) ∧
      (count < 192 → returned = returnNotices l u r (b + 1) { d with nu.bulk := after b d.nu.bulk })))

/-- Receiving in UP: every sound frame restarts the silence timer; out of hold a mark in window retires the notices before it, and a
MSG is taken, its place the collected mark, on which a MARK stays due only while that differs from the last one sent, held during a
rollover, a repeat, or a gap that enters receive hold; in hold MSG, MARK and IDLE frames change no seq, place, mark or notice. Out of
hold any MSG that finds 64 held during a rollover enters receive hold. Outside UP they are ignored. A mark taken is held during a
replay; otherwise, in window, it retires the notices before it one by one, oldest first, each with its receipt. A MSG body is read by
Table 11-7, and one of a length its kind does not have is bad. That a MSG so dropped does not take its mark and is heard, that a place
or mark byte above 127 is taken modulo 128, and that the restart guard falls in receive hold too, are the model's (logs 22, 23, 40).
-/
def Obligations.LinkReceives : Prop :=
  (∀ (s : State) (seq place mark : Nat) (body : List Byte), Powered s → s.dev.rl.link ≠ .up →
    exec (.rxMsg seq place mark body) s = goesTo s s.dev ∧ exec (.rxMark mark) s = goesTo s s.dev ∧
    exec (.rxIdle mark) s = goesTo s s.dev) ∧
  (∀ (s : State) (mark : Nat), Powered s → s.dev.rl.link = .up → s.dev.rl.readPos < 128 →
    let heard : Device := { s.dev with rl.silence := some 0, rl.restartGuard := false, rl.rewindCount := 0, rl.clearCount := 0 }
    let ahead := (mark + 128 - s.dev.rl.readPos) % 128
    exec (.rxIdle mark) s = exec (.rxMark mark) s ∧
    (s.dev.rl.hold = true → exec (.rxMark mark) s = goesTo s heard) ∧
    (s.dev.rl.hold = false → exec (.rxMark mark) s = goesTo s (takeMark mark heard)) ∧
    (s.dev.rl.hold = false →
      (∀ l, s.dev.rl.activity = .replay l → exec (.rxMark mark) s = goesTo s { heard with rl.markHold := some (mark % 128) }) ∧
      ((∀ l, s.dev.rl.activity ≠ .replay l) →
        (s.dev.rl.ring.length < ahead → exec (.rxMark mark) s = goesTo s heard) ∧
        (ahead ≤ s.dev.rl.ring.length → ∃ d, exec (.rxMark mark) s = goesTo s d ∧
          d.rl = { heard.rl with ring := s.dev.rl.ring.drop ahead, readPos := mark % 128 } ∧
          ((∀ r ∈ s.dev.rl.ring, r.notice.cls ≠ .urgent) → d.nu = s.dev.nu))))) ∧
  (∀ (s : State) (seq place mark : Nat) (body : List Byte) (c : MsgContent), Powered s → s.dev.rl.link = .up →
    msgContent body = some c →
    let rl := s.dev.rl
    let heard : Device := { s.dev with rl.silence := some 0, rl.restartGuard := false, rl.rewindCount := 0, rl.clearCount := 0 }
    let held : Device := { heard with rl.hold := true, rl.runOwed := true, rl.resyncTimer := true, rl.attempts := 0 }
    let next := seq = if 255 ≤ rl.lastSeq then 1 else rl.lastSeq + 1
    let again := (rl.lastPlace + (128 - place % 128)) % 128 ≤ 63
    let receive := exec (.rxMsg seq place mark body) s
    (rl.hold = true → receive = goesTo s heard) ∧
    (rl.hold = false → next → s.dev.tb.rollover = none → receive = goesTo s (takeContent c
      { takeMark mark heard with
        rl.lastSeq := seq, rl.lastPlace := place % 128, rl.collected := place % 128
        rl.markDue := rl.markDue && place % 128 != rl.lastMark })) ∧
    (rl.hold = false → next → s.dev.tb.rollover.isSome = true → rl.rolloverHold.length < 64 → ∃ d, receive = goesTo s d ∧
      d.rl = { (takeMark mark heard).rl with
        lastSeq := seq, lastPlace := place % 128, rolloverHold := rl.rolloverHold ++ [⟨place % 128, c⟩] } ∧
      d.rl.collected = rl.collected ∧ d.ae = (takeMark mark heard).ae) ∧
    (rl.hold = false → s.dev.tb.rollover.isSome = true → 64 ≤ rl.rolloverHold.length → receive = goesTo s held) ∧
    (rl.hold = false → s.dev.tb.rollover = none ∨ rl.rolloverHold.length < 64 → ¬ next →
      (again → receive = goesTo s (takeMark mark heard)) ∧ (¬ again → receive = goesTo s held))) ∧
  (∀ d : Device, takeContent .unknownKind d = d) ∧
  (∀ (m : Nat) (d : Device),
    let ahead := (m + (128 - d.rl.readPos % 128)) % 128
    (∀ l, d.rl.activity = .replay l → takeMark m d = { d with rl.markHold := some (m % 128) }) ∧
    ((∀ l, d.rl.activity ≠ .replay l) →
      (d.rl.ring.length < ahead → takeMark m d = d) ∧
      (ahead ≤ d.rl.ring.length → takeMark m d = (List.range ahead).foldl (fun e _ => match e.rl.ring with
        | [] => e
        | r :: rest => receipt r.notice { e with rl.ring := rest, rl.readPos := (e.rl.readPos + 1) % 128 }) d))) ∧
  (∀ body : List Byte, (body = [] ∨ 48 < body.length → msgContent body = none) ∧
    ∀ (kind : Byte) (rest : List Byte), body = kind :: rest → body.length ≤ 48 →
      (kind ≠ 1#8 → kind ≠ 2#8 → msgContent body = some .unknownKind) ∧
      (kind = 1#8 → (rest.length ≠ 12 → msgContent body = none) ∧
        ∀ k0 k1 k2 k3 r0 r1 i c m0 m1 n0 n1 : Byte, rest = [k0, k1, k2, k3, r0, r1, i, c, m0, m1, n0, n1] →
          msgContent body = some (.parent (16777216 * k0.toNat + 65536 * k1.toNat + 256 * k2.toNat + k3.toNat)
            (256 * r0.toNat + r1.toNat) i.toNat c.toNat (256 * m0.toNat + m1.toNat) (256 * n0.toNat + n1.toNat))) ∧
      (kind = 2#8 → (rest.length ≠ 4 → msgContent body = none) ∧
        ∀ t0 t1 o c : Byte, rest = [t0, t1, o, c] →
          msgContent body = some (.outcome (256 * t0.toNat + t1.toNat) o.toNat c.toNat)))

/-- Receive hold and its end: a bad frame in UP clears both counts and enters hold; REWIND frames count to the threshold and ask
for a rewind; CLEAR frames at the threshold end the hold and take their mark; each expiry of the resync timer is an attempt and
asks for a REWIND run, and the last takes the link DOWN. Outside UP a RESYNC is ignored. That an expiry is taken as the moment
it names, and that a RESYNC clears the restart guard in receive hold too, are the model's (logs 2, 40). -/
def Obligations.LinkRecovers : Prop :=
  (∀ s : State, Powered s →
    let counted : Device := { s.dev with rl.rewindCount := 0, rl.clearCount := 0 }
    exec .relayByteTimeout s = exec .rxBadFrame s ∧
    (s.dev.rl.link ≠ .up → exec .rxBadFrame s = goesTo s s.dev) ∧
    (s.dev.rl.link = .up → s.dev.rl.hold = true → exec .rxBadFrame s = goesTo s counted) ∧
    (s.dev.rl.link = .up → s.dev.rl.hold = false → exec .rxBadFrame s =
      goesTo s { counted with rl.hold := true, rl.runOwed := true, rl.resyncTimer := true, rl.attempts := 0 }) ∧
    (∀ (seq place mark : Nat) (body : List Byte), msgContent body = none →
      exec (.rxMsg seq place mark body) s = exec .rxBadFrame s) ∧
    (∀ flag mark : Nat, flag ≠ 1 → flag ≠ 2 → exec (.rxResync flag mark) s = exec .rxBadFrame s) ∧
    (s.dev.rl.link ≠ .up → ∀ flag mark : Nat, exec (.rxResync flag mark) s = goesTo s s.dev)) ∧
  (∀ (s : State) (mark : Nat), Powered s → s.dev.rl.link = .up →
    let rl := s.dev.rl
    let counts (rewind clear : Nat) : Device := { s.dev with
      rl.silence := some 0, rl.restartGuard := false, rl.rewindCount := rewind, rl.clearCount := clear }
    let busy := (∃ n, rl.activity = .clearRun n) ∨ ∃ l, rl.activity = .replay l
    (rl.rewindCount + 1 < rl.settings.threshold →
      (rl.hold = true → exec (.rxResync 1 mark) s = goesTo s (counts (rl.rewindCount + 1) 0)) ∧
      (rl.hold = false → exec (.rxResync 1 mark) s = goesTo s (takeMark mark (counts (rl.rewindCount + 1) 0)))) ∧
    (rl.rewindCount + 1 = rl.settings.threshold →
      (busy → exec (.rxResync 1 mark) s =
        goesTo s (takeMark mark { counts rl.settings.threshold 0 with rl.furtherOwed := true })) ∧
      (¬ busy → exec (.rxResync 1 mark) s =
        goesTo s (takeMark mark { counts rl.settings.threshold 0 with rl.rewindOwed := true }))) ∧
    (rl.settings.threshold = rl.rewindCount →
      (rl.hold = true → exec (.rxResync 1 mark) s = goesTo s (counts rl.settings.threshold 0)) ∧
      (rl.hold = false → exec (.rxResync 1 mark) s = goesTo s (takeMark mark (counts rl.settings.threshold 0)))) ∧
    (rl.hold = false → exec (.rxResync 2 mark) s =
      goesTo s (takeMark mark (counts 0 (min rl.settings.threshold (rl.clearCount + 1))))) ∧
    (rl.hold = true → rl.clearCount + 1 ≠ rl.settings.threshold → exec (.rxResync 2 mark) s =
      goesTo s (counts 0 (min rl.settings.threshold (rl.clearCount + 1)))) ∧
    (rl.hold = true → rl.clearCount + 1 = rl.settings.threshold → exec (.rxResync 2 mark) s = goesTo s (takeMark mark
      { counts 0 rl.settings.threshold with rl.hold := false, rl.resyncTimer := false, rl.attempts := 0 }))) ∧
  (∀ s : State, Powered s →
    let rl := s.dev.rl
    let holding := rl.link = .up ∧ rl.hold = true ∧ rl.resyncTimer = true
    (¬ holding → exec .resyncTimeout s = goesTo s s.dev) ∧
    (holding → rl.attempts + 1 < rl.settings.attemptLimit →
      ((∃ n, rl.activity = .rewindRun n) → exec .resyncTimeout s = goesTo s { s.dev with rl.attempts := rl.attempts + 1 }) ∧
      ((∀ n, rl.activity ≠ .rewindRun n) → exec .resyncTimeout s =
        goesTo s { s.dev with rl.attempts := rl.attempts + 1, rl.runOwed := true })) ∧
    (holding → rl.settings.attemptLimit ≤ rl.attempts + 1 → ∃ d, exec .resyncTimeout s = goesTo s d ∧
      d.rl.link = .down ∧ d.rl.hold = false ∧ d.rl.attempts = 0 ∧ d.rl.ring = [] ∧ d.op.holds .link = true ∧
      ∀ n ∈ d.nu.urgent, n.age < 60 * s.dev.nu.fallbackDelay))

/-- The transmitter's choice when the line falls free in UP: an owed START, the run or replay begun, an owed REWIND run, an owed
rewind as a CLEAR run, a notice offered, which leaves its class's group and on which what waited for its place in the queue resumes, a
MARK due, an IDLE due, or rest. The end of a CLEAR run fixes the replay's list; the end of a REWIND run, or of a replay, frees the
line for the choices that follow, a further rewind having become the one owed and the mark in the mark hold having been applied. That
the look at the line is a command of its own, and that an expiry is taken as the moment it names, are the model's (logs 2, 24). -/
def Obligations.LineIsUsed : Prop :=
  ∀ s : State, Powered s →
    let rl := s.dev.rl
    let free := exec .txLineFree s
    let sends (f : RelayFrame) (mark : Nat) (d : Device) : Device := { d with
      rl.frame := some f, rl.lastMark := mark, rl.markDue := false, rl.idleDue := false }
    (rl.link = .off ∨ rl.link = .down → free = goesTo s s.dev) ∧
    (rl.link = .starting → free = goesTo s { s.dev with rl.frame := none }) ∧
    (rl.link = .up → rl.activity = .rest →
      let none' := rl.startOwed = false ∧ rl.runOwed = false ∧ rl.rewindOwed = false
      (rl.startOwed = true → free = goesTo s (sends .start 0 { s.dev with rl.startOwed := false })) ∧
      (rl.startOwed = false → rl.runOwed = true → free = goesTo s (sends (.resyncRewind rl.collected) rl.collected
        { s.dev with rl.runOwed := false, rl.activity := .rewindRun (rl.settings.runLength - 1) })) ∧
      (rl.startOwed = false → rl.runOwed = false → rl.rewindOwed = true → free =
        goesTo s (sends (.resyncClear rl.collected) rl.collected
          { s.dev with rl.rewindOwed := false, rl.activity := .clearRun (rl.settings.runLength - 1) })) ∧
      (∀ n, none' → s.dev.offered = some n → ∃ d, free = goesTo s d ∧
        let seq := if 255 ≤ rl.sendSeq then 1 else rl.sendSeq + 1
        let place := (rl.writePos + 1) % 128
        d.rl = (sends (.note seq place rl.collected n) rl.collected { s.dev with
          rl.ring := rl.ring ++ [⟨n, seq, place⟩], rl.sendSeq := seq }).rl ∧
        (∀ m, m ∈ d.nu.queued ↔ m ∈ s.dev.nu.queued ∧ m.tag ≠ n.tag) ∧ QueueFallResumes s.dev d ∧
        d.nu.urgent = s.dev.nu.urgent.filter (·.tag != n.tag) ∧ d.nu.routine = s.dev.nu.routine.filter (·.tag != n.tag) ∧
        d.nu.bulk = s.dev.nu.bulk.filter (·.tag != n.tag) ∧
        d = { s.dev with
          rl := d.rl, ae.sweeps := d.ae.sweeps, nu.urgent := d.nu.urgent, nu.routine := d.nu.routine, nu.bulk := d.nu.bulk
          nu.fanout := d.nu.fanout }) ∧
      (none' → s.dev.offered = none →
        let mark := rl.markDue = true ∧ rl.collected ≠ rl.lastMark
        (mark → free = goesTo s (sends (.mark rl.collected) rl.collected s.dev)) ∧
        (¬ mark → rl.idleDue = true → free = goesTo s (sends (.idle rl.collected) rl.collected s.dev)) ∧
        (¬ mark → rl.idleDue = false → free = goesTo s { s.dev with rl.frame := none }))) ∧
    (rl.link = .up → rl.activity = .rewindRun 0 → free = exec .txLineFree { s with dev := { s.dev with rl.activity := .rest } }) ∧
    (rl.link = .up → rl.activity = .replay [] ∨ rl.activity = .clearRun 0 ∧ rl.ring = [] → rl.markHold = none →
      free = exec .txLineFree { s with dev := { s.dev with
        rl.activity := .rest, rl.rewindOwed := rl.rewindOwed || rl.furtherOwed, rl.furtherOwed := false } }) ∧
    (∀ m, rl.link = .up → rl.activity = .replay [] ∨ rl.activity = .clearRun 0 ∧ rl.ring = [] → rl.markHold = some m →
      free = exec .txLineFree { s with dev := takeMark m { s.dev with
        rl.frame := none, rl.activity := .rest, rl.rewindOwed := rl.rewindOwed || rl.furtherOwed, rl.furtherOwed := false
        rl.markHold := none } }) ∧
    (∀ n, rl.link = .up → rl.startOwed = false → rl.activity = .rewindRun (n + 1) → free =
      goesTo s (sends (.resyncRewind rl.collected) rl.collected { s.dev with rl.activity := .rewindRun n })) ∧
    (∀ n, rl.link = .up → rl.startOwed = false → rl.activity = .clearRun (n + 1) → free =
      goesTo s (sends (.resyncClear rl.collected) rl.collected { s.dev with rl.activity := .clearRun n })) ∧
    (∀ e l, rl.link = .up → rl.startOwed = false → (rl.activity = .replay (e :: l) ∨ rl.activity = .clearRun 0 ∧ rl.ring = e :: l) →
      free = goesTo s (sends (.note e.seq e.place rl.collected e.notice) rl.collected { s.dev with rl.activity := .replay l })) ∧
    (rl.link = .up → rl.hold = false → rl.collected ≠ rl.lastMark → exec .markDue s = goesTo s { s.dev with rl.markDue := true }) ∧
    (rl.link ≠ .up ∨ rl.hold = true ∨ rl.collected = rl.lastMark → exec .markDue s = goesTo s s.dev) ∧
    (rl.link = .up → rl.frame = none → exec .idleDue s = goesTo s { s.dev with rl.idleDue := true }) ∧
    (rl.link ≠ .up ∨ rl.frame ≠ none → exec .idleDue s = goesTo s s.dev) ∧
    (∀ n, s.dev.offered = some n ↔ s.dev.tb.rollover = none ∧ rl.link = .up ∧ rl.hold = false ∧ rl.startOwed = false ∧
      rl.runOwed = false ∧ rl.rewindOwed = false ∧ rl.furtherOwed = false ∧ rl.activity = .rest ∧
      s.dev.nu.queued.find? (fun m => decide (rl.ring.length <
        (match m.cls with | .urgent => 64 | .routine => 56 | .bulk => 32))) = some n)

/-- SET_LATE_STEP, SET_NOTICE_TIMES and SET_RELAY_LINK clamp what they write and say so; their queries read it back. A shorter
fallback delay acts at once while the link is not UP: every queued URGENT notice as old goes to the desk. The codes of auto-start,
that a code outside them is refused RANGE before STATE, that the time in DOWN stands for the auto-restart timer, and that old notices
go to the desk in queue order, are the model's (logs 11, 13, 34, 47). -/
def Obligations.SettingsAreClampedAndRead : Prop :=
  (∀ (s : State) (tag step : Nat), Ready s →
    (s.dev.tb.rollover.isSome = true →
      exec (.setLateStep tag step) s = refuses s tag 34 .busy ∧ exec (.queryLateStep tag) s = refuses s tag 35 .busy ∧
      exec (.setNoticeTimes tag step step) s = refuses s tag 46 .busy ∧ exec (.queryNoticeTimes tag) s = refuses s tag 47 .busy) ∧
    (s.dev.tb.rollover = none →
      exec (.setLateStep tag step) s = answers s tag 34 ⟨.ok, { clamped := decide (15 < step) }, .empty⟩
        { s.dev with ae.lateStep := min step 15 } ∧
      exec (.queryLateStep tag) s = answers s tag 35 (ok (.lateStep s.dev.ae.lateStep)) s.dev ∧
      exec (.queryNoticeTimes tag) s =
        answers s tag 47 (ok (.noticeTimes s.dev.nu.outcomeTimeout s.dev.nu.fallbackDelay)) s.dev)) ∧
  (∀ (s : State) (tag timeout delay : Nat), Steady s →
    let t := if timeout < 5 then 5 else if 120 < timeout then 120 else timeout
    let f := if delay < 1 then 1 else if 60 < delay then 60 else delay
    let set : Device := { s.dev with nu.outcomeTimeout := t, nu.fallbackDelay := f }
    let a : Answer := ⟨.ok, { clamped := decide (t ≠ timeout ∨ f ≠ delay) }, .empty⟩
    (s.dev.rl.link = .up ∨ (∀ n ∈ s.dev.nu.urgent, n.age < 60 * f) →
      exec (.setNoticeTimes tag timeout delay) s = answers s tag 46 a set) ∧
    (s.dev.rl.link ≠ .up → ∃ d, exec (.setNoticeTimes tag timeout delay) s = answers s tag 46 a d ∧
      d = (s.dev.nu.urgent.filter fun n => decide (60 * f ≤ n.age)).foldl
        (fun e n => toCalls .relayDown none n (leaveQueue n.tag e)) set ∧
      d.nu.outcomeTimeout = t ∧ d.nu.fallbackDelay = f ∧ ∀ n ∈ d.nu.urgent, n.age < 60 * f)) ∧
  (∀ (s : State) (tag run threshold time limit silence delay : Nat) (autoStart : Bool), Ready s →
    let within (lo hi n : Nat) : Nat := if n < lo then lo else if hi < n then hi else n
    let asked : RelaySettings := ⟨run, threshold, time, limit, silence, delay, autoStart⟩
    let set : RelaySettings := ⟨within 4 32 run, min (within 2 16 threshold) (within 4 32 run), within 50 2000 time, within 1 15 limit,
      within 2 30 silence, if delay = 0 then 0 else within 10 600 delay, autoStart⟩
    let a : Answer := ⟨.ok, { clamped := decide (set ≠ asked) }, .empty⟩
    let request := exec (.setRelayLink tag run threshold time limit silence delay (if autoStart then 1 else 2)) s
    exec (.queryRelayLink tag) s = answers s tag 51 (ok (.relaySettings s.dev.rl.settings)) s.dev ∧
    (s.dev.rl.link = .starting ∨ s.dev.rl.link = .up → request = refuses s tag 50 .state) ∧
    (s.dev.rl.link = .off ∨ (s.dev.rl.link = .down ∧ (set.autoRestart = 0 ∨ s.dev.rl.downFor < set.autoRestart)) →
      request = answers s tag 50 a { s.dev with rl.settings := set }) ∧
    (s.dev.rl.link = .down → set.autoRestart ≠ 0 → set.autoRestart ≤ s.dev.rl.downFor →
      request = answers s tag 50 a (({ s.dev with
        rl.settings := set, rl.link := .starting, rl.frame := some .start, rl.lastMark := 0, rl.markDue := false
        rl.idleDue := false } : Device).raise .link))) ∧
  (∀ (s : State) (tag run threshold time limit silence delay setting : Nat), Ready s → setting ≠ 1 → setting ≠ 2 →
    exec (.setRelayLink tag run threshold time limit silence delay setting) s = refuses s tag 50 .range)

/-- The LINK lamp by its mode, LINK_LAMP_MODE and LAMP, and QUERY_LINK, which shows the link as it stands. The codes of AUTO and
ON, that a value outside them is refused RANGE before STATE, and the time remaining on the auto-restart timer in whole running
seconds, are the model's (logs 11, 13, 34). -/
def Obligations.LampFollowsTheLink : Prop :=
  (∀ rl : RelayLink, (rl.lampAuto = true → (rl.lampLit = true ↔ rl.link = .up)) ∧ (rl.lampAuto = false → rl.lampLit = rl.lampManual)) ∧
  (∀ (s : State) (tag n : Nat), Ready s →
    (n ≠ 1 → n ≠ 2 → exec (.linkLampMode tag n) s = refuses s tag 53 .range ∧ exec (.lamp tag n) s = refuses s tag 54 .range) ∧
    (∃ d, exec (.linkLampMode tag 1) s = answers s tag 53 (ok .empty) d ∧ d.rl.lampAuto = true ∧
      (d.rl.lampLit = true ↔ d.rl.link = .up) ∧ d = { s.dev with rl.lampAuto := true, rl.lampManual := d.rl.lampManual }) ∧
    (∃ d, exec (.linkLampMode tag 2) s = answers s tag 53 (ok .empty) d ∧ d.rl.lampAuto = false ∧
      d.rl.lampLit = s.dev.rl.lampLit ∧ d = { s.dev with rl.lampAuto := false, rl.lampManual := d.rl.lampManual }) ∧
    (∀ on : Bool, s.dev.rl.lampAuto = true → exec (.lamp tag (if on then 1 else 2)) s = refuses s tag 54 .state) ∧
    (∀ on : Bool, s.dev.rl.lampAuto = false → ∃ d, exec (.lamp tag (if on then 1 else 2)) s = answers s tag 54 (ok .empty) d ∧
      d = { s.dev with rl.lampManual := on } ∧ d.rl.lampLit = on)) ∧
  (∀ (s : State) (tag : Nat), Ready s →
    let rl := s.dev.rl
    ∃ r : LinkReply, exec (.queryLink tag) s = answers s tag 52 (ok (.link r)) s.dev ∧
      r.link = rl.link ∧ r.lampAuto = rl.lampAuto ∧ r.lampLit = rl.lampLit ∧ r.hold = rl.hold ∧ r.rewindCount = rl.rewindCount ∧
      r.clearCount = rl.clearCount ∧ r.attempts = rl.attempts ∧ (r.start = true ↔ rl.startOwed = true ∨ rl.frame = some .start) ∧
      (r.rewindRun = true ↔ rl.runOwed = true ∨ ∃ n, rl.activity = .rewindRun n) ∧
      (r.rewind = true ↔
        rl.rewindOwed = true ∨ rl.furtherOwed = true ∨ (∃ n, rl.activity = .clearRun n) ∨ ∃ l, rl.activity = .replay l) ∧
      (r.replay = true ↔ ∃ l, rl.activity = .replay l) ∧ r.readPos = rl.readPos ∧
      r.writePos = (rl.readPos + rl.ring.length) % 128 ∧ r.occupancy = rl.ring.length ∧
      r.ring = [(rl.ring.filter (·.notice.cls == .urgent)).length, (rl.ring.filter (·.notice.cls == .routine)).length,
        (rl.ring.filter (·.notice.cls == .bulk)).length] ∧ r.sendSeq = rl.sendSeq ∧ r.lastSeq = rl.lastSeq ∧
      r.lastPlace = rl.lastPlace ∧ r.collected = rl.collected ∧ r.markHold = rl.markHold ∧ r.held = rl.rolloverHold.length ∧
      (rl.link = .down → rl.settings.autoRestart ≠ 0 → r.autoRestart = some (rl.settings.autoRestart - rl.downFor)) ∧
      (rl.link ≠ .down ∨ rl.settings.autoRestart = 0 → r.autoRestart = none))

/-! ### The Sounder Unit -/

/-- LOAD_PATTERN refuses a number or mode outside its table and otherwise clamps each field of the mode and replaces the entry;
QUERY_PATTERN returns it. Neither touches a generator that plays. The mode codes are the model's (log 11). -/
def Obligations.PatternsAreLoadedClamped : Prop :=
  (∀ (s : State) (tag number n p k r d : Nat), Ready s →
    let within (lo hi v : Nat) : Nat := if v < lo then lo else if hi < v then hi else v
    let load (mode : Nat) := exec (.loadPattern tag number mode n p k r d) s
    let put (clamped : Bool) (x : Pattern) := answers s tag 55 ⟨.ok, { clamped := clamped }, .empty⟩
      { s.dev with su.patterns := s.dev.su.patterns.set (number - 1) x }
    let period := within 2 100 p
    let on := within 1 (period - 1) k
    (∀ mode, number = 0 ∨ 16 < number ∨ mode = 0 ∨ 4 < mode → load mode = refuses s tag 55 .range) ∧
    (1 ≤ number → number ≤ 16 →
      load 1 = put (decide (within 1 600 n ≠ n)) ⟨.ring, within 1 600 n, p, k, r, d⟩ ∧
      load 2 = put (decide (period ≠ p ∨ on ≠ k ∨ within 1 99 r ≠ r)) ⟨.pulse, n, period, on, within 1 99 r, d⟩ ∧
      load 3 = put (decide (within 2 40 p ≠ p ∨ within 1 600 d ≠ d)) ⟨.warble, n, within 2 40 p, k, r, within 1 600 d⟩ ∧
      load 4 = put (decide (min 50 n ≠ n)) ⟨.chirp, min 50 n, p, k, r, d⟩)) ∧
  (∀ (s : State) (tag number : Nat), Ready s →
    (number = 0 ∨ 16 < number → exec (.queryPattern tag number) s = refuses s tag 56 .range) ∧
    (∀ x, 1 ≤ number → number ≤ 16 → s.dev.su.patterns[number - 1]? = some x →
      exec (.queryPattern tag number) s = answers s tag 56 (ok (.pattern x)) s.dev))

/-- A generator: its output in each unit and its length by mode; what a start does by what plays; and a unit passing, which
moves it on, or ends the pattern and begins the one that waits, or leaves it IDLE. A generator without a length ends at once,
and a unit's end is taken as the moment it names: the model's (logs 2, 37). -/
def Obligations.GeneratorsPlayPatterns : Prop :=
  (∀ (x : Pattern) (u : Nat),
    (x.mode = .ring → x.length = x.n ∧ x.output u = if u < x.n then .steady else .silent) ∧
    (x.mode = .pulse → x.length = x.p * x.r ∧ x.output u = if u % x.p < x.k then .steady else .silent) ∧
    (x.mode = .warble → x.length = x.d ∧ x.output u = if u % x.p < (x.p + 1) / 2 then .toneA else .toneB) ∧
    (x.mode = .chirp → x.length = x.n + 1 ∧ (u ≤ x.n → x.output u = if u = x.n then .steady else .silent))) ∧
  (∀ (d : Device) (i : Nat) (g : Nat), 1 ≤ g → g ≤ d.su.generators.length →
    let gen := d.su.generator g
    let after := (startPattern g i d).su
    startPattern g i d = settling (fun e => { e with su.generators := after.generators }) d ∧
    (∀ h, 1 ≤ h → h ≠ g → after.generator h = d.su.generator h) ∧
    (gen.playing = none → after.generator g = ⟨some ⟨i, d.su.pattern i, 0⟩, gen.waiting⟩) ∧
    (∀ q, gen.playing = some q → q.copy.mode = .ring ∨ q.copy.mode = .chirp →
      after.generator g = ⟨some ⟨i, d.su.pattern i, 0⟩, gen.waiting⟩) ∧
    (∀ q, gen.playing = some q → q.copy.mode = .pulse ∨ q.copy.mode = .warble → after.generator g = ⟨some q, some i⟩)) ∧
  (∀ (s : State) (g : Nat), Powered s → 1 ≤ g → g ≤ s.dev.su.generators.length → ∃ d, exec (.generatorUnit g) s = goesTo s d ∧
    let gen := s.dev.su.generator g
    d = settling (fun e => { e with su.generators := d.su.generators }) s.dev ∧
    d = { s.dev with
      su.generators := d.su.generators, su.zones := d.su.zones, op.causes := d.op.causes, op.changedZones := d.op.changedZones } ∧
    (∀ h, 1 ≤ h → h ≠ g → d.su.generator h = s.dev.su.generator h) ∧
    (gen.playing = none → d.su.generator g = gen) ∧
    (∀ q, gen.playing = some q → q.elapsed + 1 < q.copy.length →
      d.su.generator g = ⟨some ⟨q.number, q.copy, q.elapsed + 1⟩, gen.waiting⟩) ∧
    (∀ q, gen.playing = some q → q.copy.length ≤ q.elapsed + 1 →
      (gen.waiting = none → d.su.generator g = ⟨none, none⟩) ∧
      (∀ i, gen.waiting = some i → d.su.generator g = ⟨some ⟨i, s.dev.su.pattern i, 0⟩, none⟩)))

/-- LOAD_ROUTE, QUERY_ROUTE, SWAP_BANK and SET_QUIET: checks, the banks and flags after, and nothing else where no zone is
supervised. SWAP_BANK makes the exchange that a ROUTE_SWAP makes. The bank codes, and that a quiet-eligible byte above 1 is refused RANGE, are the model's (logs 10, 11). -/
def Obligations.RoutesAndQuietFlagsAreWritten : Prop :=
  (∀ (s : State) (tag bank : Nat) (entries : List RouteEntryOp), Ready s →
    let load := exec (.loadRoute tag bank entries) s
    let bad : RouteEntryOp → Prop := fun e => e.zone = 0 ∨ 24 < e.zone ∨ e.source = 0 ∨ 5 < e.source ∨ 1 < e.quietEligible ∨
      e.faultLevel = 0 ∨ 2 < e.faultLevel
    let outside := (bank ≠ 1 ∧ bank ≠ 2) ∨ entries = [] ∨ 24 < entries.length ∨ ∃ e ∈ entries, bad e
    (outside → load = refuses s tag 57 .range) ∧
    (¬ outside → ¬ (entries.map (·.zone)).Nodup → load = refuses s tag 57 .duplicate) ∧
    (¬ outside → (entries.map (·.zone)).Nodup → s.dev.su.bankA.length = 24 → s.dev.su.bankB.length = 24 → ∃ d l,
      load = answers s tag 57 (ok .empty) d ∧ l.length = 24 ∧
      (∀ e ∈ entries, l[e.zone - 1]? =
        some ⟨if e.source = 1 then none else some (e.source - 1), e.quietEligible == 1, e.faultLevel == 2⟩) ∧
      (∀ z, 1 ≤ z → z ≤ 24 → (∀ e ∈ entries, e.zone ≠ z) →
        l[z - 1]? = (if bank = 1 then s.dev.su.bankA else s.dev.su.bankB)[z - 1]?) ∧
      d.su.bankA = (if bank = 1 then l else s.dev.su.bankA) ∧ d.su.bankB = (if bank = 1 then s.dev.su.bankB else l) ∧
      d = settling (fun e => { e with su.bankA := d.su.bankA, su.bankB := d.su.bankB }) s.dev ∧
      d = { s.dev with
        su.bankA := d.su.bankA, su.bankB := d.su.bankB, su.zones := d.su.zones
        op.causes := d.op.causes, op.changedZones := d.op.changedZones } ∧
      ((∀ v ∈ s.dev.su.zones, v.supervised = false) → d = { s.dev with su.bankA := d.su.bankA, su.bankB := d.su.bankB }))) ∧
  (∀ (s : State) (tag bank : Nat), Ready s →
    (bank ≠ 1 → bank ≠ 2 → exec (.queryRoute tag bank) s = refuses s tag 58 .range) ∧
    exec (.queryRoute tag 1) s = answers s tag 58 (ok (.route s.dev.su.bankA s.dev.su.active)) s.dev ∧
    exec (.queryRoute tag 2) s = answers s tag 58 (ok (.route s.dev.su.bankB s.dev.su.active)) s.dev) ∧
  (∀ (s : State) (tag : Nat), Ready s → ∃ d, exec (.swapBank tag) s = answers s tag 59 (ok .empty) d ∧
    d = exchangeBanks s.dev ∧ d.su.active ≠ s.dev.su.active ∧ d = settling (fun e => { e with su.active := d.su.active }) s.dev ∧ d = { s.dev with
      su.active := d.su.active, su.zones := d.su.zones, op.causes := d.op.causes, op.changedZones := d.op.changedZones } ∧
    ((∀ v ∈ s.dev.su.zones, v.supervised = false) → d = { s.dev with su.active := d.su.active })) ∧
  (∀ (s : State) (tag : Nat) (zones : ZoneSet), Ready s → ∃ d, exec (.setQuiet tag zones) s = answers s tag 60 (ok .empty) d ∧
    d = settling (fun e => { e with su.quiet := zones }) s.dev ∧ d = { s.dev with
      su.quiet := zones, su.zones := d.su.zones, op.causes := d.op.causes, op.changedZones := d.op.changedZones } ∧
    ((∀ v ∈ s.dev.su.zones, v.supervised = false) → d = { s.dev with su.quiet := zones }))

/-- ALERT and PA by their requests and inputs. A change of ALERT's state or mask sets ALERT. Beside what a command names only
zone supervision, its causes and its changed zones may move, by the settling of every zone after the change, and where no zone is
supervised nothing else does. That with main power off the two inputs' levels are only noted, that the warble's phase runs 0..9
in units, and that a unit's end is taken as the moment it names, are the model's (logs 2, 7, 33). -/
def Obligations.AlertAndPaAreSet : Prop :=
  let settled (s : State) (raised : Bool) (u : Sounder) (d : Device) : Prop :=
    let moved := settling (fun e => { e with su := u }) s.dev
    d = (if raised then moved.raise .alert else moved) ∧
    d = { s.dev with
      su := { u with zones := d.su.zones }, op.causes := d.op.causes, op.changedZones := d.op.changedZones } ∧
    (raised = true → d.op.holds .alert = true) ∧
    ((∀ v ∈ s.dev.su.zones, v.supervised = false) →
      d = if raised then ({ s.dev with su := u } : Device).raise .alert else { s.dev with su := u })
  (∀ (s : State) (tag : Nat) (zones : ZoneSet), Ready s →
    let su := s.dev.su
    let served (o : Host.Outcome State Fault Refusal) (code : Nat) (raised : Bool) (u : Sounder) : Prop :=
      ∃ d, o = answers s tag code (ok .empty) d ∧ settled s raised u d
    (zones = 0 → exec (.alertStart tag zones) s = refuses s tag 61 .range ∧ exec (.setAlertInput tag zones) s = refuses s tag 63 .range ∧
      exec (.paStart tag zones) s = refuses s tag 64 .range) ∧
    (zones ≠ 0 →
      (su.alert = none → served (exec (.alertStart tag zones) s) 61 true { su with alert := some ⟨zones, 0⟩ }) ∧
      (∀ a, su.alert = some a → served (exec (.alertStart tag zones) s) 61 (a.zones ||| zones != a.zones)
        { su with alert := some { a with zones := a.zones ||| zones } }) ∧
      exec (.setAlertInput tag zones) s = answers s tag 63 (ok .empty) { s.dev with su.alertInputZones := zones } ∧
      served (exec (.paStart tag zones) s) 64 false { su with paRequest := zones }) ∧
    (su.alertLevel = true → exec (.alertStop tag) s = refuses s tag 62 .state) ∧
    (su.alertLevel = false → served (exec (.alertStop tag) s) 62 su.alert.isSome { su with alert := none }) ∧
    served (exec (.paStop tag) s) 65 false { su with paRequest := 0 } ∧
    served (exec (.setPaKey tag zones) s) 66 false { su with paKeyZones := zones }) ∧
  (∀ s : State, Powered s →
    let su := s.dev.su
    let seen (o : Host.Outcome State Fault Refusal) (raised : Bool) (u : Sounder) : Prop := ∃ d, o = goesTo s d ∧ settled s raised u d
    (∀ held, seen (exec (.paKey held) s) false { su with paKeyHeld := held }) ∧
    (∀ level, su.alertLevel = level → exec (.alertInput level) s = goesTo s s.dev) ∧
    (su.alertLevel = true → exec (.alertInput false) s = goesTo s { s.dev with su.alertLevel := false }) ∧
    (su.alertLevel = false →
      (su.alert = none → seen (exec (.alertInput true) s) true
        { su with alertLevel := true, alert := some ⟨su.alertInputZones, 0⟩ }) ∧
      (∀ a, su.alert = some a → seen (exec (.alertInput true) s) (a.zones ||| su.alertInputZones != a.zones)
        { su with alertLevel := true, alert := some { a with zones := a.zones ||| su.alertInputZones } }))) ∧
  (∀ s : State, Powered s →
    (s.dev.su.alert = none → exec .alertWarbleUnit s = goesTo s s.dev) ∧
    (∀ a, s.dev.su.alert = some a →
      exec .alertWarbleUnit s = goesTo s { s.dev with su.alert := some ⟨a.zones, (a.phase + 1) % 10⟩ } ∧
      (a.level = .toneA ↔ a.phase < 5) ∧ (a.level = .toneB ↔ 5 ≤ a.phase))) ∧
  (∀ (s : State) (level : Bool), s.dev.mainPower = false →
    exec (.alertInput level) s = goesTo s { s.dev with su.alertLevel := level } ∧
    exec (.paKey level) s = goesTo s { s.dev with su.paKeyHeld := level })

/-- R161 as QUERY_ZONES shows it: the demand of a zone by the first step that applies, whether it is engaged, and the level of
its line, the fault level while it is in FAULT. No zone carries a generator while the clock is INVALID. QUERY_SOUNDER shows the
rest. -/
def Obligations.ZonesAreDrivenByTheFirstDemand : Prop :=
  (∀ (s : State) (tag : Nat), Ready s → ∃ l : List ZoneReply, exec (.queryZones tag) s = answers s tag 69 (ok (.zones l)) s.dev ∧
    l.length = 24 ∧ ∀ z r, 1 ≤ z → z ≤ 24 → l[z - 1]? = some r →
      let su := s.dev.su
      let has (m : ZoneSet) := m.getLsbD (z - 1) = true
      let alerted := ∃ a, su.alert = some a ∧ has a.zones
      let paged := has su.paRequest ∨ su.paKeyHeld = true ∧ has su.paKeyZones
      let hushed := s.dev.tb.validity = .invalid ∨ r.route.source = none ∨ has su.quiet ∧ r.route.quietEligible = true
      (∀ e, (match su.active with | .a => su.bankA | .b => su.bankB)[z - 1]? = some e → r.route = e) ∧
      (r.quiet = true ↔ has su.quiet) ∧ (r.inAlert = true ↔ alerted) ∧ (r.inPa = true ↔ paged) ∧
      (alerted → r.demand = .alertWarble ∧ r.engaged = true) ∧
      (¬ alerted → paged → r.demand = .paLine ∧ r.engaged = true) ∧
      (¬ alerted → ¬ paged → hushed → r.demand = .silent ∧ r.engaged = false) ∧
      (∀ g, ¬ alerted → ¬ paged → ¬ hushed → r.route.source = some g →
        r.demand = .generator g ∧ r.engaged = (su.generator g).playing.isSome) ∧
      (∀ g, s.dev.tb.validity = .invalid → r.demand ≠ .generator g) ∧
      (∀ v, su.zones[z - 1]? = some v → r.supervised = v.supervised ∧ r.fault = v.fault ∧ r.bad = v.bad ∧ r.good = v.good) ∧
      (r.fault = true → r.level = if r.route.steadyFault then .steady else .silent) ∧
      (r.fault = false →
        (∀ a, alerted → su.alert = some a → r.level = if a.phase < 5 then .toneA else .toneB) ∧
        (r.demand = .paLine → r.level = .pa) ∧ (r.demand = .silent → r.level = .silent) ∧
        (∀ g, r.demand = .generator g → ((su.generator g).playing = none → r.level = .silent) ∧
          ∀ q, (su.generator g).playing = some q → r.level = q.copy.output q.elapsed))) ∧
  (∀ (s : State) (tag : Nat), Ready s → ∃ r : SounderReply, exec (.querySounder tag) s = answers s tag 68 (ok (.sounder r)) s.dev ∧
    let su := s.dev.su
    r.generators.length = su.generators.length ∧
    (∀ (i : Nat) (g : Generator) (x : GeneratorReply), su.generators[i]? = some g → r.generators[i]? = some x → x.waiting = g.waiting ∧
      (g.playing = none → x.number = none ∧ x.output = .silent) ∧
      (∀ q, g.playing = some q → x.number = some q.number ∧ x.mode = some q.copy.mode ∧ x.elapsed = q.elapsed ∧
        x.length = q.copy.length ∧ x.output = q.copy.output q.elapsed)) ∧
    r.alert = su.alert.map (·.zones) ∧ r.alertLevel = su.alertLevel ∧ r.alertInputZones = su.alertInputZones ∧
    r.paRequest = su.paRequest ∧ r.paKeyHeld = su.paKeyHeld ∧ r.paKeyZones = su.paKeyZones ∧ r.active = su.active)

/-- Supervision: the count of a check by the zone's state; an idle check; SET_SUPERVISION and its frame, which sets ZONE and marks the
zones exactly where it takes supervision from a zone in FAULT; and the settling of every zone after a change of what demands depend on:
a supervised zone that becomes idle starts its timer, one that becomes engaged stops it and is checked, its sounding start, and any
other stands. That IDLE_CHECK is taken as the moment it names, whatever the timer shows, is the model's (log 2). -/
def Obligations.ZonesAreSupervised : Prop :=
  (∀ v : ZoneSupervision,
    (v.fault = false → v.counted true = { v with bad := 0 }) ∧
    (v.fault = false → v.bad < 2 → v.counted false = { v with bad := v.bad + 1 }) ∧
    (v.fault = false → 2 ≤ v.bad → v.counted false = { v with fault := true, bad := 0, good := 0 }) ∧
    (v.fault = true → v.counted false = { v with good := 0 }) ∧
    (v.fault = true → v.good < 2 → v.counted true = { v with good := v.good + 1 }) ∧
    (v.fault = true → 2 ≤ v.good → v.counted true = { v with fault := false, bad := 0, good := 0 })) ∧
  (∀ (s : State) (z : Nat) (v : ZoneSupervision), Powered s → 1 ≤ z → z ≤ 24 → s.dev.su.zones[z - 1]? = some v →
    let new := { v with timer := some 0 }.counted (s.dev.sense.getLsbD (z - 1))
    let written : Device := { s.dev with su.zones := s.dev.su.zones.set (z - 1) new }
    (v.supervised = false ∨ v.timer = none → exec (.idleCheck z) s = goesTo s s.dev) ∧
    (v.supervised = true → v.timer.isSome = true →
      (new.fault = v.fault → exec (.idleCheck z) s = goesTo s written) ∧
      (new.fault ≠ v.fault → exec (.idleCheck z) s = goesTo s { written with
        op.causes := s.dev.op.causes ||| 0x080#12
        op.changedZones := s.dev.op.changedZones ||| (1#24 <<< (z - 1)) }))) ∧
  (∀ (s : State) (tag : Nat) (zones : ZoneSet), Ready s → s.dev.su.zones.length = 24 → ∃ d,
    exec (.setSupervision tag zones) s = answers s tag 67 (ok .empty) d ∧ d.tb = s.dev.tb ∧ d.nu = s.dev.nu ∧
    d.su.zones.length = 24 ∧
    let freed (z : Nat) : Prop :=
      ∃ v, s.dev.su.zones[z - 1]? = some v ∧ v.supervised = true ∧ v.fault = true ∧ zones.getLsbD (z - 1) = false
    ((∀ z, 1 ≤ z → z ≤ 24 → ¬ freed z) → d.op.causes = s.dev.op.causes) ∧
    (∀ z, 1 ≤ z → z ≤ 24 → freed z → d.op.causes = s.dev.op.causes ||| 0x080#12) ∧
    (∀ z, 1 ≤ z → z ≤ 24 →
      (d.op.changedZones.getLsbD (z - 1) = true ↔ s.dev.op.changedZones.getLsbD (z - 1) = true ∨ freed z)) ∧
    (∀ z v, 1 ≤ z → z ≤ 24 → s.dev.su.zones[z - 1]? = some v →
      (v.supervised = zones.getLsbD (z - 1) → d.su.zones[z - 1]? = some v) ∧
      (v.supervised = true → zones.getLsbD (z - 1) = false → d.su.zones[z - 1]? = some ⟨false, false, 0, 0, none⟩) ∧
      (v.supervised = false → zones.getLsbD (z - 1) = true → d.su.zones[z - 1]? =
        some ⟨true, v.fault, v.bad, v.good, if s.dev.engaged z then none else some 0⟩)) ∧
    d = { s.dev with
      su.zones := d.su.zones, op.causes := d.op.causes, op.changedZones := d.op.changedZones }) ∧
  (∀ (change : Device → Device) (d : Device),
    settling change d = (List.range' 1 24).foldl (fun e z => e.settleZone (d.engaged z) z) (change d) ∧
    (∀ z v, 1 ≤ z → z ≤ 24 → (change d).su.zones.length = 24 → (change d).su.zones[z - 1]? = some v →
      let new := { v with timer := none }.counted ((change d).sense.getLsbD (z - 1))
      let engaged := (change d).engaged z
      let after := (settling change d).su.zones[z - 1]?
      (v.supervised = false ∨ engaged = d.engaged z → after = some v) ∧
      (v.supervised = true → d.engaged z = true → engaged = false → after = some { v with timer := some 0 }) ∧
      (v.supervised = true → d.engaged z = false → engaged = true → after = some new ∧
        (new.fault ≠ v.fault → (settling change d).op.holds .zone = true ∧
          (settling change d).op.changedZones.getLsbD (z - 1) = true)))) ∧
  (∀ (d : Device) (was : Bool) (z : Nat) (v : ZoneSupervision), 1 ≤ z → d.su.zones[z - 1]? = some v →
    let put (x : ZoneSupervision) : Device := { d with su.zones := d.su.zones.set (z - 1) x }
    let new := { v with timer := none }.counted (d.sense.getLsbD (z - 1))
    (v.supervised = false ∨ d.engaged z = was → d.settleZone was z = d) ∧
    (v.supervised = true → was = true → d.engaged z = false → d.settleZone was z = put { v with timer := some 0 }) ∧
    (v.supervised = true → was = false → d.engaged z = true →
      (new.fault = v.fault → d.settleZone was z = put new) ∧
      (new.fault ≠ v.fault → d.settleZone was z = ((put new).raise .zone).markZone z)))

/-! ### The Gate Bus -/

/-- SET_STATION and QUERY_STATIONS; the start of a round, at its broadcast; and the next poll, at the first address from the one
reached that the round polls now, which carries the station's owed verdicts and empties them, or ends the round where there is none.
Neither happens during a rollover, nor while an exchange is in progress. Behind its broadcast and with no poll in flight the round
settles at the next address it polls, or past the last, and an address passed by is not polled again in it. A flag byte other than
0 and 1 is refused RANGE (the model's, log 10). When a round may begin, and that a poll waits for the records of the reply before it,
is read as in log 27, and that records wait and are taken before SET_STATION is log 26. A disable of the station polled leaves the poll
in flight, its reply to be dropped, whatever SET_STATION does after it (log 42). -/
def Obligations.StationsArePolledInRounds : Prop :=
  let due (gb : GateBus) (a : Nat) : Prop := gb.reached ≤ a ∧ ((gb.station a).state = .syncing ∨ (gb.station a).state = .active ∨
    ((gb.station a).state = .searching ∨ (gb.station a).state = .lost) ∧ gb.round + 1 = a)
  (∀ d : Device,
    (d.gb.inFlight ≠ none ∨ d.gb.reached = 0 → settleRound d = d) ∧
    (d.gb.inFlight = none → d.gb.reached ≠ 0 →
      (∀ a, 1 ≤ a → a ≤ 8 → due d.gb a → (∀ c, 1 ≤ c → c < a → ¬ due d.gb c) → settleRound d = { d with gb.reached := a }) ∧
      ((∀ a, 1 ≤ a → a ≤ 8 → ¬ due d.gb a) → settleRound d = { d with gb.reached := 9 }))) ∧
  (∀ (s : State) (tag address site : Nat) (enabled : Bool), Ready s → s.dev.gb.stations.length = 8 →
    let set := exec (.setStation tag address (if enabled then 1 else 0) site) s
    let inside := 1 ≤ address ∧ address ≤ 8 ∧ site ≤ 2
    let b := takeWaiting s.dev
    let st := b.gb.station address
    let put (new : Station) (drop : Bool) : Device :=
      settleRound { b with gb.stations := b.gb.stations.set (address - 1) new, gb.replyDropped := drop }
    let fresh (state : StationState) : Station := ⟨state, site, 0, [], [], st.missedTotal, st.repeatTotal⟩
    let stays := s.dev.gb.replyDropped
    let dropped := stays || decide (s.dev.gb.inFlight = some address)
    (s.dev.gb.records = [] → b = s.dev) ∧ b.gb.records = [] ∧ b.gb.inFlight = s.dev.gb.inFlight ∧ b.tb = s.dev.tb ∧
    (¬ inside → set = refuses s tag 70 .range) ∧
    (inside → s.dev.tb.rollover.isSome = true → set = refuses s tag 70 .busy) ∧
    (inside → s.dev.tb.rollover = none →
      (st.state = .disabled → enabled = true → set = answers s tag 70 (ok .empty) (put (fresh .searching) stays)) ∧
      (st.state ≠ .disabled → enabled = true →
        set = answers s tag 70 (ok .empty) (put { st with site := site } stays)) ∧
      (st.state = .disabled → enabled = false → set = answers s tag 70 (ok .empty) (put { st with site := site } dropped)) ∧
      (st.state ≠ .disabled → enabled = false → set = answers s tag 70 (ok .empty) (put (fresh .disabled) dropped)))) ∧
  (∀ (s : State) (tag address flag site : Nat), Ready s → 1 < flag →
    exec (.setStation tag address flag site) s = refuses s tag 70 .range) ∧
  (∀ (s : State) (tag : Nat), Ready s → ∃ l : List StationReply, exec (.queryStations tag) s =
      answers s tag 71 (ok (.stations s.dev.gb.round s.dev.tb.rollover.isSome l)) s.dev ∧ l.length = s.dev.gb.stations.length ∧
    ∀ (i : Nat) (st : Station) (r : StationReply), s.dev.gb.stations[i]? = some st → l[i]? = some r →
      (r.enabled = true ↔ st.state ≠ .disabled) ∧ r.site = st.site ∧ r.state = st.state ∧ r.misses = st.misses ∧
      r.lastAccepted = st.stored.getLast?.map (·.seq) ∧ r.stored = st.stored.length ∧ r.owed = st.owed.length ∧
      r.missedTotal = st.missedTotal ∧ r.repeatTotal = st.repeatTotal) ∧
  (∀ s : State, Powered s →
    let gb := s.dev.gb
    let rest := s.dev.tb.rollover = none ∧ gb.inFlight = none ∧ gb.records = []
    (¬ rest → exec .gateRoundStart s = goesTo s s.dev ∧ exec .poll s = goesTo s s.dev) ∧
    (rest → (∀ a, 1 ≤ a → a ≤ 8 → ¬ due gb a) → exec .poll s = goesTo s { s.dev with gb.reached := 9 } ∧
      exec .gateRoundStart s = goesTo s { s.dev with
        gb.round := (gb.round + 1) % 8, gb.reached := 0
        gb.frame := some (.broadcast s.dev.tb.date s.dev.tb.second s.dev.tb.validity s.dev.schoolDay
          [s.dev.dayState 0, s.dev.dayState 1, s.dev.dayState 2]) }) ∧
    (∀ a st, rest → 1 ≤ a → a ≤ 8 → due gb a → (∀ c, 1 ≤ c → c < a → ¬ due gb c) → gb.stations[a - 1]? = some st →
      exec .gateRoundStart s = goesTo s s.dev ∧
      exec .poll s = goesTo s { s.dev with
        gb.stations := gb.stations.set (a - 1) { st with owed := [] }, gb.inFlight := some a, gb.replyDropped := false, gb.reached := a + 1
        gb.frame := some (.poll a st.owed) }))

/-- A reply to the poll in flight, good or missed, moves the station by Table 10-2 and, when good, leaves its records waiting;
an entry into ACTIVE or LOST is reported. From a station disabled since its poll a reply is dropped, and it and its timeout only end the
exchange (the timeout: log 42). ARRIVAL_RECORD takes the first record waiting: a sequence whose verdict is stored is a
repeat, owed again; any other is taken by the Attendance Engine, its verdict stored, four at most, and owed. A sequence above 15
is an unknown value. What takes all records waiting takes them as ARRIVAL_RECORD does, one by one. After a reply and its timeout the
place of the round settles; the timeout is taken as the moment it names, and does nothing with no poll in flight. All these are the
model's (logs 2, 26, 27, 28, 40, 42). -/
def Obligations.RepliesMoveStations : Prop :=
  (∀ (s : State) (checkAgrees lengthAgrees : Bool) (address fresh : Nat) (records : List GateRecord), Powered s →
    let reply := exec (.gateReply checkAgrees lengthAgrees address fresh records) s
    (s.dev.gb.inFlight = none → reply = goesTo s s.dev ∧ exec .gateReplyTimeout s = goesTo s s.dev) ∧
    (s.dev.gb.inFlight ≠ none → s.dev.gb.replyDropped = true →
      let ended := settleRound { s.dev with gb.inFlight := none, gb.replyDropped := false }
      reply = goesTo s ended ∧ exec .gateReplyTimeout s = goesTo s ended) ∧
    (∀ a st, s.dev.gb.inFlight = some a → s.dev.gb.replyDropped = false → 1 ≤ a → s.dev.gb.stations[a - 1]? = some st →
      let good := checkAgrees = true ∧ lengthAgrees = true ∧ address = a ∧ fresh ≤ 1 ∧ records.length ≤ 4 ∧ ∀ r ∈ records,
        r.seq ≤ 15 ∧ (r.presentedAs = 1 ∨ r.presentedAs = 2 ∧ r.number ≤ 65535) ∧ (r.direction = 1 ∨ r.direction = 2)
      let put (new : Station) : Device :=
        { s.dev with gb.inFlight := none, gb.stations := s.dev.gb.stations.set (a - 1) new }
      let reported (d : Device) : Device := { d with
        op.causes := d.op.causes ||| 0x200#12, op.changedStations := d.op.changedStations ||| (1#8 <<< (a - 1)) }
      let missed := { st with missedTotal := min 65535 (st.missedTotal + 1) }
      let heard := if fresh = 1 then { st with stored := [], owed := [] } else st
      let waits (d : Device) : Device := { d with gb.records := records.map fun r => ⟨a, r⟩ }
      (¬ good → reply = exec .gateReplyTimeout s) ∧
      (st.state = .searching ∨ st.state = .lost → exec .gateReplyTimeout s = goesTo s (settleRound (put missed))) ∧
      (st.state = .syncing → exec .gateReplyTimeout s = goesTo s (settleRound (put { missed with state := .searching }))) ∧
      (st.state = .active → st.misses = 0 → exec .gateReplyTimeout s = goesTo s (settleRound (put { missed with misses := 1 }))) ∧
      (st.state = .active → 1 ≤ st.misses →
        exec .gateReplyTimeout s = goesTo s (settleRound (reported (put { missed with state := .lost, misses := 0 })))) ∧
      (good → st.state = .searching ∨ st.state = .lost → reply = goesTo s (settleRound (waits (put { heard with state := .syncing })))) ∧
      (good → st.state = .syncing → reply = goesTo s (settleRound (waits (reported (put { heard with state := .active, misses := 0 }))))) ∧
      (good → st.state = .active → reply = goesTo s (settleRound (waits (put { heard with misses := 0 })))))) ∧
  (∀ s : State, Powered s →
    (s.dev.gb.records = [] → exec .arrivalRecord s = goesTo s s.dev ∧ takeWaiting s.dev = s.dev) ∧
    (∀ d, exec .arrivalRecord s = goesTo s d → takeWaiting s.dev = takeWaiting d) ∧
    (∀ a r rest, s.dev.gb.records = ⟨a, r⟩ :: rest →
      let st := s.dev.gb.station a
      let left : Device := { s.dev with gb.records := rest }
      (∀ v, st.stored.find? (·.seq == r.seq) = some v → exec .arrivalRecord s = goesTo s { left with
        gb.stations := setNth s.dev.gb.stations a { st with
          owed := st.owed.filter (·.seq != r.seq) ++ [v], repeatTotal := min 65535 (st.repeatTotal + 1) } }) ∧
      ((∀ v ∈ st.stored, v.seq ≠ r.seq) →
        let taken := takeArrival ⟨a, st.site, r.number, r.presentedAs == 2, r.direction == 1,
          if r.reason = 1 then .appointment else if r.reason = 2 then .ill else .other⟩ left
        let v : SeqVerdict := ⟨r.seq, taken.1⟩
        (st.stored.length < 4 → exec .arrivalRecord s = goesTo s { taken.2 with
          gb.stations := setNth taken.2.gb.stations a { st with stored := st.stored ++ [v], owed := st.owed ++ [v] } }) ∧
        (4 ≤ st.stored.length → exec .arrivalRecord s = goesTo s { taken.2 with
          gb.stations := setNth taken.2.gb.stations a { st with stored := st.stored.tail ++ [v], owed := st.owed ++ [v] } }))))

/-! ### The Office Port's attention line -/

/-- The attention line is asserted exactly while a held cause is in the mask; STATUS shows the causes and the change sets and
empties them; SET_ATTENTION_MASK writes the mask and drops no cause. -/
def Obligations.AttentionIsRaisedAndRead : Prop :=
  (∀ op : OfficePort, op.attention = true ↔ ∃ i, i < 12 ∧ op.causes.getLsbD i = true ∧ op.mask.getLsbD i = true) ∧
  (∀ (d : Device) (c x : Cause), (d.raise c).op.holds x = (d.op.holds x || x == c)) ∧
  (∀ (s : State) (tag : Nat), Ready s → ∃ r : StatusReply, exec (.status tag) s =
      answers s tag 73 (ok (.status r)) { s.dev with op.causes := 0, op.changedZones := 0, op.changedStations := 0 } ∧
    r.causes = s.dev.op.causes ∧ r.zones = s.dev.op.changedZones ∧ r.stations = s.dev.op.changedStations ∧
    r.validity = s.dev.tb.validity ∧ r.discipline = s.dev.tb.discipline ∧ r.link = s.dev.rl.link ∧
    r.rollover = s.dev.tb.rollover.map (fun x => (x.kind, x.step)) ∧ r.alertActive = s.dev.su.alert.isSome ∧
    r.calls = s.dev.nu.calls.length ∧ r.lost = s.dev.op.lostCount ∧
    r.unread = (s.dev.ae.journal.dropWhile fun x => x.serial != s.dev.op.readCursor).length ∧
    r.states = s.dev.gb.stations.map (·.state) ∧
    ∀ z, 1 ≤ z → z ≤ 24 → r.faults.getLsbD (z - 1) = (s.dev.su.zone z).fault) ∧
  (∀ (s : State) (tag causes : Nat), Ready s →
    (4096 ≤ causes → exec (.setAttentionMask tag causes) s = refuses s tag 74 .range) ∧
    (causes < 4096 → exec (.setAttentionMask tag causes) s =
      answers s tag 74 (ok .empty) { s.dev with op.mask := BitVec.ofNat 12 causes }))

/-! ### Invariants -/

/-- The laws hold right after reset: the clock's ranges, the notices' limits, the tables' sizes, and the laws every step keeps
together, those of the tables that name each other and of the day's order among them. -/
def Obligations.LawsHoldAtReset : Prop :=
  ClockInRange State.reset.dev.tb ∧ NoticesInLimits State.reset ∧ TablesInSize State.reset ∧ Lawful State.reset

/-- Every step keeps the Time Base in the ranges of Table 1-1: the clock, the master clock's items, the cycle, the calendar's tables and
plans, and the rollover's step. -/
def Obligations.StepKeepsTheClockInRange : Prop :=
  ∀ s s' : State, ClockInRange s.dev.tb → step s = .next s' → ClockInRange s'.dev.tb

/-- Every step keeps the notice queue and the dispatch ring within their limits by class, every queued notice in its class's group, and
the journal, the awaiting-outcome table and the desk call list within their sizes. With these and the clock's ranges it keeps the other
laws of the device together: the ring's relay sequence numbers consecutive, each notice in one place at most and an absence notice
about a pupil, each pupil once in the roll, the roster and the called-today record, the excuses in order and apart, the verdicts of a
station within four, the pupil and contact tables naming each other, the contacts in ascending key order, the tallies in range, and the
day's own order: a flag only on a site of its entry and never both flags, nothing of today's plan left open behind the minute while the
scanner runs, a REG_CLOSE fired only after a REG_START, a CLOSE sweep listed and an entry PROVISIONAL or UNEXPLAINED only once that
REG_CLOSE has fired, and no IN arrival behind EXPECTED, PROVISIONAL or UNEXPLAINED. And a pair that has fired or been passed stands so
over every step, its entry unchanged, but for the powered rollover steps 7 and 8 and a retention loss: an entry fires on a site at most
once a plan day. -/
def Obligations.StepKeepsNoticesInLimits : Prop :=
  (∀ s s' : State, NoticesInLimits s → TablesInSize s → step s = .next s' → NoticesInLimits s' ∧ TablesInSize s') ∧
  (∀ s s' : State, Lawful s → step s = .next s' → Lawful s') ∧
  (∀ s s' : State, Lawful s → step s = .next s' →
    (∀ c, s.pending.head? = some c → (∀ strap, c ≠ .retentionLoss strap) ∧ (c = .rolloverStep → s.dev.mainPower = true →
      ∀ r, s.dev.tb.rollover = some r → r.step ≠ 7 ∧ r.step ≠ 8)) → FlagsStand s.dev.ss s'.dev.ss)
end

