-- ==== Sys2Proof/Laws/State.lean ====
section
/-! SUPPORT. What each update of the device leaves alone, field by field: one lemma a field an update, all true by `rfl`, so
that no proof unfolds a record update. -/
namespace Sys2Proof.Machine

/-! ### raise -/

@[simp] theorem raise_mainPower (c : Cause) (d : Device) : (d.raise c).mainPower = d.mainPower := rfl
@[simp] theorem raise_fastBaud (c : Cause) (d : Device) : (d.raise c).fastBaud = d.fastBaud := rfl
@[simp] theorem raise_sense (c : Cause) (d : Device) : (d.raise c).sense = d.sense := rfl
@[simp] theorem raise_tb (c : Cause) (d : Device) : (d.raise c).tb = d.tb := rfl
@[simp] theorem raise_ss (c : Cause) (d : Device) : (d.raise c).ss = d.ss := rfl
@[simp] theorem raise_ae (c : Cause) (d : Device) : (d.raise c).ae = d.ae := rfl
@[simp] theorem raise_nu (c : Cause) (d : Device) : (d.raise c).nu = d.nu := rfl
@[simp] theorem raise_rl (c : Cause) (d : Device) : (d.raise c).rl = d.rl := rfl
@[simp] theorem raise_su (c : Cause) (d : Device) : (d.raise c).su = d.su := rfl
@[simp] theorem raise_gb (c : Cause) (d : Device) : (d.raise c).gb = d.gb := rfl
@[simp] theorem raise_op_inHand (c : Cause) (d : Device) : (d.raise c).op.inHand = d.op.inHand := rfl

/-! ### markZone -/

@[simp] theorem markZone_mainPower (z : Nat) (d : Device) : (d.markZone z).mainPower = d.mainPower := rfl
@[simp] theorem markZone_fastBaud (z : Nat) (d : Device) : (d.markZone z).fastBaud = d.fastBaud := rfl
@[simp] theorem markZone_sense (z : Nat) (d : Device) : (d.markZone z).sense = d.sense := rfl
@[simp] theorem markZone_tb (z : Nat) (d : Device) : (d.markZone z).tb = d.tb := rfl
@[simp] theorem markZone_ss (z : Nat) (d : Device) : (d.markZone z).ss = d.ss := rfl
@[simp] theorem markZone_ae (z : Nat) (d : Device) : (d.markZone z).ae = d.ae := rfl
@[simp] theorem markZone_nu (z : Nat) (d : Device) : (d.markZone z).nu = d.nu := rfl
@[simp] theorem markZone_rl (z : Nat) (d : Device) : (d.markZone z).rl = d.rl := rfl
@[simp] theorem markZone_su (z : Nat) (d : Device) : (d.markZone z).su = d.su := rfl
@[simp] theorem markZone_gb (z : Nat) (d : Device) : (d.markZone z).gb = d.gb := rfl
@[simp] theorem markZone_op_inHand (z : Nat) (d : Device) : (d.markZone z).op.inHand = d.op.inHand := rfl

/-! ### markStation -/

@[simp] theorem markStation_mainPower (a : Nat) (d : Device) : (d.markStation a).mainPower = d.mainPower := rfl
@[simp] theorem markStation_fastBaud (a : Nat) (d : Device) : (d.markStation a).fastBaud = d.fastBaud := rfl
@[simp] theorem markStation_sense (a : Nat) (d : Device) : (d.markStation a).sense = d.sense := rfl
@[simp] theorem markStation_tb (a : Nat) (d : Device) : (d.markStation a).tb = d.tb := rfl
@[simp] theorem markStation_ss (a : Nat) (d : Device) : (d.markStation a).ss = d.ss := rfl
@[simp] theorem markStation_ae (a : Nat) (d : Device) : (d.markStation a).ae = d.ae := rfl
@[simp] theorem markStation_nu (a : Nat) (d : Device) : (d.markStation a).nu = d.nu := rfl
@[simp] theorem markStation_rl (a : Nat) (d : Device) : (d.markStation a).rl = d.rl := rfl
@[simp] theorem markStation_su (a : Nat) (d : Device) : (d.markStation a).su = d.su := rfl
@[simp] theorem markStation_gb (a : Nat) (d : Device) : (d.markStation a).gb = d.gb := rfl
@[simp] theorem markStation_op_inHand (a : Nat) (d : Device) : (d.markStation a).op.inHand = d.op.inHand := rfl

/-! ### answer -/

@[simp] theorem answer_mainPower (tag code : Nat) (a : Answer) (d : Device) : (d.answer tag code a).mainPower = d.mainPower := rfl
@[simp] theorem answer_fastBaud (tag code : Nat) (a : Answer) (d : Device) : (d.answer tag code a).fastBaud = d.fastBaud := rfl
@[simp] theorem answer_sense (tag code : Nat) (a : Answer) (d : Device) : (d.answer tag code a).sense = d.sense := rfl
@[simp] theorem answer_tb (tag code : Nat) (a : Answer) (d : Device) : (d.answer tag code a).tb = d.tb := rfl
@[simp] theorem answer_ss (tag code : Nat) (a : Answer) (d : Device) : (d.answer tag code a).ss = d.ss := rfl
@[simp] theorem answer_ae (tag code : Nat) (a : Answer) (d : Device) : (d.answer tag code a).ae = d.ae := rfl
@[simp] theorem answer_nu (tag code : Nat) (a : Answer) (d : Device) : (d.answer tag code a).nu = d.nu := rfl
@[simp] theorem answer_rl (tag code : Nat) (a : Answer) (d : Device) : (d.answer tag code a).rl = d.rl := rfl
@[simp] theorem answer_su (tag code : Nat) (a : Answer) (d : Device) : (d.answer tag code a).su = d.su := rfl
@[simp] theorem answer_gb (tag code : Nat) (a : Answer) (d : Device) : (d.answer tag code a).gb = d.gb := rfl

/-! ### onAe -/

@[simp] theorem onAe_mainPower (f : Attendance → Attendance) (d : Device) : (d.onAe f).mainPower = d.mainPower := rfl
@[simp] theorem onAe_fastBaud (f : Attendance → Attendance) (d : Device) : (d.onAe f).fastBaud = d.fastBaud := rfl
@[simp] theorem onAe_sense (f : Attendance → Attendance) (d : Device) : (d.onAe f).sense = d.sense := rfl
@[simp] theorem onAe_tb (f : Attendance → Attendance) (d : Device) : (d.onAe f).tb = d.tb := rfl
@[simp] theorem onAe_ss (f : Attendance → Attendance) (d : Device) : (d.onAe f).ss = d.ss := rfl
@[simp] theorem onAe_nu (f : Attendance → Attendance) (d : Device) : (d.onAe f).nu = d.nu := rfl
@[simp] theorem onAe_rl (f : Attendance → Attendance) (d : Device) : (d.onAe f).rl = d.rl := rfl
@[simp] theorem onAe_su (f : Attendance → Attendance) (d : Device) : (d.onAe f).su = d.su := rfl
@[simp] theorem onAe_gb (f : Attendance → Attendance) (d : Device) : (d.onAe f).gb = d.gb := rfl
@[simp] theorem onAe_op (f : Attendance → Attendance) (d : Device) : (d.onAe f).op = d.op := rfl

/-! ### putStation -/

@[simp] theorem putStation_mainPower (a : Nat) (st : Station) (d : Device) : (d.putStation a st).mainPower = d.mainPower := rfl
@[simp] theorem putStation_fastBaud (a : Nat) (st : Station) (d : Device) : (d.putStation a st).fastBaud = d.fastBaud := rfl
@[simp] theorem putStation_sense (a : Nat) (st : Station) (d : Device) : (d.putStation a st).sense = d.sense := rfl
@[simp] theorem putStation_tb (a : Nat) (st : Station) (d : Device) : (d.putStation a st).tb = d.tb := rfl
@[simp] theorem putStation_ss (a : Nat) (st : Station) (d : Device) : (d.putStation a st).ss = d.ss := rfl
@[simp] theorem putStation_ae (a : Nat) (st : Station) (d : Device) : (d.putStation a st).ae = d.ae := rfl
@[simp] theorem putStation_nu (a : Nat) (st : Station) (d : Device) : (d.putStation a st).nu = d.nu := rfl
@[simp] theorem putStation_rl (a : Nat) (st : Station) (d : Device) : (d.putStation a st).rl = d.rl := rfl
@[simp] theorem putStation_su (a : Nat) (st : Station) (d : Device) : (d.putStation a st).su = d.su := rfl
@[simp] theorem putStation_op (a : Nat) (st : Station) (d : Device) : (d.putStation a st).op = d.op := rfl

/-! ### putConfirm -/

@[simp] theorem putConfirm_mainPower (k s : Nat) (c : ConfirmPoint) (d : Device) : (d.putConfirm k s c).mainPower = d.mainPower := rfl
@[simp] theorem putConfirm_fastBaud (k s : Nat) (c : ConfirmPoint) (d : Device) : (d.putConfirm k s c).fastBaud = d.fastBaud := rfl
@[simp] theorem putConfirm_sense (k s : Nat) (c : ConfirmPoint) (d : Device) : (d.putConfirm k s c).sense = d.sense := rfl
@[simp] theorem putConfirm_tb (k s : Nat) (c : ConfirmPoint) (d : Device) : (d.putConfirm k s c).tb = d.tb := rfl
@[simp] theorem putConfirm_ae (k s : Nat) (c : ConfirmPoint) (d : Device) : (d.putConfirm k s c).ae = d.ae := rfl
@[simp] theorem putConfirm_nu (k s : Nat) (c : ConfirmPoint) (d : Device) : (d.putConfirm k s c).nu = d.nu := rfl
@[simp] theorem putConfirm_rl (k s : Nat) (c : ConfirmPoint) (d : Device) : (d.putConfirm k s c).rl = d.rl := rfl
@[simp] theorem putConfirm_su (k s : Nat) (c : ConfirmPoint) (d : Device) : (d.putConfirm k s c).su = d.su := rfl
@[simp] theorem putConfirm_gb (k s : Nat) (c : ConfirmPoint) (d : Device) : (d.putConfirm k s c).gb = d.gb := rfl
@[simp] theorem putConfirm_op (k s : Nat) (c : ConfirmPoint) (d : Device) : (d.putConfirm k s c).op = d.op := rfl

/-! ### putSite -/

@[simp] theorem putSite_mainPower (site : Nat) (v : SiteSettings) (d : Device) : (d.putSite site v).mainPower = d.mainPower := rfl
@[simp] theorem putSite_fastBaud (site : Nat) (v : SiteSettings) (d : Device) : (d.putSite site v).fastBaud = d.fastBaud := rfl
@[simp] theorem putSite_sense (site : Nat) (v : SiteSettings) (d : Device) : (d.putSite site v).sense = d.sense := rfl
@[simp] theorem putSite_tb (site : Nat) (v : SiteSettings) (d : Device) : (d.putSite site v).tb = d.tb := rfl
@[simp] theorem putSite_ae (site : Nat) (v : SiteSettings) (d : Device) : (d.putSite site v).ae = d.ae := rfl
@[simp] theorem putSite_nu (site : Nat) (v : SiteSettings) (d : Device) : (d.putSite site v).nu = d.nu := rfl
@[simp] theorem putSite_rl (site : Nat) (v : SiteSettings) (d : Device) : (d.putSite site v).rl = d.rl := rfl
@[simp] theorem putSite_su (site : Nat) (v : SiteSettings) (d : Device) : (d.putSite site v).su = d.su := rfl
@[simp] theorem putSite_gb (site : Nat) (v : SiteSettings) (d : Device) : (d.putSite site v).gb = d.gb := rfl
@[simp] theorem putSite_op (site : Nat) (v : SiteSettings) (d : Device) : (d.putSite site v).op = d.op := rfl

/-! ### tagGiven -/

@[simp] theorem tagGiven_mainPower (tag : Nat) (d : Device) : (d.tagGiven tag).mainPower = d.mainPower := rfl
@[simp] theorem tagGiven_fastBaud (tag : Nat) (d : Device) : (d.tagGiven tag).fastBaud = d.fastBaud := rfl
@[simp] theorem tagGiven_sense (tag : Nat) (d : Device) : (d.tagGiven tag).sense = d.sense := rfl
@[simp] theorem tagGiven_tb (tag : Nat) (d : Device) : (d.tagGiven tag).tb = d.tb := rfl
@[simp] theorem tagGiven_ss (tag : Nat) (d : Device) : (d.tagGiven tag).ss = d.ss := rfl
@[simp] theorem tagGiven_ae (tag : Nat) (d : Device) : (d.tagGiven tag).ae = d.ae := rfl
@[simp] theorem tagGiven_rl (tag : Nat) (d : Device) : (d.tagGiven tag).rl = d.rl := rfl
@[simp] theorem tagGiven_su (tag : Nat) (d : Device) : (d.tagGiven tag).su = d.su := rfl
@[simp] theorem tagGiven_gb (tag : Nat) (d : Device) : (d.tagGiven tag).gb = d.gb := rfl
@[simp] theorem tagGiven_op (tag : Nat) (d : Device) : (d.tagGiven tag).op = d.op := rfl
@[simp] theorem tagGiven_nu_urgent (tag : Nat) (d : Device) : (d.tagGiven tag).nu.urgent = d.nu.urgent := rfl
@[simp] theorem tagGiven_nu_routine (tag : Nat) (d : Device) : (d.tagGiven tag).nu.routine = d.nu.routine := rfl
@[simp] theorem tagGiven_nu_bulk (tag : Nat) (d : Device) : (d.tagGiven tag).nu.bulk = d.nu.bulk := rfl
@[simp] theorem tagGiven_nu_awaiting (tag : Nat) (d : Device) : (d.tagGiven tag).nu.awaiting = d.nu.awaiting := rfl
@[simp] theorem tagGiven_nu_calls (tag : Nat) (d : Device) : (d.tagGiven tag).nu.calls = d.nu.calls := rfl

/-! ### leaveAwaiting -/

@[simp] theorem leaveAwaiting_mainPower (tag : Nat) (d : Device) : (leaveAwaiting tag d).mainPower = d.mainPower := rfl
@[simp] theorem leaveAwaiting_fastBaud (tag : Nat) (d : Device) : (leaveAwaiting tag d).fastBaud = d.fastBaud := rfl
@[simp] theorem leaveAwaiting_sense (tag : Nat) (d : Device) : (leaveAwaiting tag d).sense = d.sense := rfl
@[simp] theorem leaveAwaiting_tb (tag : Nat) (d : Device) : (leaveAwaiting tag d).tb = d.tb := rfl
@[simp] theorem leaveAwaiting_ss (tag : Nat) (d : Device) : (leaveAwaiting tag d).ss = d.ss := rfl
@[simp] theorem leaveAwaiting_ae (tag : Nat) (d : Device) : (leaveAwaiting tag d).ae = d.ae := rfl
@[simp] theorem leaveAwaiting_rl (tag : Nat) (d : Device) : (leaveAwaiting tag d).rl = d.rl := rfl
@[simp] theorem leaveAwaiting_su (tag : Nat) (d : Device) : (leaveAwaiting tag d).su = d.su := rfl
@[simp] theorem leaveAwaiting_gb (tag : Nat) (d : Device) : (leaveAwaiting tag d).gb = d.gb := rfl
@[simp] theorem leaveAwaiting_op (tag : Nat) (d : Device) : (leaveAwaiting tag d).op = d.op := rfl
@[simp] theorem leaveAwaiting_nu_urgent (tag : Nat) (d : Device) : (leaveAwaiting tag d).nu.urgent = d.nu.urgent := rfl
@[simp] theorem leaveAwaiting_nu_routine (tag : Nat) (d : Device) : (leaveAwaiting tag d).nu.routine = d.nu.routine := rfl
@[simp] theorem leaveAwaiting_nu_bulk (tag : Nat) (d : Device) : (leaveAwaiting tag d).nu.bulk = d.nu.bulk := rfl
@[simp] theorem leaveAwaiting_nu_calls (tag : Nat) (d : Device) : (leaveAwaiting tag d).nu.calls = d.nu.calls := rfl

/-! ### queueFell -/

@[simp] theorem queueFell_mainPower (d : Device) : (queueFell d).mainPower = d.mainPower := rfl
@[simp] theorem queueFell_fastBaud (d : Device) : (queueFell d).fastBaud = d.fastBaud := rfl
@[simp] theorem queueFell_sense (d : Device) : (queueFell d).sense = d.sense := rfl
@[simp] theorem queueFell_tb (d : Device) : (queueFell d).tb = d.tb := rfl
@[simp] theorem queueFell_ss (d : Device) : (queueFell d).ss = d.ss := rfl
@[simp] theorem queueFell_rl (d : Device) : (queueFell d).rl = d.rl := rfl
@[simp] theorem queueFell_su (d : Device) : (queueFell d).su = d.su := rfl
@[simp] theorem queueFell_gb (d : Device) : (queueFell d).gb = d.gb := rfl
@[simp] theorem queueFell_op (d : Device) : (queueFell d).op = d.op := rfl
@[simp] theorem queueFell_ae_journal (d : Device) : (queueFell d).ae.journal = d.ae.journal := rfl
@[simp] theorem queueFell_nu_urgent (d : Device) : (queueFell d).nu.urgent = d.nu.urgent := rfl
@[simp] theorem queueFell_nu_routine (d : Device) : (queueFell d).nu.routine = d.nu.routine := rfl
@[simp] theorem queueFell_nu_bulk (d : Device) : (queueFell d).nu.bulk = d.nu.bulk := rfl
@[simp] theorem queueFell_nu_awaiting (d : Device) : (queueFell d).nu.awaiting = d.nu.awaiting := rfl
@[simp] theorem queueFell_nu_calls (d : Device) : (queueFell d).nu.calls = d.nu.calls := rfl

/-! ### leaveQueue -/

@[simp] theorem leaveQueue_mainPower (tag : Nat) (d : Device) : (leaveQueue tag d).mainPower = d.mainPower := rfl
@[simp] theorem leaveQueue_fastBaud (tag : Nat) (d : Device) : (leaveQueue tag d).fastBaud = d.fastBaud := rfl
@[simp] theorem leaveQueue_sense (tag : Nat) (d : Device) : (leaveQueue tag d).sense = d.sense := rfl
@[simp] theorem leaveQueue_tb (tag : Nat) (d : Device) : (leaveQueue tag d).tb = d.tb := rfl
@[simp] theorem leaveQueue_ss (tag : Nat) (d : Device) : (leaveQueue tag d).ss = d.ss := rfl
@[simp] theorem leaveQueue_rl (tag : Nat) (d : Device) : (leaveQueue tag d).rl = d.rl := rfl
@[simp] theorem leaveQueue_su (tag : Nat) (d : Device) : (leaveQueue tag d).su = d.su := rfl
@[simp] theorem leaveQueue_gb (tag : Nat) (d : Device) : (leaveQueue tag d).gb = d.gb := rfl
@[simp] theorem leaveQueue_op (tag : Nat) (d : Device) : (leaveQueue tag d).op = d.op := rfl
@[simp] theorem leaveQueue_ae_journal (tag : Nat) (d : Device) : (leaveQueue tag d).ae.journal = d.ae.journal := rfl
@[simp] theorem leaveQueue_nu_awaiting (tag : Nat) (d : Device) : (leaveQueue tag d).nu.awaiting = d.nu.awaiting := rfl
@[simp] theorem leaveQueue_nu_calls (tag : Nat) (d : Device) : (leaveQueue tag d).nu.calls = d.nu.calls := rfl

/-! ### endFanout -/

@[simp] theorem endFanout_mainPower (how : FanoutEnd) (d : Device) : (endFanout how d).mainPower = d.mainPower := rfl
@[simp] theorem endFanout_fastBaud (how : FanoutEnd) (d : Device) : (endFanout how d).fastBaud = d.fastBaud := rfl
@[simp] theorem endFanout_sense (how : FanoutEnd) (d : Device) : (endFanout how d).sense = d.sense := rfl
@[simp] theorem endFanout_tb (how : FanoutEnd) (d : Device) : (endFanout how d).tb = d.tb := rfl
@[simp] theorem endFanout_ss (how : FanoutEnd) (d : Device) : (endFanout how d).ss = d.ss := rfl
@[simp] theorem endFanout_ae (how : FanoutEnd) (d : Device) : (endFanout how d).ae = d.ae := rfl
@[simp] theorem endFanout_rl (how : FanoutEnd) (d : Device) : (endFanout how d).rl = d.rl := rfl
@[simp] theorem endFanout_su (how : FanoutEnd) (d : Device) : (endFanout how d).su = d.su := rfl
@[simp] theorem endFanout_gb (how : FanoutEnd) (d : Device) : (endFanout how d).gb = d.gb := rfl
@[simp] theorem endFanout_op_inHand (how : FanoutEnd) (d : Device) : (endFanout how d).op.inHand = d.op.inHand := rfl
@[simp] theorem endFanout_nu_urgent (how : FanoutEnd) (d : Device) : (endFanout how d).nu.urgent = d.nu.urgent := rfl
@[simp] theorem endFanout_nu_routine (how : FanoutEnd) (d : Device) : (endFanout how d).nu.routine = d.nu.routine := rfl
@[simp] theorem endFanout_nu_bulk (how : FanoutEnd) (d : Device) : (endFanout how d).nu.bulk = d.nu.bulk := rfl
@[simp] theorem endFanout_nu_awaiting (how : FanoutEnd) (d : Device) : (endFanout how d).nu.awaiting = d.nu.awaiting := rfl
@[simp] theorem endFanout_nu_calls (how : FanoutEnd) (d : Device) : (endFanout how d).nu.calls = d.nu.calls := rfl

/-! ### touchCall -/

@[simp] theorem touchCall_mainPower (tag : Nat) (f : CallEntry → CallEntry) (d : Device) : (touchCall tag f d).mainPower = d.mainPower := rfl
@[simp] theorem touchCall_fastBaud (tag : Nat) (f : CallEntry → CallEntry) (d : Device) : (touchCall tag f d).fastBaud = d.fastBaud := rfl
@[simp] theorem touchCall_sense (tag : Nat) (f : CallEntry → CallEntry) (d : Device) : (touchCall tag f d).sense = d.sense := rfl
@[simp] theorem touchCall_tb (tag : Nat) (f : CallEntry → CallEntry) (d : Device) : (touchCall tag f d).tb = d.tb := rfl
@[simp] theorem touchCall_ss (tag : Nat) (f : CallEntry → CallEntry) (d : Device) : (touchCall tag f d).ss = d.ss := rfl
@[simp] theorem touchCall_ae (tag : Nat) (f : CallEntry → CallEntry) (d : Device) : (touchCall tag f d).ae = d.ae := rfl
@[simp] theorem touchCall_rl (tag : Nat) (f : CallEntry → CallEntry) (d : Device) : (touchCall tag f d).rl = d.rl := rfl
@[simp] theorem touchCall_su (tag : Nat) (f : CallEntry → CallEntry) (d : Device) : (touchCall tag f d).su = d.su := rfl
@[simp] theorem touchCall_gb (tag : Nat) (f : CallEntry → CallEntry) (d : Device) : (touchCall tag f d).gb = d.gb := rfl
@[simp] theorem touchCall_op_inHand (tag : Nat) (f : CallEntry → CallEntry) (d : Device) : (touchCall tag f d).op.inHand = d.op.inHand := rfl
@[simp] theorem touchCall_nu_urgent (tag : Nat) (f : CallEntry → CallEntry) (d : Device) : (touchCall tag f d).nu.urgent = d.nu.urgent := rfl
@[simp] theorem touchCall_nu_routine (tag : Nat) (f : CallEntry → CallEntry) (d : Device) : (touchCall tag f d).nu.routine = d.nu.routine := rfl
@[simp] theorem touchCall_nu_bulk (tag : Nat) (f : CallEntry → CallEntry) (d : Device) : (touchCall tag f d).nu.bulk = d.nu.bulk := rfl
@[simp] theorem touchCall_nu_awaiting (tag : Nat) (f : CallEntry → CallEntry) (d : Device) : (touchCall tag f d).nu.awaiting = d.nu.awaiting := rfl

/-! ### retag -/

@[simp] theorem retag_mainPower (roll old new : Nat) (d : Device) : (retag roll old new d).mainPower = d.mainPower := rfl
@[simp] theorem retag_fastBaud (roll old new : Nat) (d : Device) : (retag roll old new d).fastBaud = d.fastBaud := rfl
@[simp] theorem retag_sense (roll old new : Nat) (d : Device) : (retag roll old new d).sense = d.sense := rfl
@[simp] theorem retag_tb (roll old new : Nat) (d : Device) : (retag roll old new d).tb = d.tb := rfl
@[simp] theorem retag_ss (roll old new : Nat) (d : Device) : (retag roll old new d).ss = d.ss := rfl
@[simp] theorem retag_nu (roll old new : Nat) (d : Device) : (retag roll old new d).nu = d.nu := rfl
@[simp] theorem retag_rl (roll old new : Nat) (d : Device) : (retag roll old new d).rl = d.rl := rfl
@[simp] theorem retag_su (roll old new : Nat) (d : Device) : (retag roll old new d).su = d.su := rfl
@[simp] theorem retag_gb (roll old new : Nat) (d : Device) : (retag roll old new d).gb = d.gb := rfl
@[simp] theorem retag_op (roll old new : Nat) (d : Device) : (retag roll old new d).op = d.op := rfl
@[simp] theorem retag_ae_journal (roll old new : Nat) (d : Device) : (retag roll old new d).ae.journal = d.ae.journal := rfl

/-! ### registrationClose -/

@[simp] theorem registrationClose_mainPower (k s : Nat) (d : Device) : (registrationClose k s d).mainPower = d.mainPower := rfl
@[simp] theorem registrationClose_fastBaud (k s : Nat) (d : Device) : (registrationClose k s d).fastBaud = d.fastBaud := rfl
@[simp] theorem registrationClose_sense (k s : Nat) (d : Device) : (registrationClose k s d).sense = d.sense := rfl
@[simp] theorem registrationClose_tb (k s : Nat) (d : Device) : (registrationClose k s d).tb = d.tb := rfl
@[simp] theorem registrationClose_ss (k s : Nat) (d : Device) : (registrationClose k s d).ss = d.ss := rfl
@[simp] theorem registrationClose_nu (k s : Nat) (d : Device) : (registrationClose k s d).nu = d.nu := rfl
@[simp] theorem registrationClose_rl (k s : Nat) (d : Device) : (registrationClose k s d).rl = d.rl := rfl
@[simp] theorem registrationClose_su (k s : Nat) (d : Device) : (registrationClose k s d).su = d.su := rfl
@[simp] theorem registrationClose_gb (k s : Nat) (d : Device) : (registrationClose k s d).gb = d.gb := rfl
@[simp] theorem registrationClose_op (k s : Nat) (d : Device) : (registrationClose k s d).op = d.op := rfl
@[simp] theorem registrationClose_ae_journal (k s : Nat) (d : Device) : (registrationClose k s d).ae.journal = d.ae.journal := rfl

/-! ### confirmSweep -/

@[simp] theorem confirmSweep_mainPower (k s : Nat) (d : Device) : (confirmSweep k s d).mainPower = d.mainPower := rfl
@[simp] theorem confirmSweep_fastBaud (k s : Nat) (d : Device) : (confirmSweep k s d).fastBaud = d.fastBaud := rfl
@[simp] theorem confirmSweep_sense (k s : Nat) (d : Device) : (confirmSweep k s d).sense = d.sense := rfl
@[simp] theorem confirmSweep_tb (k s : Nat) (d : Device) : (confirmSweep k s d).tb = d.tb := rfl
@[simp] theorem confirmSweep_ss (k s : Nat) (d : Device) : (confirmSweep k s d).ss = d.ss := rfl
@[simp] theorem confirmSweep_nu (k s : Nat) (d : Device) : (confirmSweep k s d).nu = d.nu := rfl
@[simp] theorem confirmSweep_rl (k s : Nat) (d : Device) : (confirmSweep k s d).rl = d.rl := rfl
@[simp] theorem confirmSweep_su (k s : Nat) (d : Device) : (confirmSweep k s d).su = d.su := rfl
@[simp] theorem confirmSweep_gb (k s : Nat) (d : Device) : (confirmSweep k s d).gb = d.gb := rfl
@[simp] theorem confirmSweep_op (k s : Nat) (d : Device) : (confirmSweep k s d).op = d.op := rfl
@[simp] theorem confirmSweep_ae_journal (k s : Nat) (d : Device) : (confirmSweep k s d).ae.journal = d.ae.journal := rfl

/-! ### firePoint -/

@[simp] theorem firePoint_mainPower (k s : Nat) (d : Device) : (firePoint k s d).mainPower = d.mainPower := rfl
@[simp] theorem firePoint_fastBaud (k s : Nat) (d : Device) : (firePoint k s d).fastBaud = d.fastBaud := rfl
@[simp] theorem firePoint_sense (k s : Nat) (d : Device) : (firePoint k s d).sense = d.sense := rfl
@[simp] theorem firePoint_tb (k s : Nat) (d : Device) : (firePoint k s d).tb = d.tb := rfl
@[simp] theorem firePoint_nu (k s : Nat) (d : Device) : (firePoint k s d).nu = d.nu := rfl
@[simp] theorem firePoint_rl (k s : Nat) (d : Device) : (firePoint k s d).rl = d.rl := rfl
@[simp] theorem firePoint_su (k s : Nat) (d : Device) : (firePoint k s d).su = d.su := rfl
@[simp] theorem firePoint_gb (k s : Nat) (d : Device) : (firePoint k s d).gb = d.gb := rfl
@[simp] theorem firePoint_op (k s : Nat) (d : Device) : (firePoint k s d).op = d.op := rfl
@[simp] theorem firePoint_ae_journal (k s : Nat) (d : Device) : (firePoint k s d).ae.journal = d.ae.journal := rfl

/-! ### appendJournal -/

@[simp] theorem appendJournal_mainPower (r : JournalRecord) (d : Device) : (appendJournal r d).mainPower = d.mainPower := rfl
@[simp] theorem appendJournal_fastBaud (r : JournalRecord) (d : Device) : (appendJournal r d).fastBaud = d.fastBaud := rfl
@[simp] theorem appendJournal_sense (r : JournalRecord) (d : Device) : (appendJournal r d).sense = d.sense := rfl
@[simp] theorem appendJournal_tb (r : JournalRecord) (d : Device) : (appendJournal r d).tb = d.tb := rfl
@[simp] theorem appendJournal_ss (r : JournalRecord) (d : Device) : (appendJournal r d).ss = d.ss := rfl
@[simp] theorem appendJournal_nu (r : JournalRecord) (d : Device) : (appendJournal r d).nu = d.nu := rfl
@[simp] theorem appendJournal_rl (r : JournalRecord) (d : Device) : (appendJournal r d).rl = d.rl := rfl
@[simp] theorem appendJournal_su (r : JournalRecord) (d : Device) : (appendJournal r d).su = d.su := rfl
@[simp] theorem appendJournal_gb (r : JournalRecord) (d : Device) : (appendJournal r d).gb = d.gb := rfl
@[simp] theorem appendJournal_op_inHand (r : JournalRecord) (d : Device) : (appendJournal r d).op.inHand = d.op.inHand := rfl

/-! ### pollStation -/

@[simp] theorem pollStation_mainPower (a : Nat) (d : Device) : (pollStation a d).mainPower = d.mainPower := rfl
@[simp] theorem pollStation_fastBaud (a : Nat) (d : Device) : (pollStation a d).fastBaud = d.fastBaud := rfl
@[simp] theorem pollStation_sense (a : Nat) (d : Device) : (pollStation a d).sense = d.sense := rfl
@[simp] theorem pollStation_tb (a : Nat) (d : Device) : (pollStation a d).tb = d.tb := rfl
@[simp] theorem pollStation_ss (a : Nat) (d : Device) : (pollStation a d).ss = d.ss := rfl
@[simp] theorem pollStation_ae (a : Nat) (d : Device) : (pollStation a d).ae = d.ae := rfl
@[simp] theorem pollStation_nu (a : Nat) (d : Device) : (pollStation a d).nu = d.nu := rfl
@[simp] theorem pollStation_rl (a : Nat) (d : Device) : (pollStation a d).rl = d.rl := rfl
@[simp] theorem pollStation_su (a : Nat) (d : Device) : (pollStation a d).su = d.su := rfl
@[simp] theorem pollStation_op (a : Nat) (d : Device) : (pollStation a d).op = d.op := rfl

/-! ### startRollover -/

@[simp] theorem startRollover_mainPower (kind : RolloverKind) (d : Device) : (startRollover kind d).mainPower = d.mainPower := rfl
@[simp] theorem startRollover_fastBaud (kind : RolloverKind) (d : Device) : (startRollover kind d).fastBaud = d.fastBaud := rfl
@[simp] theorem startRollover_sense (kind : RolloverKind) (d : Device) : (startRollover kind d).sense = d.sense := rfl
@[simp] theorem startRollover_ss (kind : RolloverKind) (d : Device) : (startRollover kind d).ss = d.ss := rfl
@[simp] theorem startRollover_ae (kind : RolloverKind) (d : Device) : (startRollover kind d).ae = d.ae := rfl
@[simp] theorem startRollover_nu (kind : RolloverKind) (d : Device) : (startRollover kind d).nu = d.nu := rfl
@[simp] theorem startRollover_rl (kind : RolloverKind) (d : Device) : (startRollover kind d).rl = d.rl := rfl
@[simp] theorem startRollover_su (kind : RolloverKind) (d : Device) : (startRollover kind d).su = d.su := rfl
@[simp] theorem startRollover_op (kind : RolloverKind) (d : Device) : (startRollover kind d).op = d.op := rfl
@[simp] theorem startRollover_tb_date (kind : RolloverKind) (d : Device) : (startRollover kind d).tb.date = d.tb.date := rfl
@[simp] theorem startRollover_tb_second (kind : RolloverKind) (d : Device) : (startRollover kind d).tb.second = d.tb.second := rfl
@[simp] theorem startRollover_tb_tick (kind : RolloverKind) (d : Device) : (startRollover kind d).tb.tick = d.tb.tick := rfl
@[simp] theorem startRollover_tb_validity (kind : RolloverKind) (d : Device) : (startRollover kind d).tb.validity = d.tb.validity := rfl
@[simp] theorem startRollover_tb_cycleLength (kind : RolloverKind) (d : Device) : (startRollover kind d).tb.cycleLength = d.tb.cycleLength := rfl
@[simp] theorem startRollover_tb_today (kind : RolloverKind) (d : Device) : (startRollover kind d).tb.today = d.tb.today := rfl
@[simp] theorem startRollover_gb_stations (kind : RolloverKind) (d : Device) : (startRollover kind d).gb.stations = d.gb.stations := rfl

/-! ### missMidnight -/

@[simp] theorem missMidnight_mainPower (d : Device) : (missMidnight d).mainPower = d.mainPower := rfl
@[simp] theorem missMidnight_fastBaud (d : Device) : (missMidnight d).fastBaud = d.fastBaud := rfl
@[simp] theorem missMidnight_sense (d : Device) : (missMidnight d).sense = d.sense := rfl
@[simp] theorem missMidnight_ss (d : Device) : (missMidnight d).ss = d.ss := rfl
@[simp] theorem missMidnight_ae (d : Device) : (missMidnight d).ae = d.ae := rfl
@[simp] theorem missMidnight_nu (d : Device) : (missMidnight d).nu = d.nu := rfl
@[simp] theorem missMidnight_rl (d : Device) : (missMidnight d).rl = d.rl := rfl
@[simp] theorem missMidnight_su (d : Device) : (missMidnight d).su = d.su := rfl
@[simp] theorem missMidnight_gb (d : Device) : (missMidnight d).gb = d.gb := rfl
@[simp] theorem missMidnight_op (d : Device) : (missMidnight d).op = d.op := rfl
@[simp] theorem missMidnight_tb_date (d : Device) : (missMidnight d).tb.date = d.tb.date := rfl
@[simp] theorem missMidnight_tb_second (d : Device) : (missMidnight d).tb.second = d.tb.second := rfl
@[simp] theorem missMidnight_tb_tick (d : Device) : (missMidnight d).tb.tick = d.tb.tick := rfl
@[simp] theorem missMidnight_tb_validity (d : Device) : (missMidnight d).tb.validity = d.tb.validity := rfl
@[simp] theorem missMidnight_tb_cycleLength (d : Device) : (missMidnight d).tb.cycleLength = d.tb.cycleLength := rfl
@[simp] theorem missMidnight_tb_today (d : Device) : (missMidnight d).tb.today = d.tb.today := rfl

/-! ### secondPassed -/

@[simp] theorem secondPassed_mainPower (d : Device) : (secondPassed d).mainPower = d.mainPower := rfl
@[simp] theorem secondPassed_fastBaud (d : Device) : (secondPassed d).fastBaud = d.fastBaud := rfl
@[simp] theorem secondPassed_sense (d : Device) : (secondPassed d).sense = d.sense := rfl
@[simp] theorem secondPassed_tb (d : Device) : (secondPassed d).tb = d.tb := rfl
@[simp] theorem secondPassed_ss (d : Device) : (secondPassed d).ss = d.ss := rfl
@[simp] theorem secondPassed_ae (d : Device) : (secondPassed d).ae = d.ae := rfl
@[simp] theorem secondPassed_gb (d : Device) : (secondPassed d).gb = d.gb := rfl
@[simp] theorem secondPassed_op (d : Device) : (secondPassed d).op = d.op := rfl
@[simp] theorem secondPassed_rl_link (d : Device) : (secondPassed d).rl.link = d.rl.link := rfl
@[simp] theorem secondPassed_rl_settings (d : Device) : (secondPassed d).rl.settings = d.rl.settings := rfl

/-! ### silenceTick -/

@[simp] theorem silenceTick_mainPower (d : Device) : (silenceTick d).mainPower = d.mainPower := rfl
@[simp] theorem silenceTick_fastBaud (d : Device) : (silenceTick d).fastBaud = d.fastBaud := rfl
@[simp] theorem silenceTick_sense (d : Device) : (silenceTick d).sense = d.sense := rfl
@[simp] theorem silenceTick_ss (d : Device) : (silenceTick d).ss = d.ss := rfl
@[simp] theorem silenceTick_ae (d : Device) : (silenceTick d).ae = d.ae := rfl
@[simp] theorem silenceTick_nu (d : Device) : (silenceTick d).nu = d.nu := rfl
@[simp] theorem silenceTick_rl (d : Device) : (silenceTick d).rl = d.rl := rfl
@[simp] theorem silenceTick_su (d : Device) : (silenceTick d).su = d.su := rfl
@[simp] theorem silenceTick_gb (d : Device) : (silenceTick d).gb = d.gb := rfl
@[simp] theorem silenceTick_op (d : Device) : (silenceTick d).op = d.op := rfl
@[simp] theorem silenceTick_tb_date (d : Device) : (silenceTick d).tb.date = d.tb.date := rfl
@[simp] theorem silenceTick_tb_second (d : Device) : (silenceTick d).tb.second = d.tb.second := rfl
@[simp] theorem silenceTick_tb_tick (d : Device) : (silenceTick d).tb.tick = d.tb.tick := rfl
@[simp] theorem silenceTick_tb_validity (d : Device) : (silenceTick d).tb.validity = d.tb.validity := rfl
@[simp] theorem silenceTick_tb_cycleLength (d : Device) : (silenceTick d).tb.cycleLength = d.tb.cycleLength := rfl
@[simp] theorem silenceTick_tb_today (d : Device) : (silenceTick d).tb.today = d.tb.today := rfl

/-! ### toStep -/

@[simp] theorem toStep_mainPower (n : Nat) (r : Rollover) (d : Device) : (toStep n r d).mainPower = d.mainPower := rfl
@[simp] theorem toStep_fastBaud (n : Nat) (r : Rollover) (d : Device) : (toStep n r d).fastBaud = d.fastBaud := rfl
@[simp] theorem toStep_sense (n : Nat) (r : Rollover) (d : Device) : (toStep n r d).sense = d.sense := rfl
@[simp] theorem toStep_ss (n : Nat) (r : Rollover) (d : Device) : (toStep n r d).ss = d.ss := rfl
@[simp] theorem toStep_ae (n : Nat) (r : Rollover) (d : Device) : (toStep n r d).ae = d.ae := rfl
@[simp] theorem toStep_nu (n : Nat) (r : Rollover) (d : Device) : (toStep n r d).nu = d.nu := rfl
@[simp] theorem toStep_rl (n : Nat) (r : Rollover) (d : Device) : (toStep n r d).rl = d.rl := rfl
@[simp] theorem toStep_su (n : Nat) (r : Rollover) (d : Device) : (toStep n r d).su = d.su := rfl
@[simp] theorem toStep_gb (n : Nat) (r : Rollover) (d : Device) : (toStep n r d).gb = d.gb := rfl
@[simp] theorem toStep_op (n : Nat) (r : Rollover) (d : Device) : (toStep n r d).op = d.op := rfl
@[simp] theorem toStep_tb_date (n : Nat) (r : Rollover) (d : Device) : (toStep n r d).tb.date = d.tb.date := rfl
@[simp] theorem toStep_tb_second (n : Nat) (r : Rollover) (d : Device) : (toStep n r d).tb.second = d.tb.second := rfl
@[simp] theorem toStep_tb_tick (n : Nat) (r : Rollover) (d : Device) : (toStep n r d).tb.tick = d.tb.tick := rfl
@[simp] theorem toStep_tb_validity (n : Nat) (r : Rollover) (d : Device) : (toStep n r d).tb.validity = d.tb.validity := rfl
@[simp] theorem toStep_tb_cycleLength (n : Nat) (r : Rollover) (d : Device) : (toStep n r d).tb.cycleLength = d.tb.cycleLength := rfl
@[simp] theorem toStep_tb_today (n : Nat) (r : Rollover) (d : Device) : (toStep n r d).tb.today = d.tb.today := rfl

/-! ### cursorOn -/

@[simp] theorem cursorOn_mainPower (r : Rollover) (d : Device) : (cursorOn r d).mainPower = d.mainPower := rfl
@[simp] theorem cursorOn_fastBaud (r : Rollover) (d : Device) : (cursorOn r d).fastBaud = d.fastBaud := rfl
@[simp] theorem cursorOn_sense (r : Rollover) (d : Device) : (cursorOn r d).sense = d.sense := rfl
@[simp] theorem cursorOn_ss (r : Rollover) (d : Device) : (cursorOn r d).ss = d.ss := rfl
@[simp] theorem cursorOn_ae (r : Rollover) (d : Device) : (cursorOn r d).ae = d.ae := rfl
@[simp] theorem cursorOn_nu (r : Rollover) (d : Device) : (cursorOn r d).nu = d.nu := rfl
@[simp] theorem cursorOn_rl (r : Rollover) (d : Device) : (cursorOn r d).rl = d.rl := rfl
@[simp] theorem cursorOn_su (r : Rollover) (d : Device) : (cursorOn r d).su = d.su := rfl
@[simp] theorem cursorOn_gb (r : Rollover) (d : Device) : (cursorOn r d).gb = d.gb := rfl
@[simp] theorem cursorOn_op (r : Rollover) (d : Device) : (cursorOn r d).op = d.op := rfl
@[simp] theorem cursorOn_tb_date (r : Rollover) (d : Device) : (cursorOn r d).tb.date = d.tb.date := rfl
@[simp] theorem cursorOn_tb_second (r : Rollover) (d : Device) : (cursorOn r d).tb.second = d.tb.second := rfl
@[simp] theorem cursorOn_tb_tick (r : Rollover) (d : Device) : (cursorOn r d).tb.tick = d.tb.tick := rfl
@[simp] theorem cursorOn_tb_validity (r : Rollover) (d : Device) : (cursorOn r d).tb.validity = d.tb.validity := rfl
@[simp] theorem cursorOn_tb_cycleLength (r : Rollover) (d : Device) : (cursorOn r d).tb.cycleLength = d.tb.cycleLength := rfl
@[simp] theorem cursorOn_tb_today (r : Rollover) (d : Device) : (cursorOn r d).tb.today = d.tb.today := rfl

/-! ### send -/

@[simp] theorem send_mainPower (f : RelayFrame) (mark : Nat) (d : Device) : (send f mark d).mainPower = d.mainPower := rfl
@[simp] theorem send_fastBaud (f : RelayFrame) (mark : Nat) (d : Device) : (send f mark d).fastBaud = d.fastBaud := rfl
@[simp] theorem send_sense (f : RelayFrame) (mark : Nat) (d : Device) : (send f mark d).sense = d.sense := rfl
@[simp] theorem send_tb (f : RelayFrame) (mark : Nat) (d : Device) : (send f mark d).tb = d.tb := rfl
@[simp] theorem send_ss (f : RelayFrame) (mark : Nat) (d : Device) : (send f mark d).ss = d.ss := rfl
@[simp] theorem send_ae (f : RelayFrame) (mark : Nat) (d : Device) : (send f mark d).ae = d.ae := rfl
@[simp] theorem send_nu (f : RelayFrame) (mark : Nat) (d : Device) : (send f mark d).nu = d.nu := rfl
@[simp] theorem send_su (f : RelayFrame) (mark : Nat) (d : Device) : (send f mark d).su = d.su := rfl
@[simp] theorem send_gb (f : RelayFrame) (mark : Nat) (d : Device) : (send f mark d).gb = d.gb := rfl
@[simp] theorem send_op (f : RelayFrame) (mark : Nat) (d : Device) : (send f mark d).op = d.op := rfl
@[simp] theorem send_rl_link (f : RelayFrame) (mark : Nat) (d : Device) : (send f mark d).rl.link = d.rl.link := rfl
@[simp] theorem send_rl_settings (f : RelayFrame) (mark : Nat) (d : Device) : (send f mark d).rl.settings = d.rl.settings := rfl
@[simp] theorem send_rl_ring (f : RelayFrame) (mark : Nat) (d : Device) : (send f mark d).rl.ring = d.rl.ring := rfl

/-! ### collect -/

@[simp] theorem collect_collected (m : Nat) (rl : RelayLink) : (rl.collect m).collected = m := rfl
@[simp] theorem collect_markDue (m : Nat) (rl : RelayLink) : (rl.collect m).markDue = (rl.markDue && m != rl.lastMark) := rfl
@[simp] theorem collect_link (m : Nat) (rl : RelayLink) : (rl.collect m).link = rl.link := rfl
@[simp] theorem collect_settings (m : Nat) (rl : RelayLink) : (rl.collect m).settings = rl.settings := rfl
@[simp] theorem collect_lampAuto (m : Nat) (rl : RelayLink) : (rl.collect m).lampAuto = rl.lampAuto := rfl
@[simp] theorem collect_lampManual (m : Nat) (rl : RelayLink) : (rl.collect m).lampManual = rl.lampManual := rfl
@[simp] theorem collect_ring (m : Nat) (rl : RelayLink) : (rl.collect m).ring = rl.ring := rfl
@[simp] theorem collect_readPos (m : Nat) (rl : RelayLink) : (rl.collect m).readPos = rl.readPos := rfl
@[simp] theorem collect_sendSeq (m : Nat) (rl : RelayLink) : (rl.collect m).sendSeq = rl.sendSeq := rfl
@[simp] theorem collect_lastSeq (m : Nat) (rl : RelayLink) : (rl.collect m).lastSeq = rl.lastSeq := rfl
@[simp] theorem collect_lastPlace (m : Nat) (rl : RelayLink) : (rl.collect m).lastPlace = rl.lastPlace := rfl
@[simp] theorem collect_hold (m : Nat) (rl : RelayLink) : (rl.collect m).hold = rl.hold := rfl
@[simp] theorem collect_rewindCount (m : Nat) (rl : RelayLink) : (rl.collect m).rewindCount = rl.rewindCount := rfl
@[simp] theorem collect_clearCount (m : Nat) (rl : RelayLink) : (rl.collect m).clearCount = rl.clearCount := rfl
@[simp] theorem collect_resyncTimer (m : Nat) (rl : RelayLink) : (rl.collect m).resyncTimer = rl.resyncTimer := rfl
@[simp] theorem collect_attempts (m : Nat) (rl : RelayLink) : (rl.collect m).attempts = rl.attempts := rfl
@[simp] theorem collect_startOwed (m : Nat) (rl : RelayLink) : (rl.collect m).startOwed = rl.startOwed := rfl
@[simp] theorem collect_runOwed (m : Nat) (rl : RelayLink) : (rl.collect m).runOwed = rl.runOwed := rfl
@[simp] theorem collect_rewindOwed (m : Nat) (rl : RelayLink) : (rl.collect m).rewindOwed = rl.rewindOwed := rfl
@[simp] theorem collect_furtherOwed (m : Nat) (rl : RelayLink) : (rl.collect m).furtherOwed = rl.furtherOwed := rfl
@[simp] theorem collect_activity (m : Nat) (rl : RelayLink) : (rl.collect m).activity = rl.activity := rfl
@[simp] theorem collect_markHold (m : Nat) (rl : RelayLink) : (rl.collect m).markHold = rl.markHold := rfl
@[simp] theorem collect_restartGuard (m : Nat) (rl : RelayLink) : (rl.collect m).restartGuard = rl.restartGuard := rfl
@[simp] theorem collect_rolloverHold (m : Nat) (rl : RelayLink) : (rl.collect m).rolloverHold = rl.rolloverHold := rfl
@[simp] theorem collect_silence (m : Nat) (rl : RelayLink) : (rl.collect m).silence = rl.silence := rfl
@[simp] theorem collect_downFor (m : Nat) (rl : RelayLink) : (rl.collect m).downFor = rl.downFor := rfl
@[simp] theorem collect_frame (m : Nat) (rl : RelayLink) : (rl.collect m).frame = rl.frame := rfl
@[simp] theorem collect_lastMark (m : Nat) (rl : RelayLink) : (rl.collect m).lastMark = rl.lastMark := rfl
@[simp] theorem collect_idleDue (m : Nat) (rl : RelayLink) : (rl.collect m).idleDue = rl.idleDue := rfl

/-- A MARK due after the collected mark has become another is one the last frame sent did not carry (R135). -/
theorem collect_differs {m : Nat} {rl : RelayLink} (h : (rl.collect m).markDue = true) : (rl.collect m).collected ≠ rl.lastMark := by
  simp only [collect_markDue, Bool.and_eq_true, bne_iff_ne] at h
  exact h.2

/-! ### enterStarting -/

@[simp] theorem enterStarting_mainPower (d : Device) : (enterStarting d).mainPower = d.mainPower := rfl
@[simp] theorem enterStarting_fastBaud (d : Device) : (enterStarting d).fastBaud = d.fastBaud := rfl
@[simp] theorem enterStarting_sense (d : Device) : (enterStarting d).sense = d.sense := rfl
@[simp] theorem enterStarting_tb (d : Device) : (enterStarting d).tb = d.tb := rfl
@[simp] theorem enterStarting_ss (d : Device) : (enterStarting d).ss = d.ss := rfl
@[simp] theorem enterStarting_ae (d : Device) : (enterStarting d).ae = d.ae := rfl
@[simp] theorem enterStarting_nu (d : Device) : (enterStarting d).nu = d.nu := rfl
@[simp] theorem enterStarting_su (d : Device) : (enterStarting d).su = d.su := rfl
@[simp] theorem enterStarting_gb (d : Device) : (enterStarting d).gb = d.gb := rfl
@[simp] theorem enterStarting_op_inHand (d : Device) : (enterStarting d).op.inHand = d.op.inHand := rfl
@[simp] theorem enterStarting_rl_settings (d : Device) : (enterStarting d).rl.settings = d.rl.settings := rfl
@[simp] theorem enterStarting_rl_ring (d : Device) : (enterStarting d).rl.ring = d.rl.ring := rfl

/-! ### enterUp -/

@[simp] theorem enterUp_mainPower (d : Device) : (enterUp d).mainPower = d.mainPower := rfl
@[simp] theorem enterUp_fastBaud (d : Device) : (enterUp d).fastBaud = d.fastBaud := rfl
@[simp] theorem enterUp_sense (d : Device) : (enterUp d).sense = d.sense := rfl
@[simp] theorem enterUp_tb (d : Device) : (enterUp d).tb = d.tb := rfl
@[simp] theorem enterUp_ss (d : Device) : (enterUp d).ss = d.ss := rfl
@[simp] theorem enterUp_ae (d : Device) : (enterUp d).ae = d.ae := rfl
@[simp] theorem enterUp_nu (d : Device) : (enterUp d).nu = d.nu := rfl
@[simp] theorem enterUp_su (d : Device) : (enterUp d).su = d.su := rfl
@[simp] theorem enterUp_gb (d : Device) : (enterUp d).gb = d.gb := rfl
@[simp] theorem enterUp_op_inHand (d : Device) : (enterUp d).op.inHand = d.op.inHand := rfl
@[simp] theorem enterUp_rl_settings (d : Device) : (enterUp d).rl.settings = d.rl.settings := rfl

/-! ### enterHold -/

@[simp] theorem enterHold_mainPower (d : Device) : (enterHold d).mainPower = d.mainPower := rfl
@[simp] theorem enterHold_fastBaud (d : Device) : (enterHold d).fastBaud = d.fastBaud := rfl
@[simp] theorem enterHold_sense (d : Device) : (enterHold d).sense = d.sense := rfl
@[simp] theorem enterHold_tb (d : Device) : (enterHold d).tb = d.tb := rfl
@[simp] theorem enterHold_ss (d : Device) : (enterHold d).ss = d.ss := rfl
@[simp] theorem enterHold_ae (d : Device) : (enterHold d).ae = d.ae := rfl
@[simp] theorem enterHold_nu (d : Device) : (enterHold d).nu = d.nu := rfl
@[simp] theorem enterHold_su (d : Device) : (enterHold d).su = d.su := rfl
@[simp] theorem enterHold_gb (d : Device) : (enterHold d).gb = d.gb := rfl
@[simp] theorem enterHold_op (d : Device) : (enterHold d).op = d.op := rfl
@[simp] theorem enterHold_rl_link (d : Device) : (enterHold d).rl.link = d.rl.link := rfl
@[simp] theorem enterHold_rl_settings (d : Device) : (enterHold d).rl.settings = d.rl.settings := rfl
@[simp] theorem enterHold_rl_ring (d : Device) : (enterHold d).rl.ring = d.rl.ring := rfl

/-! ### heard -/

@[simp] theorem heard_mainPower (d : Device) : (heard d).mainPower = d.mainPower := rfl
@[simp] theorem heard_fastBaud (d : Device) : (heard d).fastBaud = d.fastBaud := rfl
@[simp] theorem heard_sense (d : Device) : (heard d).sense = d.sense := rfl
@[simp] theorem heard_tb (d : Device) : (heard d).tb = d.tb := rfl
@[simp] theorem heard_ss (d : Device) : (heard d).ss = d.ss := rfl
@[simp] theorem heard_ae (d : Device) : (heard d).ae = d.ae := rfl
@[simp] theorem heard_nu (d : Device) : (heard d).nu = d.nu := rfl
@[simp] theorem heard_su (d : Device) : (heard d).su = d.su := rfl
@[simp] theorem heard_gb (d : Device) : (heard d).gb = d.gb := rfl
@[simp] theorem heard_op (d : Device) : (heard d).op = d.op := rfl
@[simp] theorem heard_rl_link (d : Device) : (heard d).rl.link = d.rl.link := rfl
@[simp] theorem heard_rl_settings (d : Device) : (heard d).rl.settings = d.rl.settings := rfl
@[simp] theorem heard_rl_ring (d : Device) : (heard d).rl.ring = d.rl.ring := rfl

/-! ### dropReply -/

@[simp] theorem dropReply_mainPower (d : Device) : (dropReply d).mainPower = d.mainPower := rfl
@[simp] theorem dropReply_fastBaud (d : Device) : (dropReply d).fastBaud = d.fastBaud := rfl
@[simp] theorem dropReply_sense (d : Device) : (dropReply d).sense = d.sense := rfl
@[simp] theorem dropReply_tb (d : Device) : (dropReply d).tb = d.tb := rfl
@[simp] theorem dropReply_ss (d : Device) : (dropReply d).ss = d.ss := rfl
@[simp] theorem dropReply_ae (d : Device) : (dropReply d).ae = d.ae := rfl
@[simp] theorem dropReply_nu (d : Device) : (dropReply d).nu = d.nu := rfl
@[simp] theorem dropReply_rl (d : Device) : (dropReply d).rl = d.rl := rfl
@[simp] theorem dropReply_su (d : Device) : (dropReply d).su = d.su := rfl
@[simp] theorem dropReply_op (d : Device) : (dropReply d).op = d.op := rfl
@[simp] theorem dropReply_gb_inFlight (d : Device) : (dropReply d).gb.inFlight = none := by
  unfold dropReply settleRound GateBus.settled; dsimp only; split <;> rfl
@[simp] theorem dropReply_gb_replyDropped (d : Device) : (dropReply d).gb.replyDropped = false := by
  unfold dropReply settleRound GateBus.settled; dsimp only; split <;> rfl
@[simp] theorem dropReply_gb_stations (d : Device) : (dropReply d).gb.stations = d.gb.stations := by
  unfold dropReply settleRound GateBus.settled; dsimp only; split <;> rfl
@[simp] theorem dropReply_gb_records (d : Device) : (dropReply d).gb.records = d.gb.records := by
  unfold dropReply settleRound GateBus.settled; dsimp only; split <;> rfl
@[simp] theorem dropReply_gb_round (d : Device) : (dropReply d).gb.round = d.gb.round := by
  unfold dropReply settleRound GateBus.settled; dsimp only; split <;> rfl
@[simp] theorem dropReply_gb_frame (d : Device) : (dropReply d).gb.frame = d.gb.frame := by
  unfold dropReply settleRound GateBus.settled; dsimp only; split <;> rfl

/-! ### warbleUnit -/

@[simp] theorem warbleUnit_mainPower (d : Device) : (warbleUnit d).mainPower = d.mainPower := rfl
@[simp] theorem warbleUnit_fastBaud (d : Device) : (warbleUnit d).fastBaud = d.fastBaud := rfl
@[simp] theorem warbleUnit_sense (d : Device) : (warbleUnit d).sense = d.sense := rfl
@[simp] theorem warbleUnit_tb (d : Device) : (warbleUnit d).tb = d.tb := rfl
@[simp] theorem warbleUnit_ss (d : Device) : (warbleUnit d).ss = d.ss := rfl
@[simp] theorem warbleUnit_ae (d : Device) : (warbleUnit d).ae = d.ae := rfl
@[simp] theorem warbleUnit_nu (d : Device) : (warbleUnit d).nu = d.nu := rfl
@[simp] theorem warbleUnit_rl (d : Device) : (warbleUnit d).rl = d.rl := rfl
@[simp] theorem warbleUnit_gb (d : Device) : (warbleUnit d).gb = d.gb := rfl
@[simp] theorem warbleUnit_op (d : Device) : (warbleUnit d).op = d.op := rfl
@[simp] theorem warbleUnit_su_zones (d : Device) : (warbleUnit d).su.zones = d.su.zones := rfl

/-! ### superviseZone -/

@[simp] theorem superviseZone_mainPower (z : Nat) (d : Device) : (superviseZone z d).mainPower = d.mainPower := rfl
@[simp] theorem superviseZone_fastBaud (z : Nat) (d : Device) : (superviseZone z d).fastBaud = d.fastBaud := rfl
@[simp] theorem superviseZone_sense (z : Nat) (d : Device) : (superviseZone z d).sense = d.sense := rfl
@[simp] theorem superviseZone_tb (z : Nat) (d : Device) : (superviseZone z d).tb = d.tb := rfl
@[simp] theorem superviseZone_ss (z : Nat) (d : Device) : (superviseZone z d).ss = d.ss := rfl
@[simp] theorem superviseZone_ae (z : Nat) (d : Device) : (superviseZone z d).ae = d.ae := rfl
@[simp] theorem superviseZone_nu (z : Nat) (d : Device) : (superviseZone z d).nu = d.nu := rfl
@[simp] theorem superviseZone_rl (z : Nat) (d : Device) : (superviseZone z d).rl = d.rl := rfl
@[simp] theorem superviseZone_gb (z : Nat) (d : Device) : (superviseZone z d).gb = d.gb := rfl
@[simp] theorem superviseZone_op (z : Nat) (d : Device) : (superviseZone z d).op = d.op := rfl
/-! ### What each update writes -/

@[simp] theorem raise_causes (c : Cause) (d : Device) : (d.raise c).op.causes = d.op.causes ||| c.bit := rfl
@[simp] theorem markZone_changedZones (z : Nat) (d : Device) :
    (d.markZone z).op.changedZones = d.op.changedZones ||| (1#24 <<< (z - 1)) := rfl
@[simp] theorem markStation_changedStations (a : Nat) (d : Device) :
    (d.markStation a).op.changedStations = d.op.changedStations ||| (1#8 <<< (a - 1)) := rfl
@[simp] theorem answer_inHand (tag code : Nat) (a : Answer) (d : Device) :
    (d.answer tag code a).op.inHand = some ⟨tag, code, a⟩ := rfl
@[simp] theorem onAe_ae (f : Attendance → Attendance) (d : Device) : (d.onAe f).ae = f d.ae := rfl
@[simp] theorem tagGiven_nextTag (tag : Nat) (d : Device) : (d.tagGiven tag).nu.nextTag = nextOf Config.maxWord tag := rfl
@[simp] theorem leaveAwaiting_awaiting (tag : Nat) (d : Device) :
    (leaveAwaiting tag d).nu.awaiting = d.nu.awaiting.filter (·.notice.tag != tag) := rfl
@[simp] theorem toStep_rollover (n : Nat) (r : Rollover) (d : Device) :
    (toStep n r d).tb.rollover = some { r with step := n, cursor := 1 } := rfl
@[simp] theorem cursorOn_rollover (r : Rollover) (d : Device) :
    (cursorOn r d).tb.rollover = some { r with cursor := r.cursor + 1 } := rfl
@[simp] theorem startRollover_rollover (kind : RolloverKind) (d : Device) :
    (startRollover kind d).tb.rollover = some ⟨kind, 1, 1, 0, d.tb.cycleDay⟩ := rfl
@[simp] theorem send_frame (f : RelayFrame) (mark : Nat) (d : Device) : (send f mark d).rl.frame = some f := rfl
@[simp] theorem appendJournal_nextSerial (r : JournalRecord) (d : Device) :
    (appendJournal r d).ae.nextSerial = nextOf Config.lastSerial d.ae.nextSerial := rfl

end Sys2Proof.Machine
end

