-- ==== Sys2Proof/Laws/Ops.lean ====
section
/-! SUPPORT. What the shared operations of Machine/Ops.lean can do, once each: tables, counters, checks and requests. -/
namespace Sys2Proof.Machine

/-! ### The numbers of Config -/

/-- Every number Config fixes, for `omega`. -/
theorem config_values : Config.lastDay = 36524 ∧ Config.daySeconds = 86400 ∧ Config.ticksPerSecond = 64 ∧ Config.dayMinutes = 1440 ∧
    Config.lastMinute = 1439 ∧ Config.lastSecond = 86399 ∧ Config.slewLimit = 64 ∧ Config.slewPeriod = 16 ∧
    Config.stepAgreement = 4 ∧ Config.lockLimit = 2 ∧ Config.unlockLimit = 16 ∧ Config.halfMinuteTicks = 1920 ∧
    Config.minuteTicks = 3840 ∧ Config.markGuardTicks = 2880 ∧ Config.markSilenceTicks = 11520 ∧ Config.maxCycle =
    10 ∧ Config.maxExceptions = 96 ∧ Config.exceptionsPerReply = 16 ∧ Config.maxPlanEntries = 32 ∧ Config.maxShift
    = 240 ∧ Config.maxRoll = 2400 ∧ Config.maxGraceOverride = 30 ∧ Config.maxContacts = 4096 ∧ Config.maxListed =
    6 ∧ Config.contactsPerReply = 16 ∧ Config.maxPoints = 255 ∧ Config.maxWord = 65535 ∧ Config.maxLateStep = 15 ∧
    Config.recordsPerReply = 8 ∧ Config.maxJournal = 1024 ∧ Config.lastSerial = 16777215 ∧ Config.maxExcuses = 512
    ∧ Config.queueUrgent = 256 ∧ Config.queueRoutine = 240 ∧ Config.queueBulk = 192 ∧ Config.ringUrgent = 64 ∧
    Config.ringRoutine = 56 ∧ Config.ringBulk = 32 ∧ Config.maxAwaiting = 192 ∧ Config.maxCalls = 128 ∧
    Config.placeModulus = 128 ∧ Config.maxHeld = 64 ∧ Config.maxVerdicts = 4 ∧ Config.idleCheckSeconds = 10 ∧
    Config.checksToMove = 3 ∧ Config.warbleUnits = 5 ∧ Config.leavingLead = 30 := by
  decide

/-! ### Checks of a request -/

@[simp] theorem checked_nil (d : Device) (t : Answer × Device) : checked d [] t = t := rfl

@[simp] theorem checked_cons (d : Device) (b : Bool) (r : Result) (l : List (Bool × Result)) (t : Answer × Device) :
    checked d ((b, r) :: l) t = if b = true then refuse r d else checked d l t := rfl

@[simp] theorem refuse_device (r : Result) (d : Device) : (refuse r d).2 = d := rfl
@[simp] theorem refuse_answer (r : Result) (d : Device) : (refuse r d).1 = ⟨r, {}, .empty⟩ := rfl

/-- A request that makes checks is refused with the result of a check that failed, or taken. -/
theorem checked_cases (d : Device) (l : List (Bool × Result)) (t : Answer × Device) :
    checked d l t = t ∧ (∀ c ∈ l, c.1 = false) ∨ ∃ c ∈ l, c.1 = true ∧ checked d l t = refuse c.2 d := by
  induction l with
  | nil => exact .inl ⟨rfl, by simp⟩
  | cons c l ih =>
    obtain ⟨b, r⟩ := c
    cases b
    · rcases ih with ⟨h, hall⟩ | ⟨c, hc, hb, h⟩
      · exact .inl ⟨by simpa using h, by simpa using hall⟩
      · exact .inr ⟨c, List.mem_cons_of_mem _ hc, hb, by simpa using h⟩
    · exact .inr ⟨(true, r), List.mem_cons_self, rfl, rfl⟩

/-- What a device satisfies after a request with checks: it holds if it holds before and where the request is taken. -/
theorem checked_keeps {P : Device → Prop} {d : Device} (l : List (Bool × Result)) {t : Answer × Device}
    (hd : P d) (ht : (∀ c ∈ l, c.1 = false) → P t.2) : P (checked d l t).2 := by
  rcases checked_cases d l t with ⟨h, hall⟩ | ⟨c, _, _, h⟩
  · rw [h]; exact ht hall
  · rw [h]; exact hd

/-! ### Commands -/

theorem act_eq (f : Device → Device) (s : State) : act f s = .next { s with dev := f s.dev } := rfl

/-- A request with main power on and no request in hand is answered. -/
theorem request_ready {code tag : Nat} {serve : Device → Answer × Device} {d : Device} (hp : d.mainPower = true)
    (hi : d.op.inHand = none) : request code tag serve d = ((serve d).2).answer tag code (serve d).1 := by
  simp [request, powered, hp, hi]

/-- A request frame while another is in hand only sets OVERRUN. -/
theorem request_overrun {code tag : Nat} {serve : Device → Answer × Device} {d : Device} {r : Reply} (hp : d.mainPower = true)
    (hi : d.op.inHand = some r) : request code tag serve d = d.raise .overrun := by
  simp [request, powered, hp, hi]

/-- With main power off a request frame is not heard. -/
theorem request_off {code tag : Nat} {serve : Device → Answer × Device} {d : Device} (hp : d.mainPower = false) :
    request code tag serve d = d := by
  simp [request, powered, hp]

/-- What a device satisfies after a request: it must not depend on the reply in hand or on the causes. -/
theorem request_keeps {P : Device → Prop} {code tag : Nat} {serve : Device → Answer × Device} {d : Device} (hd : P d)
    (hop : ∀ (e : Device) (o : OfficePort), P e → P { e with op := o }) (hs : P (serve d).2) : P (request code tag serve d) := by
  unfold request powered
  split
  · show P (match d.op.inHand with | some _ => d.raise .overrun | none => ((serve d).2).answer tag code (serve d).1)
    split
    · exact hop d _ hd
    · exact hop _ _ hs
  · exact hd

theorem powered_keeps {P : Device → Prop} {f : Device → Device} {d : Device} (hd : P d) (hf : P (f d)) : P (powered f d) := by
  unfold powered; split <;> assumption

theorem powered_on {f : Device → Device} {d : Device} (h : d.mainPower = true) : powered f d = f d := by simp [powered, h]
theorem powered_off {f : Device → Device} {d : Device} (h : d.mainPower = false) : powered f d = d := by simp [powered, h]

/-- A request command at a ready state. -/
theorem act_request_ready {code tag : Nat} {serve : Device → Answer × Device} {s : State} (h : Ready s) :
    act (request code tag serve) s = answers s tag code (serve s.dev).1 (serve s.dev).2 := by
  rw [act_eq, request_ready h.1 h.2]; rfl

/-- An event command with main power on. -/
theorem act_powered_on {f : Device → Device} {s : State} (h : Powered s) : act (powered f) s = goesTo s (f s.dev) := by
  rw [act_eq, powered_on h]; rfl

/-! ### Counters -/

theorem satAdd_le (limit a b : Nat) : satAdd limit a b ≤ limit := Nat.min_le_left _ _

theorem nextOf_pos (limit n : Nat) : 1 ≤ nextOf limit n := by unfold nextOf; split <;> omega

theorem nextOf_le {limit : Nat} (h : 1 ≤ limit) (n : Nat) : nextOf limit n ≤ limit := by unfold nextOf; split <;> omega

/-! ### Tables -/

theorem mem_insertBefore {α : Type} (before : α → α → Bool) (a x : α) (l : List α) :
    x ∈ insertBefore before a l ↔ x = a ∨ x ∈ l := by
  induction l with
  | nil => simp [insertBefore]
  | cons b l ih =>
    unfold insertBefore; split
    · simp
    · simp only [List.mem_cons, ih]; tauto

@[simp] theorem length_insertBefore {α : Type} (before : α → α → Bool) (a : α) (l : List α) :
    (insertBefore before a l).length = l.length + 1 := by
  induction l with
  | nil => rfl
  | cons b l ih => unfold insertBefore; split <;> simp [ih]

@[simp] theorem length_setNth {α : Type} (l : List α) (i : Nat) (a : α) : (setNth l i a).length = l.length := by
  unfold setNth; split <;> simp

theorem nth_setNth_same {α : Type} (l : List α) (i : Nat) (a dflt : α) (h1 : 1 ≤ i) (h2 : i ≤ l.length) :
    nth (setNth l i a) i dflt = a := by
  unfold nth setNth
  rw [if_neg (by omega)]
  have h : i - 1 < (l.set (i - 1) a).length := by simp; omega
  rw [List.getD_eq_getElem?_getD, List.getElem?_eq_getElem h]
  simp

theorem nth_setNth_other {α : Type} (l : List α) (i j : Nat) (a dflt : α) (hi : 1 ≤ i) (hj : 1 ≤ j) (h : i ≠ j) :
    nth (setNth l i a) j dflt = nth l j dflt := by
  unfold nth setNth
  rw [if_neg (by omega)]
  rw [List.getD_eq_getElem?_getD, List.getD_eq_getElem?_getD, List.getElem?_set_ne (by omega)]

/-- A number found is one of those tried: it is n or follows in the count, so it stays in 1..limit. -/
theorem firstFree_range {limit : Nat} (held : List Nat) (hl : 1 ≤ limit) :
    ∀ (fuel n : Nat), 1 ≤ n → n ≤ limit → 1 ≤ firstFree limit held fuel n ∧ firstFree limit held fuel n ≤ limit := by
  intro fuel
  induction fuel with
  | zero => intro n h1 h2; exact ⟨h1, h2⟩
  | succ fuel ih =>
    intro n h1 h2
    unfold firstFree; split
    · exact ih _ (nextOf_pos _ _) (nextOf_le hl _)
    · exact ⟨h1, h2⟩

/-- The k-th number tried from n on, in a count that runs 1..limit and wraps to 1. -/
def tryAt (limit n k : Nat) : Nat := if k ≤ limit - n then n + k else k - (limit - n)

theorem tryAt_next {limit n k : Nat} (h : k < limit) : tryAt limit (nextOf limit n) k = tryAt limit n (k + 1) := by
  unfold tryAt nextOf; split_ifs <;> omega

theorem tryAt_inj {limit n j k : Nat} (hj : j < limit) (hk : k < limit) (h : tryAt limit n j = tryAt limit n k) : j = k := by
  unfold tryAt at h; split_ifs at h <;> omega

/-- The number found is the first one tried that is not held, or the last one tried. -/
theorem firstFree_spec {limit : Nat} (held : List Nat) : ∀ (fuel n : Nat), fuel ≤ limit →
    ∃ k, k ≤ fuel ∧ firstFree limit held fuel n = tryAt limit n k ∧ (∀ j, j < k → tryAt limit n j ∈ held) ∧
      (k < fuel → firstFree limit held fuel n ∉ held) := by
  intro fuel
  induction fuel with
  | zero => intro n _; exact ⟨0, by simp [firstFree, tryAt]⟩
  | succ fuel ih =>
    intro n hf
    by_cases hn : held.contains n = true
    · obtain ⟨k, hk, h1, h2, h3⟩ := ih (nextOf limit n) (by omega)
      have hu : firstFree limit held (fuel + 1) n = firstFree limit held fuel (nextOf limit n) := by
        rw [firstFree, if_pos hn]
      refine ⟨k + 1, by omega, ?_, ?_, ?_⟩
      · rw [hu, h1, tryAt_next (by omega)]
      · intro j hj
        cases j with
        | zero => simpa [tryAt] using hn
        | succ j => rw [← tryAt_next (by omega)]; exact h2 j (by omega)
      · intro hlt; rw [hu]; exact h3 (by omega)
    · have hu : firstFree limit held (fuel + 1) n = n := by rw [firstFree, if_neg hn]
      exact ⟨0, by omega, by rw [hu]; simp [tryAt], by simp, fun _ => by rw [hu]; simpa using hn⟩

/-- One more try than numbers held finds a number that is not held, skipping only held ones. -/
theorem firstFree_free {limit : Nat} (held : List Nat) (n : Nat) (h : held.length < limit) :
    ∃ k, k ≤ held.length ∧ firstFree limit held (held.length + 1) n = tryAt limit n k ∧ tryAt limit n k ∉ held ∧
      ∀ j, j < k → tryAt limit n j ∈ held := by
  obtain ⟨k, hk, h1, h2, h3⟩ := firstFree_spec (limit := limit) held (held.length + 1) n (by omega)
  rcases Nat.lt_or_ge k (held.length + 1) with hlt | hge
  · exact ⟨k, by omega, h1, fun hm => h3 hlt (h1 ▸ hm), h2⟩
  · exfalso
    have hnd : ((List.range (held.length + 1)).map (tryAt limit n)).Nodup := by
      refine (List.nodup_map_iff_inj_on List.nodup_range).2 fun i hi j hj hij => ?_
      rw [List.mem_range] at hi hj
      have hi : i < limit := by omega
      have hj : j < limit := by omega
      exact tryAt_inj hi hj hij
    have hsub : (List.range (held.length + 1)).map (tryAt limit n) ⊆ held := by
      intro x hx
      obtain ⟨j, hj, rfl⟩ := List.mem_map.1 hx
      rw [List.mem_range] at hj
      exact h2 j (by omega)
    have := (hnd.subperm hsub).length_le
    simp at this

/-! ### Sorted tables -/

/-- No member stands behind one it must come before. -/
def InOrder {α : Type} (before : α → α → Bool) (l : List α) : Prop := l.Pairwise fun a b => before b a = false

theorem insertBefore_perm {α : Type} (before : α → α → Bool) (a : α) (l : List α) : (insertBefore before a l).Perm (a :: l) := by
  induction l with
  | nil => exact .refl _
  | cons b l ih =>
    unfold insertBefore; split
    · exact .refl _
    · exact (ih.cons b).trans (.swap a b l)

theorem insertBefore_inOrder {α : Type} {before : α → α → Bool} (asymm : ∀ a b, before a b = true → before b a = false)
    (trans : ∀ a b c, before a b = true → before b c = true → before a c = true) (a : α) {l : List α} (h : InOrder before l) :
    InOrder before (insertBefore before a l) := by
  induction l with
  | nil => exact List.pairwise_singleton _ _
  | cons b l ih =>
    have ⟨h1, h2⟩ := List.pairwise_cons.1 h
    unfold insertBefore; split
    · rename_i hb
      refine List.pairwise_cons.2 ⟨fun y hy => ?_, h⟩
      rcases List.mem_cons.1 hy with rfl | hy
      · exact asymm _ _ hb
      · rcases hya : before y a with _ | _
        · rfl
        · have := h1 y hy; rw [trans y a b hya hb] at this; exact this
    · rename_i hb
      refine List.pairwise_cons.2 ⟨fun y hy => ?_, ih h2⟩
      rcases (mem_insertBefore _ _ _ _).1 hy with rfl | hy
      · simpa using hb
      · exact h1 y hy

/-- A record whose number is not in an ascending table is put at its place. -/
theorem ascending_insert {α : Type} {g : α → Nat} {a : α} {l : List α} (h : (l.map g).Pairwise (· < ·)) (hn : g a ∉ l.map g) :
    ((insertBefore (fun a b => g a < g b) a l).map g).Pairwise (· < ·) := by
  induction l with
  | nil => exact List.pairwise_singleton _ _
  | cons b l ih =>
    simp only [List.map_cons, List.mem_cons, not_or] at hn
    rw [List.map_cons, List.pairwise_cons] at h
    unfold insertBefore; split
    · rename_i hb
      rw [decide_eq_true_eq] at hb
      simp only [List.map_cons, List.pairwise_cons]
      refine ⟨fun r hr => ?_, h⟩
      rcases List.mem_cons.1 hr with rfl | hr
      · exact hb
      · exact Nat.lt_trans hb (h.1 r hr)
    · rename_i hb
      rw [decide_eq_true_eq] at hb
      rw [List.map_cons, List.pairwise_cons]
      refine ⟨fun r hr => ?_, ih h.2 hn.2⟩
      obtain ⟨x, hx, rfl⟩ := List.mem_map.1 hr
      rcases (mem_insertBefore _ _ _ _).1 hx with rfl | hx
      · omega
      · exact h.1 _ (List.mem_map_of_mem hx)

/-- Members that none must come before another keep their order among themselves. -/
theorem insertBefore_filter {α : Type} {before : α → α → Bool} {p : α → Bool}
    (split : ∀ a b c, before a c = true → before a b = true ∨ before b c = true)
    (level : ∀ a b, p a = true → p b = true → before a b = false) (a : α) {l : List α} (h : InOrder before l) :
    (insertBefore before a l).filter p = l.filter p ++ [a].filter p := by
  induction l with
  | nil => rfl
  | cons b l ih =>
    have ⟨h1, h2⟩ := List.pairwise_cons.1 h
    unfold insertBefore; split
    · rename_i hb
      cases ha : p a
      · simp [ha]
      · have : (b :: l).filter p = [] := by
          rw [List.filter_eq_nil_iff]
          intro y hy hp
          have hay := level a y ha hp
          rcases List.mem_cons.1 hy with rfl | hy
          · rw [hb] at hay; cases hay
          · rcases split a y b hb with h3 | h3
            · rw [h3] at hay; cases hay
            · rw [h1 y hy] at h3; cases h3
        rw [List.filter_cons, if_pos ha, this]; simp [ha]
    · rw [List.filter_cons, List.filter_cons, ih h2]; split <;> simp

theorem sortBy_perm {α : Type} (before : α → α → Bool) (l : List α) : (sortBy before l).Perm l := by
  have : ∀ acc : List α, (l.foldl (fun acc a => insertBefore before a acc) acc).Perm (acc ++ l) := by
    induction l with
    | nil => intro acc; simp
    | cons a l ih =>
      intro acc
      refine (ih _).trans ?_
      exact ((insertBefore_perm before a acc).append_right l).trans (List.perm_middle.symm)
  simpa [sortBy] using this []

theorem sortBy_inOrder {α : Type} {before : α → α → Bool} (asymm : ∀ a b, before a b = true → before b a = false)
    (trans : ∀ a b c, before a b = true → before b c = true → before a c = true) (l : List α) : InOrder before (sortBy before l) := by
  have : ∀ acc : List α, InOrder before acc → InOrder before (l.foldl (fun acc a => insertBefore before a acc) acc) := by
    induction l with
    | nil => exact fun _ h => h
    | cons a l ih => exact fun acc h => ih _ (insertBefore_inOrder asymm trans a h)
  exact this [] List.Pairwise.nil

theorem sortBy_filter {α : Type} {before : α → α → Bool} {p : α → Bool} (asymm : ∀ a b, before a b = true → before b a = false)
    (trans : ∀ a b c, before a b = true → before b c = true → before a c = true)
    (split : ∀ a b c, before a c = true → before a b = true ∨ before b c = true)
    (level : ∀ a b, p a = true → p b = true → before a b = false) (l : List α) : (sortBy before l).filter p = l.filter p := by
  have : ∀ acc : List α, InOrder before acc →
      (l.foldl (fun acc a => insertBefore before a acc) acc).filter p = acc.filter p ++ l.filter p := by
    induction l with
    | nil => simp
    | cons a l ih =>
      intro acc h
      rw [List.foldl_cons, ih _ (insertBefore_inOrder asymm trans a h), insertBefore_filter split level a h, List.append_assoc,
        ← List.filter_append]
      rfl
  simpa [sortBy] using this [] List.Pairwise.nil

end Sys2Proof.Machine
end

