-- ==== Sys2Proof/Laws/KeepTb.lean ====
section
/-! SUPPORT. The operations that leave the Time Base alone, each said once: what runs the bells, the roster, the notices, the
relay line, the gates and the zones never moves the clock, the calendar or a rollover. -/
namespace Sys2Proof.Machine

/-- A fold of changes that each keep a view keeps it. -/
theorem foldl_keeps {α β : Type} (view : Device → β) (f : Device → α → Device) (h : ∀ d a, view (f d a) = view d)
    (l : List α) (d : Device) : view (l.foldl f d) = view d := by
  induction l generalizing d with
  | nil => rfl
  | cons a l ih => simp [ih, h]

/-- A fold of changes that each keep a property keeps it. -/
theorem foldl_inv {α : Type} (P : Device → Prop) (f : Device → α → Device) (h : ∀ d a, P d → P (f d a))
    (l : List α) (d : Device) (hd : P d) : P (l.foldl f d) := by
  induction l generalizing d with
  | nil => exact hd
  | cons a l ih => exact ih _ (h _ _ hd)

/-- A change done some times that keeps a property keeps it. -/
theorem repeated_inv {α : Type} (P : α → Prop) (f : α → α) (h : ∀ a, P a → P (f a)) (n : Nat) (a : α) (ha : P a) :
    P (repeated f n a) := by
  induction n generalizing a with
  | zero => exact ha
  | succ n ih => exact ih _ (h _ ha)

/-- A change done some times that keeps a view keeps it. -/
theorem repeated_keeps {α β : Type} (view : α → β) (f : α → α) (h : ∀ a, view (f a) = view a) (n : Nat) (a : α) :
    view (repeated f n a) = view a :=
  repeated_inv (fun b => view b = view a) f (fun b hb => (h b).trans hb) n a rfl

/-! ### Sounders -/

@[simp] theorem putZone_tb (z : Nat) (v : ZoneSupervision) (d : Device) : (d.putZone z v).tb = d.tb := by
  unfold Device.putZone; dsimp only; split <;> rfl
@[simp] theorem checkZone_tb (z : Nat) (d : Device) : (d.checkZone z).tb = d.tb := putZone_tb _ _ _
@[simp] theorem settleZone_tb (was : Bool) (z : Nat) (d : Device) : (d.settleZone was z).tb = d.tb := by
  unfold Device.settleZone; split
  · rfl
  · split <;> simp
theorem settling_tb (change : Device → Device) (d : Device) : (settling change d).tb = (change d).tb :=
  foldl_keeps (·.tb) _ (fun _ _ => settleZone_tb _ _ _) _ _
@[simp] theorem startPattern_tb (g i : Nat) (d : Device) : (startPattern g i d).tb = d.tb := settling_tb _ _
@[simp] theorem exchangeBanks_tb (d : Device) : (exchangeBanks d).tb = d.tb := settling_tb _ _
@[simp] theorem changeAlert_tb (f : Sounder → Sounder) (d : Device) : (changeAlert f d).tb = d.tb := by
  unfold changeAlert; dsimp only; split <;> simp [settling_tb]
@[simp] theorem alertInputIs_tb (active : Bool) (d : Device) : (alertInputIs active d).tb = d.tb := by
  unfold alertInputIs; split
  · rfl
  · dsimp only; split <;> simp
@[simp] theorem setQuiet_tb (zs : ZoneSet) (d : Device) : (setQuiet zs d).tb = d.tb := settling_tb _ _
@[simp] theorem paStop_tb (d : Device) : (paStop d).tb = d.tb := settling_tb _ _
@[simp] theorem setPaKey_tb (zs : ZoneSet) (d : Device) : (setPaKey zs d).tb = d.tb := settling_tb _ _
@[simp] theorem paKeyIs_tb (held : Bool) (d : Device) : (paKeyIs held d).tb = d.tb := settling_tb _ _
@[simp] theorem setZone_tb (zs : ZoneSet) (z : Nat) (d : Device) : (setZone zs z d).tb = d.tb := by
  unfold setZone freeZone; split
  · rfl
  · split <;> simp
@[simp] theorem setSupervision_tb (zs : ZoneSet) (d : Device) : (setSupervision zs d).tb = d.tb :=
  foldl_keeps (·.tb) _ (fun _ _ => setZone_tb _ _ _) _ _
@[simp] theorem idleCheck_tb (z : Nat) (d : Device) : (idleCheck z d).tb = d.tb := by
  unfold idleCheck; dsimp only; split <;> simp
@[simp] theorem sampleInputs_tb (a k : Bool) (d : Device) : (sampleInputs a k d).tb = d.tb := by
  unfold sampleInputs; dsimp only; split <;> split <;> simp

/-! ### Notices -/

@[simp] theorem addCall_tb (r : CallReason) (u : Bool) (c : CallContent) (d : Device) : (addCall r u c d).tb = d.tb := by
  unfold addCall; split <;> rfl
@[simp] theorem toCalls_tb (r : CallReason) (o : Option NoticeOutcome) (n : Notice) (d : Device) : (toCalls r o n d).tb = d.tb :=
  addCall_tb _ _ _ _
@[simp] theorem submit_tb (n : Notice) (d : Device) : (submit n d).tb = d.tb := by unfold submit; split <;> simp
@[simp] theorem compose_tb (b : NoticeBody) (p c k s y : Nat) (d : Device) : (compose b p c k s y d).tb = d.tb := by simp [compose]
@[simp] theorem composeNoContact_tb (b : NoticeBody) (p : Nat) (d : Device) : (composeNoContact b p d).tb = d.tb := by
  simp [composeNoContact]
@[simp] theorem composeLeftSite_tb (r : SignOut) (roll : Nat) (d : Device) : (composeLeftSite r roll d).tb = d.tb := by
  unfold composeLeftSite; split <;> simp
@[simp] theorem composeLateness_tb (b : NoticeBody) (roll : Nat) (d : Device) : (composeLateness b roll d).tb = d.tb := by
  unfold composeLateness; split <;> simp
@[simp] theorem closeCalled_tb (n : Notice) (r : CalledReason) (d : Device) : (closeCalled n r d).tb = d.tb := by
  unfold closeCalled; split <;> rfl
@[simp] theorem takeReplyCode_tb (n : Notice) (code : Nat) (d : Device) : (takeReplyCode n code d).tb = d.tb := by
  unfold takeReplyCode; split
  · split
    · split
      · split <;> rfl
      · rfl
    · split <;> simp
  · rfl
@[simp] theorem unreachable_tb (n : Notice) (d : Device) : (unreachable n d).tb = d.tb := by
  unfold unreachable; split
  · rfl
  · split
    · simp
    · split
      · dsimp only; split <;> simp
      · simp
@[simp] theorem outcomeActs_tb (o : NoticeOutcome) (n : Notice) (d : Device) : (outcomeActs o n d).tb = d.tb := by
  cases o <;> simp [outcomeActs]
@[simp] theorem receipt_tb (n : Notice) (d : Device) : (receipt n d).tb = d.tb := by
  unfold receipt; split
  · rfl
  · rfl
  · split
    · simp
    · split <;> simp
@[simp] theorem takeOutcome_tb (t v c : Nat) (d : Device) : (takeOutcome t v c d).tb = d.tb := by
  unfold takeOutcome; split
  · rfl
  · split
    · simp
    · split
      · rfl
      · split <;> simp
@[simp] theorem outcomeTimedOut_tb (t : Nat) (d : Device) : (outcomeTimedOut t d).tb = d.tb := by
  unfold outcomeTimedOut; split
  · rfl
  · dsimp only; split <;> simp
@[simp] theorem fallBack_tb (n : Notice) (d : Device) : (fallBack n d).tb = d.tb := by simp [fallBack]
@[simp] theorem fallBackAll_tb (d : Device) : (fallBackAll d).tb = d.tb := foldl_keeps (·.tb) _ (fun _ _ => fallBack_tb _ _) _ _
@[simp] theorem fallbackDue_tb (t : Nat) (d : Device) : (fallbackDue t d).tb = d.tb := by
  unfold fallbackDue; split
  · rfl
  · split <;> simp
@[simp] theorem returnNotices_tb (l : List Notice) (u r b : Nat) (d : Device) : (returnNotices l u r b d).tb = d.tb := by
  induction l generalizing u r b d with
  | nil => rfl
  | cons n l ih => unfold returnNotices; split <;> split <;> simp [ih]
@[simp] theorem absenceRule_tb (a : Bool) (roll t : Nat) (d : Device) : (absenceRule a roll t d).tb = d.tb := by
  unfold absenceRule composeArrived; split
  · simp
  · split
    · split <;> simp
    · split
      · split <;> simp
      · split
        · simp
        · split
          · split <;> simp
          · rfl
@[simp] theorem absenceRuleFor_tb (a : Bool) (roll : Nat) (t : Option Nat) (d : Device) : (absenceRuleFor a roll t d).tb = d.tb := by
  unfold absenceRuleFor; split <;> simp

/-! ### Excuses and the roster -/

@[simp] theorem recordExcuse_tb (x : Excuse) (d : Device) : (recordExcuse x d).tb = d.tb := rfl
@[simp] theorem applyExcuse_tb (x : Excuse) (d : Device) : (applyExcuse x d).2.tb = d.tb := by
  unfold applyExcuse; split
  · rfl
  · split
    · rfl
    · dsimp only; split <;> simp
@[simp] theorem recordAndApply_tb (x : Excuse) (d : Device) : (recordAndApply x d).2.tb = d.tb := by simp [recordAndApply]
@[simp] theorem recordAll_tb (l : List Excuse) (d : Device) : (recordAll l d).2.tb = d.tb := by
  induction l generalizing d with
  | nil => rfl
  | cons x l ih => simp [recordAll, ih]
@[simp] theorem changeDayKind_tb (c : Bool) (d : Device) : (changeDayKind c d).tb = d.tb := by unfold changeDayKind; split <;> rfl
@[simp] theorem closeStep_tb (k s : Nat) (d : Device) : (closeStep k s d).tb = d.tb := by unfold closeStep; split <;> rfl
@[simp] theorem confirmEntry_tb (k s : Nat) (e : RosterEntry) (d : Device) : (confirmEntry k s e d).tb = d.tb := by
  unfold confirmEntry; dsimp only; split
  · rfl
  · split
    · split <;> simp
    · simp
@[simp] theorem confirmStep_tb (k s : Nat) (d : Device) : (confirmStep k s d).tb = d.tb := by
  unfold confirmStep; split
  · rfl
  · split
    · split
      · rfl
      · split <;> simp
    · rfl

/-! ### The scanner -/

@[simp] theorem onSlot_tb (i : Nat) (f : PlanSlot → PlanSlot) (d : Device) : (d.onSlot i f).tb = d.tb := by
  unfold Device.onSlot; split <;> rfl
@[simp] theorem handClose_tb (n k s m : Nat) (d : Device) : (handClose n k s m d).tb = d.tb := by
  unfold handClose; dsimp only; split <;> simp
@[simp] theorem fireSlot_tb (n i : Nat) (sl : PlanSlot) (sites : List Nat) (d : Device) : (fireSlot n i sl sites d).tb = d.tb := by
  unfold fireSlot; dsimp only; split
  · simp
  · simp
  · simp
  · exact (foldl_keeps (·.tb) _ (fun _ _ => handClose_tb _ _ _ _ _) _ _).trans (by simp)
theorem overSlots_tb (f : Nat → PlanSlot → Device → Device) (hf : ∀ i sl d, (f i sl d).tb = d.tb) (d : Device) :
    (overSlots f d).tb = d.tb :=
  foldl_keeps (·.tb) _ (fun d i => by split <;> simp [hf]) _ _
@[simp] theorem fireDue_tb (sites : List Nat) (n : Nat) (d : Device) : (fireDue sites n d).tb = d.tb :=
  overSlots_tb _ (fun i sl d => by split <;> simp) d
@[simp] theorem catchUp_tb (sites : List Nat) (n : Nat) (d : Device) : (catchUp sites n d).tb = d.tb :=
  overSlots_tb _ (fun i sl d => by
    split
    · rfl
    · split <;> simp) d
@[simp] theorem firePointsAt_tb (sites : List Nat) (n : Nat) (d : Device) : (firePointsAt sites n d).tb = d.tb :=
  foldl_keeps (·.tb) _ (fun d q => by split <;> simp) _ _
@[simp] theorem topOfMinute_tb (d : Device) : (topOfMinute d).tb = d.tb := by unfold topOfMinute; split <;> simp
@[simp] theorem reassess_tb (sites : List Nat) (d : Device) : (reassess sites d).tb = d.tb := by
  unfold reassess; split
  · simp only [firePointsAt_tb, fireDue_tb, catchUp_tb]
    exact foldl_keeps (·.tb) _ (fun _ _ => firePoint_tb _ _ _) _ _
  · rfl
@[simp] theorem jumpNotice_tb (old : Nat) (d : Device) : (jumpNotice old d).tb = d.tb := by unfold jumpNotice; split <;> simp

/-! ### Arrivals and messages -/

@[simp] theorem askLateRecorded_tb (e : RosterEntry) (b : Band) (m : Nat) (d : Device) : (askLateRecorded e b m d).tb = d.tb := by
  unfold askLateRecorded; split
  · rfl
  · split <;> simp
@[simp] theorem askLatePattern_tb (roll : Nat) (b : Band) (o n : Nat) (d : Device) : (askLatePattern roll b o n d).tb = d.tb := by
  unfold askLatePattern; split <;> simp
@[simp] theorem judgedNotices_tb (e : RosterEntry) (b : Band) (m o n : Nat) (d : Device) :
    (judgedNotices e b m o n d).tb = d.tb := by
  unfold judgedNotices; dsimp only; split <;> split <;> simp
@[simp] theorem takeArrival_tb (a : Arrival) (d : Device) : (takeArrival a d).2.tb = d.tb := by
  unfold takeArrival; split
  · rfl
  · split
    · rfl
    · unfold timedArrival; split
      · split
        · simp [judgedArrival]
        · rfl
      · split
        · unfold signOutArrival; dsimp only; split <;> simp
        · rfl
@[simp] theorem messageCall_tb (r : CallReason) (u : Bool) (c : Nat) (m : ParentMessage) (d : Device) :
    (messageCall r u c m d).tb = d.tb := addCall_tb _ _ _ _
@[simp] theorem acknowledge_tb (c : AckCode) (m : ParentMessage) (x f l : Nat) (d : Device) : (acknowledge c m x f l d).tb = d.tb :=
  compose_tb _ _ _ _ _ _ _
@[simp] theorem takeFreeText_tb (m : ParentMessage) (c : Nat) (h : Bool) (d : Device) : (takeFreeText m c h d).tb = d.tb := by
  simp [takeFreeText]
@[simp] theorem takeExcusing_tb (m : ParentMessage) (c : Contact) (d : Device) : (takeExcusing m c d).tb = d.tb := by
  unfold takeExcusing; split <;> simp
@[simp] theorem takeMessage_tb (m : ParentMessage) (d : Device) : (takeMessage m d).tb = d.tb := by
  unfold takeMessage; split
  · split <;> simp
  · split
    · simp
    · split
      · simp
      · split <;> simp
@[simp] theorem takeContent_tb (c : MsgContent) (d : Device) : (takeContent c d).tb = d.tb := by
  cases c <;> simp [takeContent]

/-! ### The relay line -/

@[simp] theorem retireOne_tb (d : Device) : (retireOne d).tb = d.tb := by unfold retireOne; split <;> simp
@[simp] theorem retire_tb (k : Nat) (d : Device) : (retire k d).tb = d.tb := by
  induction k generalizing d with
  | zero => rfl
  | succ k ih => simp [retire, ih]
@[simp] theorem applyMark_tb (m : Nat) (d : Device) : (applyMark m d).tb = d.tb := by unfold applyMark; split <;> simp
@[simp] theorem takeMark_tb (m : Nat) (d : Device) : (takeMark m d).tb = d.tb := by unfold takeMark; split <;> simp
@[simp] theorem dispatch_tb (n : Notice) (d : Device) : (dispatch n d).tb = d.tb := by simp [dispatch]
@[simp] theorem endReplay_tb (d : Device) : (endReplay d).tb = d.tb := by unfold endReplay; dsimp only; split <;> simp
@[simp] theorem lineFalls_tb (d : Device) : (lineFalls d).tb = d.tb := by
  unfold lineFalls; dsimp only; split
  · rfl
  · split <;> simp
  · simp
  · rfl
  · rfl
  · rfl
  · rfl
@[simp] theorem chooseNew_tb (d : Device) : (chooseNew d).tb = d.tb := by
  unfold chooseNew; split
  · rfl
  · split
    · rfl
    · split
      · simp
      · split
        · simp
        · split <;> simp
@[simp] theorem choose_tb (d : Device) : (choose d).tb = d.tb := by
  unfold choose; split
  · rfl
  · split <;> simp
@[simp] theorem lineFree_tb (d : Device) : (lineFree d).tb = d.tb := by unfold lineFree; split <;> simp
@[simp] theorem emptyLink_tb (d : Device) : (emptyLink d).tb = d.tb := by simp [emptyLink]
@[simp] theorem leaveUp_tb (n : LinkState) (d : Device) : (leaveUp n d).tb = d.tb := by simp [leaveUp]
@[simp] theorem relayRestart_tb (d : Device) : (relayRestart d).tb = d.tb := by simp [relayRestart]
@[simp] theorem badFrame_tb (d : Device) : (badFrame d).tb = d.tb := by
  unfold badFrame; split
  · dsimp only; split <;> simp
  · rfl
@[simp] theorem takeMsg_tb (s p m : Nat) (c : MsgContent) (d : Device) : (takeMsg s p m c d).tb = d.tb := by
  unfold takeMsg; dsimp only; split <;> simp
@[simp] theorem judgeMsg_tb (s p m : Nat) (c : MsgContent) (d : Device) : (judgeMsg s p m c d).tb = d.tb := by
  unfold judgeMsg; split
  · rfl
  · split
    · simp
    · split <;> simp
@[simp] theorem receiveMsg_tb (s p m : Nat) (b : List Byte) (d : Device) : (receiveMsg s p m b d).tb = d.tb := by
  unfold receiveMsg; split
  · split
    · simp
    · split <;> simp
  · rfl
@[simp] theorem receiveMark_tb (m : Nat) (d : Device) : (receiveMark m d).tb = d.tb := by
  unfold receiveMark; split
  · split <;> simp
  · rfl
@[simp] theorem rewindRequest_tb (d : Device) : (rewindRequest d).tb = d.tb := by unfold rewindRequest; split <;> rfl
@[simp] theorem receiveRewind_tb (m : Nat) (d : Device) : (receiveRewind m d).tb = d.tb := by
  unfold receiveRewind; dsimp only; split
  · simp
  · split <;> simp
@[simp] theorem receiveClear_tb (m : Nat) (d : Device) : (receiveClear m d).tb = d.tb := by
  unfold receiveClear; dsimp only; split
  · split <;> simp
  · simp
@[simp] theorem receiveResync_tb (f m : Nat) (d : Device) : (receiveResync f m d).tb = d.tb := by
  unfold receiveResync; split
  · split
    · simp
    · split <;> simp
  · rfl
@[simp] theorem receiveStart_tb (d : Device) : (receiveStart d).tb = d.tb := by
  unfold receiveStart; split
  · simp
  · split <;> simp
  · rfl
  · rfl
@[simp] theorem resyncExpired_tb (d : Device) : (resyncExpired d).tb = d.tb := by
  unfold resyncExpired; split
  · split <;> simp
  · rfl
@[simp] theorem relayStart_tb (d : Device) : (relayStart d).tb = d.tb := by unfold relayStart; split <;> simp
@[simp] theorem relayStop_tb (d : Device) : (relayStop d).tb = d.tb := by unfold relayStop; split <;> simp
@[simp] theorem writeSettings_tb (s : RelaySettings) (d : Device) : (writeSettings s d).tb = d.tb := by
  unfold writeSettings; dsimp only; split <;> simp
@[simp] theorem relayWarm_tb (d : Device) : (relayWarm d).tb = d.tb := by
  unfold relayWarm; dsimp only; split <;> split <;> simp

/-! ### The gate bus and the bulletin -/

@[simp] theorem moveStation_tb (a : Nat) (st : Station) (d : Device) : (moveStation a st d).tb = d.tb := by
  unfold moveStation; dsimp only; split <;> simp
@[simp] theorem settleRound_tb (d : Device) : (settleRound d).tb = d.tb := rfl
@[simp] theorem receiveReply_tb (c l : Bool) (a f : Nat) (rs : List GateRecord) (d : Device) :
    (receiveReply c l a f rs d).tb = d.tb := by
  unfold receiveReply takeReply missedReply; split
  · rfl
  · split
    · rfl
    · split <;> simp
@[simp] theorem replyTimedOut_tb (d : Device) : (replyTimedOut d).tb = d.tb := by
  unfold replyTimedOut missedReply; split
  · rfl
  · split <;> simp
@[simp] theorem beginRound_tb (d : Device) : (beginRound d).tb = d.tb := by unfold beginRound; split <;> rfl
@[simp] theorem pollNext_tb (d : Device) : (pollNext d).tb = d.tb := by
  unfold pollNext; split
  · split <;> simp
  · rfl
@[simp] theorem takeRecord_tb (a : Nat) (r : GateRecord) (d : Device) : (takeRecord a r d).tb = d.tb := by
  unfold takeRecord; dsimp only; split <;> simp
@[simp] theorem takeNextRecord_tb (d : Device) : (takeNextRecord d).tb = d.tb := by unfold takeNextRecord; split <;> simp
@[simp] theorem takeWaiting_tb (d : Device) : (takeWaiting d).tb = d.tb :=
  repeated_keeps (fun e : Device => e.tb) _ takeNextRecord_tb _ _
@[simp] theorem setStation_tb (a : Nat) (en : Bool) (site : Nat) (d : Device) : (setStation a en site d).tb = d.tb := by
  unfold setStation; dsimp only; split <;> simp
@[simp] theorem fanoutOn_tb (d : Device) : (fanoutOn d).tb = d.tb := by unfold fanoutOn; split <;> simp
@[simp] theorem bulletinFor_tb (p : Pupil) (d : Device) : (bulletinFor p d).tb = d.tb := by
  unfold bulletinFor; split
  · simp
  · split <;> simp
@[simp] theorem fanoutStep_tb (d : Device) : (fanoutStep d).tb = d.tb := by
  unfold fanoutStep; split
  · split
    · simp
    · split <;> simp
  · rfl
@[simp] theorem releaseHeld_tb (d : Device) : (releaseHeld d).tb = d.tb := by
  have h := foldl_keeps (·.tb) (fun acc (m : HeldMessage) => takeContent m.content acc) (fun _ _ => takeContent_tb _ _)
    d.rl.rolloverHold { d with rl.rolloverHold := [] }
  unfold releaseHeld; dsimp only; split <;> exact h
@[simp] theorem startOfDay_tb (d : Device) : (startOfDay d).tb = d.tb := by simp [startOfDay]

end Sys2Proof.Machine
end

