-- ==== Sys2Proof/Laws/Notices.lean ====
section
/-! SUPPORT. What the Notice Unit's moves can reach (chapter 7): the Attendance Engine, the Notice Unit and the causes, and
nothing else of the device. So the ring keeps its notices while receipts and outcomes act. -/
namespace Sys2Proof.Machine

/-- e is d but for the Attendance Engine, the Notice Unit and the Office Port. -/
def NoticeMove (d e : Device) : Prop := e = { d with ae := e.ae, nu := e.nu, op := e.op }

theorem NoticeMove.refl (d : Device) : NoticeMove d d := rfl
theorem NoticeMove.trans {a b c : Device} (h1 : NoticeMove a b) (h2 : NoticeMove b c) : NoticeMove a c := by
  unfold NoticeMove at *; rw [h2, h1]
theorem NoticeMove.rl {d e : Device} (h : NoticeMove d e) : e.rl = d.rl := by rw [h]
theorem NoticeMove.tb {d e : Device} (h : NoticeMove d e) : e.tb = d.tb := by rw [h]
theorem NoticeMove.ss {d e : Device} (h : NoticeMove d e) : e.ss = d.ss := by rw [h]
theorem NoticeMove.su {d e : Device} (h : NoticeMove d e) : e.su = d.su := by rw [h]
theorem NoticeMove.gb {d e : Device} (h : NoticeMove d e) : e.gb = d.gb := by rw [h]

theorem addCall_move (r : CallReason) (u : Bool) (x : CallContent) (d : Device) : NoticeMove d (addCall r u x d) := by
  unfold addCall; split <;> rfl
theorem toCalls_move (r : CallReason) (o : Option NoticeOutcome) (n : Notice) (d : Device) : NoticeMove d (toCalls r o n d) :=
  addCall_move _ _ _ _
theorem submit_move (n : Notice) (d : Device) : NoticeMove d (submit n d) := by
  unfold submit; split
  · rfl
  · exact toCalls_move _ _ _ _
theorem compose_move (b : NoticeBody) (p c k t s : Nat) (d : Device) : NoticeMove d (compose b p c k t s d) :=
  NoticeMove.trans (b := d.tagGiven d.freeTag) rfl (submit_move _ _)
theorem composeNoContact_move (b : NoticeBody) (p : Nat) (d : Device) : NoticeMove d (composeNoContact b p d) :=
  NoticeMove.trans (b := d.tagGiven d.freeTag) rfl (toCalls_move _ _ _ _)
theorem closeCalled_move (n : Notice) (r : CalledReason) (d : Device) : NoticeMove d (closeCalled n r d) := by
  unfold closeCalled; split <;> rfl
theorem takeReplyCode_move (n : Notice) (c : Nat) (d : Device) : NoticeMove d (takeReplyCode n c d) := by
  unfold takeReplyCode; split
  · split
    · split
      · split <;> rfl
      · rfl
    · split
      · exact addCall_move _ _ _ _
      · rfl
  · rfl
theorem unreachable_move (n : Notice) (d : Device) : NoticeMove d (unreachable n d) := by
  unfold unreachable; split
  · rfl
  · split
    · exact toCalls_move _ _ _ _
    · split
      · dsimp only; split
        · exact (compose_move _ _ _ _ _ _ _).trans rfl
        · exact compose_move _ _ _ _ _ _ _
      · exact toCalls_move _ _ _ _
theorem outcomeActs_move (o : NoticeOutcome) (n : Notice) (d : Device) : NoticeMove d (outcomeActs o n d) := by
  cases o
  · exact closeCalled_move _ _ _
  · exact (closeCalled_move _ _ _).trans (takeReplyCode_move _ _ _)
  · exact unreachable_move _ _
theorem receipt_move (n : Notice) (d : Device) : NoticeMove d (receipt n d) := by
  unfold receipt; split
  · rfl
  · rfl
  · split
    · exact outcomeActs_move _ _ _
    · split
      · rfl
      · exact closeCalled_move _ _ _
theorem leaveQueue_move (t : Nat) (d : Device) : NoticeMove d (leaveQueue t d) := rfl
/-- What a withdrawal from the queue lets go on: the one thing it does beside taking the notice out. -/
theorem leaveQueue_resumes (tag : Nat) (d : Device) : QueueFallResumes d (leaveQueue tag d) := by
  refine ⟨rfl, ?_⟩
  show (if (leaveQueue tag d).nu.queueCount < 192 then d.nu.fanout.resumed else d.nu.fanout) = _
  unfold Fanout.resumed
  split <;> split <;> simp_all
theorem fallBack_move (n : Notice) (d : Device) : NoticeMove d (fallBack n d) := (leaveQueue_move _ _).trans (toCalls_move _ _ _ _)
theorem fallBackAll_move (d : Device) : NoticeMove d (fallBackAll d) := by
  unfold fallBackAll
  generalize d.nu.urgent.filter _ = l
  induction l generalizing d with
  | nil => rfl
  | cons n l ih => exact (fallBack_move n d).trans (ih _)
theorem returnNotices_move (l : List Notice) : ∀ (u r b : Nat) (d : Device), NoticeMove d (returnNotices l u r b d) := by
  induction l with
  | nil => intros; rfl
  | cons n l ih =>
    intro u r b d; unfold returnNotices
    split <;> split
    · exact NoticeMove.trans (b := { d with nu.urgent := insertAt u n d.nu.urgent }) rfl (ih _ _ _ _)
    · exact (toCalls_move _ _ _ _).trans (ih _ _ _ _)
    · exact NoticeMove.trans (b := { d with nu.routine := insertAt r n d.nu.routine }) rfl (ih _ _ _ _)
    · exact (toCalls_move _ _ _ _).trans (ih _ _ _ _)
    · exact NoticeMove.trans (b := { d with nu.bulk := insertAt b n d.nu.bulk }) rfl (ih _ _ _ _)
    · exact ih _ _ _ _

/-- Retiring takes notices off the front of the ring and moves the read position on, whatever their receipts do (R133). -/
theorem retire_rl (k : Nat) (d : Device) (h : k ≤ d.rl.ring.length) (hr : d.rl.readPos < 128) :
    (retire k d).rl = { d.rl with ring := d.rl.ring.drop k, readPos := (d.rl.readPos + k) % 128 } := by
  induction k generalizing d with
  | zero => simp [retire, Nat.mod_eq_of_lt hr]
  | succ k ih =>
    unfold retire
    cases hl : d.rl.ring with
    | nil => rw [hl] at h; simp at h
    | cons r l =>
      have e : (retireOne d).rl = { d.rl with ring := l, readPos := (d.rl.readPos + 1) % 128 } := by
        unfold retireOne; rw [hl]; dsimp only; rw [(receipt_move _ _).rl]; rfl
      rw [hl] at h
      rw [ih (retireOne d) (by rw [e]; simpa using h) (by rw [e]; exact Nat.mod_lt _ (by omega)), e]
      simp only [List.drop_succ_cons]
      congr 1
      omega

/-- A mark taken leaves what decides whether a MARK is due (R133, R135). -/
theorem retireOne_due (d : Device) : (retireOne d).rl.markDue = d.rl.markDue ∧ (retireOne d).rl.lastMark = d.rl.lastMark := by
  unfold retireOne; split
  · exact ⟨rfl, rfl⟩
  · rw [(receipt_move _ _).rl]; exact ⟨rfl, rfl⟩
theorem retire_due (k : Nat) (d : Device) : (retire k d).rl.markDue = d.rl.markDue ∧ (retire k d).rl.lastMark = d.rl.lastMark := by
  induction k generalizing d with
  | zero => exact ⟨rfl, rfl⟩
  | succ k ih => exact ⟨(ih _).1.trans (retireOne_due d).1, (ih _).2.trans (retireOne_due d).2⟩
theorem takeMark_due (m : Nat) (d : Device) : (takeMark m d).rl.markDue = d.rl.markDue ∧ (takeMark m d).rl.lastMark = d.rl.lastMark := by
  unfold takeMark applyMark; split
  · exact ⟨rfl, rfl⟩
  · split
    · exact retire_due _ _
    · exact ⟨rfl, rfl⟩

/-! ### What the moves read -/

/-- e has d's Notice Unit and d's time: all that a move to the desk call list, a fall back or a return from the ring reads of it. -/
def SameNotices (d e : Device) : Prop := e.nu = d.nu ∧ e.tb.second = d.tb.second ∧ e.tb.date = d.tb.date

theorem addCall_same {d e : Device} (h : SameNotices d e) (r : CallReason) (u : Bool) (c : CallContent) :
    SameNotices (addCall r u c d) (addCall r u c e) := by
  obtain ⟨hn, hs, hd⟩ := h
  unfold addCall Device.callsFull
  rw [hn, hs, hd]
  split
  · exact ⟨hn, hs, hd⟩
  · exact ⟨rfl, hs, hd⟩
theorem toCalls_same {d e : Device} (h : SameNotices d e) (r : CallReason) (o : Option NoticeOutcome) (n : Notice) :
    SameNotices (toCalls r o n d) (toCalls r o n e) := addCall_same h _ _ _
theorem leaveQueue_same {d e : Device} (h : SameNotices d e) (tag : Nat) : SameNotices (leaveQueue tag d) (leaveQueue tag e) := by
  obtain ⟨hn, hs, hd⟩ := h
  refine ⟨?_, hs, hd⟩
  unfold leaveQueue queueFell
  dsimp only
  rw [hn]
theorem fallBackAll_same {d e : Device} (h : SameNotices d e) : SameNotices (fallBackAll d) (fallBackAll e) := by
  unfold fallBackAll
  rw [h.1]
  generalize d.nu.urgent.filter _ = l
  induction l generalizing d e with
  | nil => exact h
  | cons n l ih => exact ih (toCalls_same (leaveQueue_same h _) _ _ _)
theorem returnNotices_same (l : List Notice) : ∀ (u r b : Nat) {d e : Device}, SameNotices d e →
    SameNotices (returnNotices l u r b d) (returnNotices l u r b e) := by
  induction l with
  | nil => intro u r b d e h; exact h
  | cons n l ih =>
    intro u r b d e h
    unfold returnNotices
    rw [h.1]
    split <;> split
    · exact ih _ _ _ ⟨rfl, h.2⟩
    · exact ih _ _ _ (toCalls_same h _ _ _)
    · exact ih _ _ _ ⟨rfl, h.2⟩
    · exact ih _ _ _ (toCalls_same h _ _ _)
    · exact ih _ _ _ ⟨rfl, h.2⟩
    · exact ih _ _ _ h

/-- Emptying the link keeps every block but the Relay Link's own and those a notice move reaches (R138). -/
theorem emptyLink_move (d : Device) : NoticeMove { d with rl := d.rl.emptied } (emptyLink d) := returnNotices_move _ _ _ _ _

end Sys2Proof.Machine
end

