-- ==== Sys2Proof/Laws/Arrivals.lean ====
section
/-! SUPPORT. What arrivals and the records waiting can reach: an arrival makes a notice move (chapters 5 and 7), and taking records
moves the stations besides (R171, R173). -/
namespace Sys2Proof.Machine

theorem NoticeMove.after {a b c : Device} (h2 : NoticeMove b c) (h1 : NoticeMove a b) : NoticeMove a c := h1.trans h2

/-! ### The absence-notice rule and the notices of an arrival -/

theorem absenceRule_move (asArrival : Bool) (roll t : Nat) (d : Device) : NoticeMove d (absenceRule asArrival roll t d) := by
  have hc : ∀ (roll t c k s : Nat) (d : Device), NoticeMove d (composeArrived roll t c k s d) := fun _ _ _ _ _ _ => compose_move _ _ _ _ _ _ _
  unfold absenceRule; split
  · exact leaveQueue_move _ _
  · split
    · split
      · exact hc _ _ _ _ _ _
      · rfl
    · split
      · split
        · exact NoticeMove.trans (b := leaveAwaiting t d) rfl (hc _ _ _ _ _ _)
        · rfl
      · split
        · rfl
        · split
          · split
            · exact hc _ _ _ _ _ _
            · rfl
          · rfl

theorem absenceRuleFor_move (asArrival : Bool) (roll : Nat) (t : Option Nat) (d : Device) :
    NoticeMove d (absenceRuleFor asArrival roll t d) := by
  unfold absenceRuleFor; split
  · rfl
  · exact absenceRule_move _ _ _ _

theorem composeLateness_move (b : NoticeBody) (roll : Nat) (d : Device) : NoticeMove d (composeLateness b roll d) := by
  unfold composeLateness; split
  · exact compose_move _ _ _ _ _ _ _
  · rfl

theorem composeLeftSite_move (r : SignOut) (roll : Nat) (d : Device) : NoticeMove d (composeLeftSite r roll d) := by
  unfold composeLeftSite; split
  · exact compose_move _ _ _ _ _ _ _
  · exact composeNoContact_move _ _ _

theorem judgedNotices_move (e : RosterEntry) (b : Band) (m o n : Nat) (d : Device) : NoticeMove d (judgedNotices e b m o n d) := by
  have hf : NoticeMove d (if e.state.notified then absenceRuleFor true e.roll e.absenceTag d else d) := by
    split
    · exact absenceRuleFor_move _ _ _ _
    · rfl
  have hr : ∀ d : Device, NoticeMove d (askLateRecorded e b m d) := by
    intro d; unfold askLateRecorded; split
    · rfl
    · split
      · exact composeLateness_move _ _ _
      · rfl
  have hp : ∀ d : Device, NoticeMove d (askLatePattern e.roll b o n d) := by
    intro d; unfold askLatePattern; split
    · exact composeLateness_move _ _ _
    · rfl
  unfold judgedNotices; dsimp only; split
  · exact hf.trans ((hr _).trans (hp _))
  · exact hf

/-- An arrival moves the Attendance Engine, the Notice Unit and the Office Port's counts, and nothing else (R75). -/
theorem takeArrival_move (a : Arrival) (d : Device) : NoticeMove d (takeArrival a d).2 := by
  unfold takeArrival; split
  · rfl
  · split
    · rfl
    · unfold timedArrival; split
      · split
        · unfold judgedArrival; dsimp only
          exact (judgedNotices_move _ _ _ _ _ _).after rfl
        · rfl
      · split
        · unfold signOutArrival; dsimp only; split
          · rfl
          · exact (composeLeftSite_move _ _ _).after rfl
        · rfl

/-! ### Records -/

/-- e is d but for what a notice move reaches and the stations and records of the Gate Bus. -/
def RecordMove (d e : Device) : Prop :=
  e = { d with ae := e.ae, nu := e.nu, op := e.op, gb := { d.gb with stations := e.gb.stations, records := e.gb.records } }

theorem RecordMove.trans {a b c : Device} (h1 : RecordMove a b) (h2 : RecordMove b c) : RecordMove a c := by
  unfold RecordMove at *; rw [h2, h1]
theorem RecordMove.after {a b c : Device} (h2 : RecordMove b c) (h1 : RecordMove a b) : RecordMove a c := h1.trans h2
theorem NoticeMove.toRecordMove {d e : Device} (h : NoticeMove d e) : RecordMove d e := by
  unfold RecordMove; rw [h.gb]; exact h
theorem RecordMove.rl {d e : Device} (h : RecordMove d e) : e.rl = d.rl := by rw [h]
theorem RecordMove.ss {d e : Device} (h : RecordMove d e) : e.ss = d.ss := by rw [h]
theorem RecordMove.su {d e : Device} (h : RecordMove d e) : e.su = d.su := by rw [h]
theorem RecordMove.tb {d e : Device} (h : RecordMove d e) : e.tb = d.tb := by rw [h]
theorem RecordMove.mainPower {d e : Device} (h : RecordMove d e) : e.mainPower = d.mainPower := by rw [h]
theorem RecordMove.fastBaud {d e : Device} (h : RecordMove d e) : e.fastBaud = d.fastBaud := by rw [h]
theorem RecordMove.sense {d e : Device} (h : RecordMove d e) : e.sense = d.sense := by rw [h]
theorem RecordMove.inFlight {d e : Device} (h : RecordMove d e) : e.gb.inFlight = d.gb.inFlight := by rw [h]

theorem takeRecord_move (a : Nat) (r : GateRecord) (d : Device) : RecordMove d (takeRecord a r d) := by
  unfold takeRecord; dsimp only; split
  · rfl
  · exact RecordMove.trans (NoticeMove.toRecordMove (takeArrival_move _ _)) rfl

theorem takeRecord_records (a : Nat) (r : GateRecord) (d : Device) : (takeRecord a r d).gb.records = d.gb.records := by
  unfold takeRecord; dsimp only; split
  · rfl
  · show (takeArrival _ d).2.gb.records = _
    rw [(takeArrival_move _ _).gb]

theorem takeNextRecord_move (d : Device) : RecordMove d (takeNextRecord d) := by
  unfold takeNextRecord; split
  · rfl
  · exact (takeRecord_move _ _ _).after rfl

theorem takeNextRecord_records (d : Device) : (takeNextRecord d).gb.records = d.gb.records.tail := by
  unfold takeNextRecord; split
  · rename_i h; rw [h]; rfl
  · rename_i h; rw [takeRecord_records, h]; rfl

/-- Taking the records waiting reaches what taking one does. -/
theorem takeWaiting_move (d : Device) : RecordMove d (takeWaiting d) :=
  repeated_inv (RecordMove d) _ (fun e he => he.trans (takeNextRecord_move e)) _ _ rfl

theorem takeWaiting_none {d : Device} (h : d.gb.records = []) : takeWaiting d = d := by unfold takeWaiting; rw [h]; rfl

/-- The records waiting may be taken one by one. -/
theorem takeWaiting_next (d : Device) : takeWaiting (takeNextRecord d) = takeWaiting d := by
  cases h : d.gb.records with
  | nil => unfold takeNextRecord; rw [h]
  | cons r l => unfold takeWaiting; rw [takeNextRecord_records, h]; rfl

theorem takeWaiting_records (d : Device) : (takeWaiting d).gb.records = [] := by
  suffices ∀ (n : Nat) (e : Device), e.gb.records.length ≤ n → (repeated takeNextRecord n e).gb.records = [] from this _ _ le_rfl
  intro n
  induction n with
  | zero => intro e h; exact List.length_eq_zero_iff.1 (Nat.le_zero.1 h)
  | succ n ih =>
    intro e h
    refine ih _ ?_
    rw [takeNextRecord_records, List.length_tail]; omega

end Sys2Proof.Machine
end

