-- ==== Sys2Proof/Laws/Firing.lean ====
section
/-! SUPPORT. The scanner's walk and its confirm points, read without its own helpers: the slots of the plan that is today's, and the order
in which overdue points fire. -/
namespace Sys2Proof.Machine

/-- Writing back a member changed is changing it. -/
theorem setNth_modify {α : Type} (l : List α) {p : Nat} (hp : 1 ≤ p) (dflt : α) (f : α → α) :
    setNth l p (f (nth l p dflt)) = l.modify (p - 1) f := by
  unfold setNth nth
  rw [if_neg (by omega)]
  apply List.ext_getElem?
  intro i
  rw [List.getElem?_modify, List.getElem?_set]
  by_cases h : p - 1 = i
  · subst h
    simp only [if_true]
    by_cases h2 : p - 1 < l.length
    · simp [h2, List.getD_eq_getElem?_getD]
    · simp [h2]
  · simp [h]
/-- Today's slots, by the plan that today is. -/
theorem slots_eq {d : Device} {p : Nat} (ht : d.tb.today = .plan p) :
    d.slots = match d.ss.plans[p - 1]? with | none => [] | some q => q.active := by
  unfold Device.slots; rw [ht]; unfold Scanner.plan nth
  dsimp only
  rw [List.getD_eq_getElem?_getD]
  cases d.ss.plans[p - 1]? <;> rfl
/-- A slot of today's plan changed, by the plan that today is. -/
theorem onSlot_eq {d : Device} {p : Nat} (hp : 1 ≤ p) (ht : d.tb.today = .plan p) (i : Nat) (f : PlanSlot → PlanSlot) :
    d.onSlot i f = { d with ss.plans := d.ss.plans.modify (p - 1) fun q => { q with active := q.active.modify i f } } := by
  unfold Device.onSlot; rw [ht]
  dsimp only
  rw [← setNth_modify _ hp ⟨[], [], false⟩]; rfl
/-- Two folds whose steps agree wherever an invariant holds agree. -/
theorem foldl_agree {α β : Type} {P : β → Prop} {f g : β → α → β} (l : List α) (hf : ∀ b a, P b → f b a = g b a)
    (hg : ∀ b a, P b → P (f b a)) {b : β} (hb : P b) : l.foldl f b = l.foldl g b := by
  induction l generalizing b with
  | nil => rfl
  | cons a l ih => rw [List.foldl_cons, List.foldl_cons, ih (hg _ _ hb), hf _ _ hb]
/-- A list in ascending order of a key is its members of each key in turn. -/
theorem ordered_flat {α : Type} (key : α → Nat) : ∀ (N : Nat) (l : List α), l.Pairwise (fun a b => key a ≤ key b) →
    (∀ a ∈ l, key a < N) →
    l = (List.range N).flatMap fun m => l.filter fun a => key a == m := by
  intro N
  induction N with
  | zero => intro l _ h; cases l with
    | nil => rfl
    | cons a l => exact absurd (h a List.mem_cons_self) (by omega)
  | succ N ih =>
    intro l ho hb
    have split : l = l.filter (fun a => decide (key a < N)) ++ l.filter (fun a => key a == N) := by
      clear ih
      induction l with
      | nil => rfl
      | cons a l il =>
        have ⟨h1, h2⟩ := List.pairwise_cons.1 ho
        have hl := il h2 (fun b hb' => hb b (List.mem_cons_of_mem _ hb'))
        have ha := hb a List.mem_cons_self
        by_cases hk : key a < N
        · rw [List.filter_cons, if_pos (by simpa using hk), List.filter_cons, if_neg (by simp; omega), List.cons_append, ← hl]
        · have e1 : l.filter (fun a => decide (key a < N)) = [] := by
            rw [List.filter_eq_nil_iff]; intro b hb'; have := h1 b hb'; simp; omega
          rw [List.filter_cons, if_neg (by simpa using hk), e1, List.filter_cons, if_pos (by simp; omega)]
          rw [e1] at hl
          simpa using hl
    rw [List.range_succ, List.flatMap_append]
    have i := ih (l.filter (fun a => decide (key a < N))) (ho.filter _) (by intro a ha; simpa using (List.mem_filter.1 ha).2)
    conv_lhs => rw [split, i]
    congr 1
    · apply List.flatMap_congr
      intro m hm
      have : m < N := List.mem_range.1 hm
      rw [List.filter_filter]
      apply List.filter_congr
      intro a _
      by_cases hk : key a = m
      · simp [hk, this]
      · simp [hk]
    · simp
/-- A confirm point that fires is FIRED, and its sweep stands last, WAITING behind a close of its pair. -/
theorem firePoint_eq (q : Nat × Nat) (a : Device) : firePoint q.1 q.2 a = { a with
      ss.confirm := a.ss.confirm.set (3 * (q.1 - 1) + q.2) .firedToday
      ae.sweeps := a.ae.sweeps ++ [⟨.confirm, q.1, q.2, 1,
        if ∃ w ∈ a.ae.sweeps, w.kind = .close ∧ w.point = q.1 ∧ w.site = q.2 then .waiting else .running⟩] } := by
  have : (a.ae.sweep .close q.1 q.2).isSome = decide (∃ w ∈ a.ae.sweeps, w.kind = .close ∧ w.point = q.1 ∧ w.site = q.2) := by
    unfold Attendance.sweep
    rw [Bool.eq_iff_iff, List.find?_isSome]
    simp [Sweep.isFor, and_assoc]
  unfold firePoint confirmSweep Device.onAe Device.putConfirm
  dsimp only
  rw [this]; simp only [decide_eq_true_eq]; rfl
theorem confirmPoint_iff (ss : Scanner) (q : Nat × Nat) (m : Nat) :
    ss.confirmPoint q.1 q.2 = .setAt m ↔ ss.confirm[3 * (q.1 - 1) + q.2]? = some (.setAt m) := by
  unfold Scanner.confirmPoint confirmIndex
  rw [List.getD_eq_getElem?_getD]
  cases ss.confirm[3 * (q.1 - 1) + q.2]? <;> simp
/-- The points overdue, by minute and then in the pairs' order. -/
theorem behind_eq (sites : List Nat) (n : Nat) (ss : Scanner) :
    (pointsBehind sites n ss).map (·.2) = (List.range (n + 1)).flatMap fun m =>
      confirmPairs.filter fun q => decide (q.2 ∈ sites ∧ ss.confirm[3 * (q.1 - 1) + q.2]? = some (.setAt m)) := by
  have asymm : ∀ a b : Nat × Nat × Nat, decide (a.1 < b.1) = true → decide (b.1 < a.1) = false := by intro a b; simp; omega
  have trans : ∀ a b c : Nat × Nat × Nat, decide (a.1 < b.1) = true → decide (b.1 < c.1) = true → decide (a.1 < c.1) = true := by
    intro a b c; simp; omega
  have split : ∀ a b c : Nat × Nat × Nat, decide (a.1 < c.1) = true → decide (a.1 < b.1) = true ∨ decide (b.1 < c.1) = true := by
    intro a b c; simp; omega
  unfold pointsBehind
  generalize hl : (confirmPairs.filterMap fun q =>
    match ss.confirmPoint q.1 q.2 with
    | .setAt m => if sites.contains q.2 && m ≤ n then some (m, q.1, q.2) else none
    | .notSet => none
    | .firedToday => none) = l
  have ho := sortBy_inOrder asymm trans l
  have hp := sortBy_perm (fun a b : Nat × Nat × Nat => decide (a.1 < b.1)) l
  have hb : ∀ a ∈ l, a.1 < n + 1 := by
    intro a ha
    rw [← hl] at ha
    obtain ⟨q, _, hq⟩ := List.mem_filterMap.1 ha
    split at hq
    · split at hq
      · rename_i h; simp only [Bool.and_eq_true, decide_eq_true_eq] at h; cases hq; dsimp only; omega
      · cases hq
    · cases hq
    · cases hq
  rw [ordered_flat (·.1) (n + 1) _ (ho.imp fun h => by simpa using h) (fun a ha => hb a (hp.mem_iff.1 ha)), List.map_flatMap]
  apply List.flatMap_congr
  intro m hm
  have hm := List.mem_range.1 hm
  rw [sortBy_filter asymm trans split (by intro a b; simp; omega)]
  rw [← hl, List.filter_filterMap, List.map_filterMap, ← List.filterMap_eq_filter]
  apply List.filterMap_congr
  intro q _
  simp only [Option.guard]
  simp only [← confirmPoint_iff]
  split
  · rename_i m' hm'
    by_cases hs : q.2 ∈ sites
    · by_cases hmm : m' = m
      · subst hmm; simp [hs, hm']; omega
      · simp [hs, hm', hmm]
    · simp [hs]
  · rename_i h; simp [h]
  · rename_i h; simp [h]

end Sys2Proof.Machine
end

