-- ==== Sys2Proof/Laws/KeepClock.lean ====
section
/-! SUPPORT. Every operation that moves the Time Base keeps its ranges (Table 1-1), each said once. -/
namespace Sys2Proof.Machine

/-- The ranges of a device's clock. -/
abbrev Clock (d : Device) : Prop := ClockInRange d.tb

theorem Clock.of_tb {d e : Device} (h : Clock d) (he : e.tb = d.tb) : Clock e := by unfold Clock; rw [he]; exact h

/-- A rollover of a kind may start: the date a SET asks for exists. -/
def RolloverKind.fits : RolloverKind → Prop
  | .set day _ => day ≤ Config.lastDay
  | _ => True

theorem MarksInRange.noCandidate {c e : Option Int} {t : Option Nat} (h : MarksInRange c e t) : MarksInRange none e t :=
  ⟨nofun, h.lastError, h.silence⟩

theorem MarksInRange.withCandidate {c e : Option Int} {t : Option Nat} (h : MarksInRange c e t) {v : Int}
    (hv : -1920 ≤ v ∧ v ≤ 1919) : MarksInRange (some v) e t :=
  ⟨fun _ hc => Option.some.inj hc ▸ hv, h.lastError, h.silence⟩

/-- A mark taken stores its error and restarts the mark silence timer. -/
theorem MarksInRange.taken {c e : Option Int} {t : Option Nat} (h : MarksInRange c e t) {v : Int} (hv : -1920 ≤ v ∧ v ≤ 1919) :
    MarksInRange c (some v) (some 0) :=
  ⟨h.candidate, fun _ he => Option.some.inj he ▸ hv, fun _ ht => Option.some.inj ht ▸ Nat.zero_le _⟩

theorem markError_range {tb : TimeBase} (h : tb.tick < Config.ticksPerSecond) : -1920 ≤ tb.markError ∧ tb.markError ≤ 1919 := by
  have hm := Nat.mod_lt tb.second (show 0 < 60 by omega)
  have ht : Config.ticksPerSecond = 64 := rfl
  have hh : Config.halfMinuteTicks = 1920 := rfl
  have hf : Config.minuteTicks = 3840 := rfl
  unfold TimeBase.markError; dsimp only; rw [ht] at h ⊢; split <;> omega

theorem setValidity_tb (v : Validity) (d : Device) : (setValidity v d).tb = { d.tb with validity := v } := by
  unfold setValidity; split
  · rename_i h; subst h; rfl
  · simp [settling_tb]

theorem setValidity_clock (v : Validity) {d : Device} (h : Clock d) : Clock (setValidity v d) := by
  unfold Clock; rw [setValidity_tb]
  obtain ⟨a, b, c, l, cy, m, ba, co, sl, mk, ca, as, nx, st⟩ := h
  exact ⟨a, b, c, l, cy, m, ba, co, sl, mk, ca, as, nx, st⟩

theorem startRollover_clock (kind : RolloverKind) (hk : kind.fits) {d : Device} (h : Clock d) : Clock (startRollover kind d) := by
  obtain ⟨a, b, c, l, cy, m, ba, co, sl, mk, ca, as, nx, st⟩ := h
  refine ⟨a, b, c, l, cy, m, ba, co, sl, mk, ca, ?_, ?_, ?_⟩
  · intro r day w hr hkk
    simp only [startRollover, Option.some.injEq] at hr; subst hr
    simp only at hkk; rw [hkk] at hk; exact hk
  · intro r hr
    simp only [startRollover, Option.some.injEq] at hr; subst hr; exact cy
  · intro r hr
    simp only [startRollover, Option.some.injEq] at hr; subst hr; exact (by decide : 1 ≤ 1 ∧ 1 ≤ 13)

theorem missMidnight_clock {d : Device} (h : Clock d) : Clock (missMidnight d) := by
  obtain ⟨a, b, c, l, cy, m, ba, co, sl, mk, ca, as, nx, st⟩ := h
  exact ⟨a, b, c, l, cy, satAdd_le _ _ _, ba, co, sl, mk, ca, as, nx, st⟩

theorem crossMidnight_clock (kind : RolloverKind) (hk : kind.fits) {d : Device} (h : Clock d) : Clock (crossMidnight kind d) := by
  have zero : ∀ {e : Device}, Clock e → Clock { e with tb.second := 0 } := fun ⟨a, _, c, l, cy, m, ba, co, sl, mk, ca, as, nx, st⟩ =>
    ⟨a, by show 0 < 86400; omega, c, l, cy, m, ba, co, sl, mk, ca, as, nx, st⟩
  unfold crossMidnight; split
  · split
    · exact missMidnight_clock (zero h)
    · exact startRollover_clock _ hk (zero (h.of_tb (takeWaiting_tb d)))
  · exact zero h

@[simp] theorem handMinute_tb (d : Device) : (handMinute d).tb = d.tb := by unfold handMinute; split <;> simp

theorem handMinute_clock {d : Device} (h : Clock d) : Clock (handMinute d) := h.of_tb (handMinute_tb d)

theorem advanceSecond_clock {d : Device} (h : Clock d) : Clock (advanceSecond d) := by
  obtain ⟨a, b, c, l, cy, m, ba, co, sl, mk, ca, as, nx, st⟩ := h
  unfold advanceSecond; split
  · rename_i hs
    have h' : Clock { d with tb.second := d.tb.second + 1 } := ⟨a, hs, c, l, cy, m, ba, co, sl, mk, ca, as, nx, st⟩
    dsimp only; split
    · exact handMinute_clock h'
    · exact h'
  · exact handMinute_clock (crossMidnight_clock .midnight trivial ⟨a, b, c, l, cy, m, ba, co, sl, mk, ca, as, nx, st⟩)

theorem advanceTick_clock {d : Device} (h : Clock d) : Clock (advanceTick d) := by
  obtain ⟨a, b, c, l, cy, m, ba, co, sl, mk, ca, as, nx, st⟩ := h
  unfold advanceTick; split
  · rename_i ht; exact ⟨a, b, ht, l, cy, m, ba, co, sl, mk, ca, as, nx, st⟩
  · exact advanceSecond_clock ⟨a, b, by show 0 < 64; omega, l, cy, m, ba, co, sl, mk, ca, as, nx, st⟩

theorem slewedAdvance_clock {d : Device} (h : Clock d) : Clock (slewedAdvance d) := by
  obtain ⟨a, b, c, l, cy, m, ba, co, sl, mk, ca, as, nx, st⟩ := h
  have z : (0 : Nat) < Config.slewPeriod := by decide
  unfold slewedAdvance; split
  · rename_i hs; exact advanceTick_clock ⟨a, b, c, l, cy, m, ba, co, hs, mk, ca, as, nx, st⟩
  · dsimp only; split
    · exact ⟨a, b, c, l, cy, m, ⟨by show -64 ≤ d.tb.balance - 1; omega, by show d.tb.balance - 1 ≤ 64; omega⟩, co, z, mk, ca, as, nx, st⟩
    · split
      · exact advanceTick_clock (advanceTick_clock
          ⟨a, b, c, l, cy, m, ⟨by show -64 ≤ d.tb.balance + 1; omega, by show d.tb.balance + 1 ≤ 64; omega⟩, co, z, mk, ca, as, nx, st⟩)
      · exact advanceTick_clock ⟨a, b, c, l, cy, m, ba, co, z, mk, ca, as, nx, st⟩

theorem runningTick_clock {d : Device} (h : Clock d) : Clock (runningTick d) := by
  obtain ⟨a, b, c, l, cy, m, ba, co, sl, mk, ca, as, nx, st⟩ := h
  unfold runningTick; split <;> exact ⟨a, b, c, l, cy, m, ba, co, sl, mk, ca, as, nx, st⟩

theorem oscillatorTick_clock (sense : ZoneSet) {d : Device} (h : Clock d) : Clock (oscillatorTick sense d) := by
  have hs : Clock (silenceTick { d with sense := sense }) := by
    obtain ⟨a, b, c, l, cy, m, ba, co, sl, mk, ca, as, nx, st⟩ := h
    refine ⟨a, b, c, l, cy, m, ba, co, sl, ⟨mk.candidate, mk.lastError, fun t ht => ?_⟩, ca, as, nx, st⟩
    obtain ⟨u, -, rfl⟩ := Option.map_eq_some_iff.1 ht
    exact satAdd_le _ _ _
  unfold oscillatorTick; dsimp only
  refine slewedAdvance_clock ?_
  split
  · exact runningTick_clock hs
  · exact h.of_tb rfl

theorem setDiscipline_clock (st : DisciplineState) {d : Device} (h : Clock d) : Clock (setDiscipline st d) := by
  obtain ⟨a, b, c, l, cy, m, ba, co, sl, mk, ca, as, nx, st⟩ := h
  unfold setDiscipline; dsimp only
  split <;> exact ⟨a, b, c, l, cy, m, ba, ⟨by show 0 < 2; omega, by show 0 < 2; omega⟩, sl, mk, ca, as, nx, st⟩

theorem lockRule_clock (e : Int) {d : Device} (h : Clock d) : Clock (lockRule e d) := by
  have h0 := h
  obtain ⟨a, b, c, l, cy, m, ba, co, sl, mk, ca, as, nx, st⟩ := h
  have z : (0 : Nat) < 2 := by omega
  unfold lockRule; split
  · split
    · rename_i hl; exact ⟨a, b, c, l, cy, m, ba, ⟨hl, z⟩, sl, mk, ca, as, nx, st⟩
    · exact setDiscipline_clock _ h0
  · split
    · split
      · rename_i hl; exact ⟨a, b, c, l, cy, m, ba, ⟨z, hl⟩, sl, mk, ca, as, nx, st⟩
      · exact setDiscipline_clock _ h0
    · exact ⟨a, b, c, l, cy, m, ba, ⟨z, z⟩, sl, mk, ca, as, nx, st⟩

theorem stepClock_clock (e : Int) {d : Device} (h : Clock d) : Clock (stepClock e d) := by
  obtain ⟨a, b, c, l, cy, m, ba, co, sl, mk, ca, as, nx, st⟩ := h
  have zt : (0 : Nat) < Config.ticksPerSecond := by decide
  have zb : -64 ≤ (0 : Int) ∧ (0 : Int) ≤ 64 := by omega
  replace mk := mk.noCandidate
  unfold stepClock; dsimp only; split
  · rename_i hm
    have hs : 60 * d.tb.steppedMinute e < Config.daySeconds := by
      simp only [Config.dayMinutes] at hm; simp only [Config.daySeconds]; omega
    split
    · exact ⟨a, hs, zt, l, cy, m, zb, co, sl, mk, ca, as, nx, st⟩
    · refine handMinute_clock (Clock.of_tb ?_ (jumpNotice_tb _ _))
      exact ⟨a, hs, zt, l, cy, m, zb, co, sl, mk, ca, as, nx, st⟩
  · exact crossMidnight_clock .step trivial ⟨a, b, zt, l, cy, m, zb, co, sl, mk, ca, as, nx, st⟩

theorem masterMark_clock {d : Device} (h : Clock d) : Clock (masterMark d) := by
  unfold masterMark; split
  · unfold takeMasterMark; dsimp only
    have her := markError_range h.tick
    generalize d.tb.markError = e at her ⊢
    have hl : Clock (lockRule e { d with
        tb.lastError := some e, tb.markSilence := some 0, tb.markSeen := true, tb.slewPhase := 0 }) := by
      obtain ⟨a, b, c, l, cy, m, ba, co, sl, mk, ca, as, nx, st⟩ := h
      exact lockRule_clock e ⟨a, b, c, l, cy, m, ba, co, by show 0 < 16; omega, mk.taken her, ca, as, nx, st⟩
    unfold correct; split
    · rename_i he
      simp only [Config.slewLimit] at he
      obtain ⟨a, b, c, l, cy, m, ba, co, sl, mk, ca, as, nx, st⟩ := hl
      exact ⟨a, b, c, l, cy, m, ⟨by show -64 ≤ e; omega, by show e ≤ 64; omega⟩, co, sl, mk.noCandidate, ca, as, nx, st⟩
    · split
      · obtain ⟨a, b, c, l, cy, m, ba, co, sl, mk, ca, as, nx, st⟩ := hl
        exact ⟨a, b, c, l, cy, m, ba, co, sl, mk.withCandidate her, ca, as, nx, st⟩
      · split
        · exact stepClock_clock _ hl
        · obtain ⟨a, b, c, l, cy, m, ba, co, sl, mk, ca, as, nx, st⟩ := hl
          exact ⟨a, b, c, l, cy, m, ba, co, sl, mk.withCandidate her, ca, as, nx, st⟩
  · exact h

theorem markSilenceExpired_clock {d : Device} (h : Clock d) : Clock (markSilenceExpired d) := by
  unfold markSilenceExpired; split
  · exact h
  · refine setDiscipline_clock _ ?_
    obtain ⟨a, b, c, l, cy, m, ba, co, sl, mk, ca, as, nx, st⟩ := h
    exact ⟨a, b, c, l, cy, m, ba, co, sl, ⟨nofun, mk.lastError, nofun⟩, ca, as, nx, st⟩

/-! ### The requests -/

theorem takeSetTime_clock (day second tick : Nat) {d : Device} (h : Clock d) (hd : day ≤ Config.lastDay)
    (hs : second < Config.daySeconds) (ht : tick < Config.ticksPerSecond) : Clock (takeSetTime day second tick d) := by
  have hc : ∀ {e : Device}, Clock e → Clock (clockSet second tick e) := fun ⟨a, _, _, l, cy, m, _, co, sl, mk, ca, as, nx, st⟩ =>
    ⟨a, hs, ht, l, cy, m, ⟨by show -64 ≤ (0 : Int); omega, by show (0 : Int) ≤ 64; omega⟩, co, sl, mk.noCandidate, ca, as, nx, st⟩
  have hw := hc (h.of_tb (takeWaiting_tb d))
  unfold takeSetTime; split
  · exact startRollover_clock (.set day false) hd (setValidity_clock _ hw)
  · split
    · exact startRollover_clock (.set day true) hd hw
    · exact (hc h).of_tb (jumpNotice_tb _ _)

theorem changeDiscipline_clock (on : Bool) {d : Device} (h : Clock d) : Clock (changeDiscipline on d) := by
  unfold changeDiscipline; split
  · exact h
  · refine setDiscipline_clock _ ?_
    obtain ⟨a, b, c, l, cy, m, ba, co, sl, mk, ca, as, nx, st⟩ := h
    refine ⟨a, b, c, l, cy, m, ⟨by show -64 ≤ (0 : Int); omega, by show (0 : Int) ≤ 64; omega⟩, co, sl,
      ⟨nofun, mk.lastError, fun t ht => ?_⟩, ca, as, nx, st⟩
    cases on
    · exact nomatch ht
    · obtain rfl := Option.some.inj ht; exact Nat.zero_le _

theorem putException_length {x : CalException} {l : List CalException} (h : l.length ≤ 96)
    (room : (Config.maxExceptions ≤ l.length && !l.any (·.date == x.date)) = false) : (putException x l).length ≤ 96 := by
  unfold putException; rw [length_insertBefore]
  by_cases held : l.any (·.date == x.date) = true
  · obtain ⟨y, hy, hd⟩ := List.any_eq_true.1 held
    have : (l.filter (·.date != x.date)).length < l.length := by
      refine Nat.lt_of_le_of_ne (List.length_filter_le _ _) fun e => ?_
      have := List.length_filter_eq_length_iff.1 e y hy
      simp only [bne_iff_ne, ne_eq] at this; exact this (by simpa using hd)
    omega
  · have : l.length < 96 := Nat.lt_of_not_le fun full => held (by simpa [Config.maxExceptions, full] using room)
    have := List.length_filter_le (fun y : CalException => y.date != x.date) l
    omega

theorem loadException_clock {x : CalException} {d : Device} (h : Clock d) (hx : ∀ c, x.outcome = some c → c.InRange)
    (room : (Config.maxExceptions ≤ d.tb.exceptions.length && !d.tb.exceptions.any (·.date == x.date)) = false) :
    Clock { d with tb.exceptions := putException x d.tb.exceptions } := by
  obtain ⟨a, b, c, l, cy, m, ba, co, sl, mk, ca, as, nx, st⟩ := h
  refine ⟨a, b, c, l, cy, m, ba, co, sl, mk, ⟨ca.today, ⟨putException_length ca.sizes.1 room, ca.sizes.2⟩, ?_, ca.ruled, ca.usual⟩,
    as, nx, st⟩
  intro y hy
  rcases (mem_insertBefore _ _ _ _).1 hy with rfl | hy
  · exact hx
  · exact ca.excepted y (List.mem_filter.1 hy).1

/-! ### The rollover -/

theorem candidateDay_range {tb : TimeBase} (h : ClockInRange tb) (c : Nat) :
    1 ≤ tb.candidateDay c ∧ tb.candidateDay c ≤ tb.cycleLength :=
  ⟨nextOf_pos _ _, nextOf_le h.length.1 _⟩

/-- The rollover record of a device in range may be moved on. -/
theorem rollover_moved_clock {d : Device} (h : Clock d) {r r' : Rollover} (hr : d.tb.rollover = some r) (hk : r'.kind = r.kind)
    (hn : r'.nextCycle = r.nextCycle) (hs : 1 ≤ r'.step ∧ r'.step ≤ 13) : Clock { d with tb.rollover := some r' } := by
  obtain ⟨a, b, c, l, cy, m, ba, co, sl, mk, ca, as, nx, st⟩ := h
  refine ⟨a, b, c, l, cy, m, ba, co, sl, mk, ca, ?_, ?_, ?_⟩
  · intro q day w hq hqk
    simp only [Option.some.injEq] at hq; subst hq
    exact as r day w hr (by rw [← hk]; exact hqk)
  · intro q hq
    simp only [Option.some.injEq] at hq; subst hq
    rw [hn]; exact nx r hr
  · intro q hq
    simp only [Option.some.injEq] at hq; subst hq; exact hs

theorem toStep_clock {n : Nat} (hn : 1 ≤ n ∧ n ≤ 13) {r : Rollover} {d : Device} (h : Clock d) (hr : d.tb.rollover = some r) :
    Clock (toStep n r d) :=
  rollover_moved_clock h hr rfl rfl hn
theorem cursorOn_clock {r : Rollover} {d : Device} (h : Clock d) (hr : d.tb.rollover = some r) : Clock (cursorOn r d) :=
  rollover_moved_clock h hr rfl rfl (h.step r hr)
theorem walkOn_clock (size : Nat) {n : Nat} (hn : 1 ≤ n ∧ n ≤ 13) {r : Rollover} {d : Device} (h : Clock d) (hr : d.tb.rollover = some r) :
    Clock (walkOn size n r d) := by
  unfold walkOn; split
  · exact cursorOn_clock h hr
  · exact toStep_clock hn h hr
theorem rollOn_clock {n : Nat} (hn : 1 ≤ n ∧ n ≤ 13) {r : Rollover} {d : Device} (h : Clock d) (hr : d.tb.rollover = some r) : Clock (rollOn n r d) :=
  walkOn_clock _ hn h hr

theorem step4_clock {r : Rollover} {d : Device} (h : Clock d) (hr : d.tb.rollover = some r) : Clock (step4 r d) := by
  unfold step4; split
  · unfold calendarEnd; dsimp only
    have hv := setValidity_clock .invalid (setDiscipline_clock .unlocked h)
    have hr' : (setValidity .invalid (setDiscipline .unlocked d)).tb.rollover = some r := by
      rw [setValidity_tb]; unfold setDiscipline; dsimp only; split <;> exact hr
    obtain ⟨a, b, c, l, cy, m, ba, co, sl, mk, ca, as, nx, st⟩ := hv
    refine ⟨by show (36524 : Nat) ≤ 36524; omega, b, c, l, cy, ?_, ba, co, sl, mk.noCandidate,
      ⟨trivial, ca.sizes, ca.excepted, ca.ruled, ca.usual⟩, ?_, ?_, ?_⟩
    · show (if r.kind = .resume then 0 else d.tb.missed) ≤ Config.lastDay
      split
      · exact Nat.zero_le _
      · exact h.missed
    · intro q day w hq hqk
      simp only [toStep, Option.some.injEq] at hq; subst hq
      exact as r day w hr' hqk
    · intro q hq
      simp only [toStep, Option.some.injEq] at hq; subst hq
      exact nx r hr'
    · intro q hq
      simp only [toStep, Option.some.injEq] at hq; subst hq; exact (by decide : 1 ≤ 13 ∧ 13 ≤ 13)
  · rename_i hd
    obtain ⟨a, b, c, l, cy, m, ba, co, sl, mk, ca, as, nx, st⟩ := h
    refine ⟨Nat.not_lt.1 hd, b, c, l, cy, m, ba, co, sl, mk, ca, ?_, ?_, ?_⟩
    · intro q day w hq hqk
      simp only [toStep, Option.some.injEq] at hq; subst hq
      exact as r day w hr hqk
    · intro q hq
      simp only [toStep, Option.some.injEq] at hq; subst hq
      exact nx r hr
    · intro q hq
      simp only [toStep, Option.some.injEq] at hq; subst hq; exact (by decide : 1 ≤ 5 ∧ 5 ≤ 13)

/-- The plan chosen for a date is CLOSED or a plan. -/
theorem planFor_range {tb : TimeBase} (h : ClockInRange tb) (date cycle : Nat) : (tb.planFor date cycle).InRange := by
  unfold TimeBase.planFor; split
  · rename_i c hc
    obtain ⟨x, hx, hc⟩ := Option.bind_eq_some_iff.1 hc
    exact h.calendar.excepted x (List.mem_of_find?_eq_some hx) c hc
  · split
    · rename_i r hr; exact h.calendar.ruled r (List.mem_of_find?_eq_some hr)
    · rw [List.getD_eq_getElem?_getD]
      cases hc : tb.weekdays[weekday date]? with
      | none => exact trivial
      | some c => exact h.calendar.usual c (List.mem_of_getElem? hc)

theorem takeDate_clock (date : Nat) {r : Rollover} {d : Device} (h : Clock d) (hr : d.tb.rollover = some r) :
    Clock (takeDate date r d) := by
  have hso : 1 ≤ (if r.datePlace = 0 then d.tb.cycleDay else r.nextCycle) ∧
      (if r.datePlace = 0 then d.tb.cycleDay else r.nextCycle) ≤ d.tb.cycleLength := by
    split
    · exact h.cycle
    · exact h.next r hr
  have hnx : ∀ c p, 1 ≤ c ∧ c ≤ d.tb.cycleLength → 1 ≤ (if r.kind.holdsCycle then c else d.tb.cycleAfter p c) ∧
      (if r.kind.holdsCycle then c else d.tb.cycleAfter p c) ≤ d.tb.cycleLength := by
    intro c p hc
    split
    · exact hc
    · unfold TimeBase.cycleAfter; split
      · exact hc
      · exact candidateDay_range h c
  have hp := planFor_range h
  obtain ⟨a, b, c, l, cy, m, ba, co, sl, mk, ca, as, nx, st⟩ := h
  refine ⟨a, b, c, l, cy, m, ba, co, sl, mk, ⟨?_, ca.sizes, ca.excepted, ca.ruled, ca.usual⟩, ?_, ?_, ?_⟩
  · dsimp only [takeDate]; split
    · exact hp _ _
    · exact ca.today
  · intro q day w hq hqk
    simp only [takeDate, Option.some.injEq] at hq; subst hq
    exact as r day w hr hqk
  · intro q hq
    simp only [takeDate, Option.some.injEq] at hq; subst hq
    exact hnx _ _ hso
  · intro q hq
    simp only [takeDate, Option.some.injEq] at hq; subst hq
    exact st r hr

theorem step5_clock {r : Rollover} {d : Device} (h : Clock d) (hr : d.tb.rollover = some r) : Clock (step5 r d) := by
  unfold step5 removeException; split
  · split
    · obtain ⟨a, b, c, l, cy, m, ba, co, sl, mk, ca, as, nx, st⟩ := h
      have hl : (d.tb.exceptions.eraseP (·.date < d.tb.date)).length ≤ d.tb.exceptions.length := List.length_eraseP_le
      have hs := ca.sizes
      exact ⟨a, b, c, l, cy, m, ba, co, sl, mk, ⟨ca.today, ⟨Nat.le_trans hl hs.1, hs.2⟩,
        fun x hx => ca.excepted x (List.mem_of_mem_eraseP hx), ca.ruled, ca.usual⟩, as, nx, st⟩
    · exact toStep_clock (by decide) h hr
  · split
    · exact takeDate_clock _ h hr
    · exact cursorOn_clock (h.of_tb rfl) hr

theorem step13_clock (r : Rollover) {d : Device} (h : Clock d) : Clock (step13 r d) := by
  have hdone : Clock (({ d with tb.missed := d.tb.missed - r.taken, tb.rollover := none } : Device).raise .day) := by
    obtain ⟨a, b, c, l, cy, m, ba, co, sl, mk, ca, as, nx, st⟩ := h
    exact ⟨a, b, c, l, cy, by show d.tb.missed - r.taken ≤ _; omega, ba, co, sl, mk, ca,
      fun q _ _ hq => by simp at hq, fun q hq => by simp at hq, fun q hq => by simp at hq⟩
  unfold step13; dsimp only; split
  · exact startRollover_clock .resume trivial hdone
  · exact hdone.of_tb (startOfDay_tb _)

theorem rolloverStep_clock {d : Device} (h : Clock d) : Clock (rolloverStep d) := by
  unfold rolloverStep; split
  · exact h
  · rename_i r hr
    split
    · exact toStep_clock (by decide) (h.of_tb rfl) hr
    · unfold step2; split
      · exact rollOn_clock (by decide) (h.of_tb rfl) hr
      · exact toStep_clock (by decide) h hr
    · exact toStep_clock (by decide) (h.of_tb rfl) hr
    · exact step4_clock h hr
    · exact step5_clock h hr
    · refine toStep_clock (by decide) (d := { d with tb.cycleDay := r.nextCycle }) ?_ hr
      obtain ⟨a, b, c, l, cy, m, ba, co, sl, mk, ca, as, nx, st⟩ := h
      exact ⟨a, b, c, l, nx r hr, m, ba, co, sl, mk, ca, as, nx, st⟩
    · exact walkOn_clock _ (by decide) (h.of_tb rfl) hr
    · exact toStep_clock (by decide) (h.of_tb rfl) hr
    · unfold step9; split
      · exact toStep_clock (by decide) h hr
      · split
        · exact h.of_tb rfl
        · exact cursorOn_clock (h.of_tb rfl) hr
    · unfold step10; split
      · split
        · exact h.of_tb rfl
        · exact cursorOn_clock h hr
      · split
        · exact toStep_clock (by decide) h hr
        · exact toStep_clock (by decide) (h.of_tb rfl) hr
    · unfold step11; split
      · exact toStep_clock (by decide) h hr
      · exact toStep_clock (by decide) (h.of_tb rfl) hr
    · have key : ∀ (e : Device), e.tb = d.tb → Clock (rollOn 13 r e) :=
        fun e he => rollOn_clock (by decide) (h.of_tb he) (by rw [he]; exact hr)
      unfold step12; dsimp only
      refine key _ ?_
      split <;> split <;> rfl
    · exact step13_clock r h

/-! ### Reset -/

theorem warm_clock {tb : TimeBase} (h : ClockInRange tb) : ClockInRange tb.warm := by
  obtain ⟨a, b, c, l, cy, m, ba, co, sl, mk, ca, as, nx, st⟩ := h
  exact ⟨a, b, c, l, cy, m, ⟨by show -64 ≤ (0 : Int); omega, by show (0 : Int) ≤ 64; omega⟩,
    ⟨by show 0 < 2; omega, by show 0 < 2; omega⟩, sl, ⟨nofun, nofun, fun t ht => by
      obtain ⟨-, e⟩ : tb.disciplined = true ∧ 0 = t := by simpa [TimeBase.warm] using ht
      omega⟩, ca, as, nx, st⟩

theorem blocksWarm_tb (d : Device) : (blocksWarm d).tb = d.tb.warm := by
  unfold blocksWarm valuesWarm; dsimp only
  rw [sampleInputs_tb]
  exact (relayWarm_tb _).trans (congrArg TimeBase.warm (takeWaiting_tb d))

theorem blocksWarm_clock {d : Device} (h : Clock d) : Clock (blocksWarm d) := by
  unfold Clock; rw [blocksWarm_tb]; exact warm_clock h

@[simp] theorem scannerWarm_tb (d : Device) : (scannerWarm d).tb = d.tb := by unfold scannerWarm; split <;> simp

theorem powerUp_clock (strap : Bool) {d : Device} (h : Clock d) : Clock (powerUp strap d) := by
  have hb : Clock (blocksWarm { d with mainPower := true, fastBaud := strap }) := blocksWarm_clock (h.of_tb rfl)
  unfold powerUp resumeMissed; split
  · exact startRollover_clock .resume trivial hb
  · exact hb.of_tb (scannerWarm_tb _)

theorem reset_clock : ClockInRange TimeBase.reset where
  date := by decide
  second := by decide
  tick := by decide
  length := by decide
  cycle := by decide
  missed := by decide
  balance := by decide
  counts := by decide
  slew := by decide
  marks := ⟨nofun, nofun, nofun⟩
  calendar := ⟨trivial, by decide, nofun, fun r h => by rw [List.eq_of_mem_replicate h]; exact trivial,
    fun c h => by rw [List.eq_of_mem_replicate h]; exact trivial⟩
  asked := fun _ _ _ h => by simp [TimeBase.reset] at h
  next := fun _ h => by simp [TimeBase.reset] at h
  step := fun _ h => by simp [TimeBase.reset] at h

theorem retentionLost_clock (strap : Bool) (d : Device) : Clock (retentionLost strap d) := by
  unfold Clock retentionLost; rw [sampleInputs_tb]; exact reset_clock

theorem replyGone_clock {d : Device} (h : Clock d) : Clock (replyGone d) := by
  unfold replyGone; split
  · exact h
  · dsimp only; split
    · refine Clock.of_tb (d := blocksWarm { d with op.inHand := none }) ?_ (scannerWarm_tb _)
      exact blocksWarm_clock (h.of_tb rfl)
    · exact h.of_tb rfl

end Sys2Proof.Machine
end

