-- ==== Sys2Proof/Laws/KeepLimits.lean ====
section
/-! SUPPORT. Every operation keeps the limits of the tables and of the places notices stand in, each said once. -/
namespace Sys2Proof.Machine

/-- The limits of Safety.lean over the device. -/
structure Limits (d : Device) : Prop where
  queue : QueueInLimits d.nu
  grouped : QueueGrouped d.nu
  ring : RingInLimits d.rl
  journal : d.ae.journal.length ≤ 1024
  awaiting : d.nu.awaiting.length ≤ 192
  calls : d.nu.calls.length ≤ 128

theorem limits_iff (s : State) : NoticesInLimits s ∧ TablesInSize s ↔ Limits s.dev :=
  ⟨fun ⟨⟨a, b, c⟩, d, e, f⟩ => ⟨a, b, c, d, e, f⟩, fun h => ⟨⟨h.queue, h.grouped, h.ring⟩, h.journal, h.awaiting, h.calls⟩⟩

/-- The limits look at nothing but the journal, the notices' places and the ring. -/
theorem Limits.of_eq {d e : Device} (h : Limits d) (hj : e.ae.journal = d.ae.journal) (hu : e.nu.urgent = d.nu.urgent)
    (hr : e.nu.routine = d.nu.routine) (hb : e.nu.bulk = d.nu.bulk) (ha : e.nu.awaiting = d.nu.awaiting)
    (hc : e.nu.calls = d.nu.calls) (hg : e.rl.ring = d.rl.ring) : Limits e := by
  obtain ⟨q, g, r, j, a, c⟩ := h
  unfold QueueInLimits NoticeUnit.queueCount at q
  unfold QueueGrouped at g
  unfold RingInLimits at r
  constructor
  · unfold QueueInLimits NoticeUnit.queueCount; rw [hu, hr, hb]; exact q
  · unfold QueueGrouped; rw [hu, hr, hb]; exact g
  · unfold RingInLimits; rw [hg]; exact r
  · rw [hj]; exact j
  · rw [ha]; exact a
  · rw [hc]; exact c

theorem raise_limits (c : Cause) {d : Device} (h : Limits d) : Limits (d.raise c) := h.of_eq rfl rfl rfl rfl rfl rfl rfl

/-! ### Sounders -/

theorem putZone_limits (z : Nat) (v : ZoneSupervision) {d : Device} (h : Limits d) : Limits (d.putZone z v) := by
  unfold Device.putZone; dsimp only; split <;> exact h.of_eq rfl rfl rfl rfl rfl rfl rfl
theorem checkZone_limits (z : Nat) {d : Device} (h : Limits d) : Limits (d.checkZone z) := putZone_limits _ _ h
theorem settleZone_limits (was : Bool) (z : Nat) {d : Device} (h : Limits d) : Limits (d.settleZone was z) := by
  unfold Device.settleZone; split
  · exact h
  · split
    · exact h.of_eq rfl rfl rfl rfl rfl rfl rfl
    · exact checkZone_limits _ (h.of_eq rfl rfl rfl rfl rfl rfl rfl)
theorem settling_limits (change : Device → Device) {d : Device} (h : Limits (change d)) : Limits (settling change d) :=
  foldl_inv Limits _ (fun _ _ hd => settleZone_limits _ _ hd) _ _ h
theorem startPattern_limits (g i : Nat) {d : Device} (h : Limits d) : Limits (startPattern g i d) :=
  settling_limits _ (h.of_eq rfl rfl rfl rfl rfl rfl rfl)
theorem exchangeBanks_limits {d : Device} (h : Limits d) : Limits (exchangeBanks d) :=
  settling_limits _ (h.of_eq rfl rfl rfl rfl rfl rfl rfl)
theorem setValidity_limits (v : Validity) {d : Device} (h : Limits d) : Limits (setValidity v d) := by
  unfold setValidity; split
  · exact h
  · exact settling_limits _ (raise_limits _ (h.of_eq rfl rfl rfl rfl rfl rfl rfl))
theorem changeAlert_limits (f : Sounder → Sounder) {d : Device} (h : Limits d) : Limits (changeAlert f d) := by
  have hs : Limits (settling (fun d => { d with su := f d.su }) d) := settling_limits _ (h.of_eq rfl rfl rfl rfl rfl rfl rfl)
  unfold changeAlert; dsimp only; split
  · exact hs
  · exact raise_limits _ hs
theorem alertInputIs_limits (active : Bool) {d : Device} (h : Limits d) : Limits (alertInputIs active d) := by
  unfold alertInputIs; split
  · exact h
  · dsimp only; split
    · exact changeAlert_limits _ (h.of_eq rfl rfl rfl rfl rfl rfl rfl)
    · exact h.of_eq rfl rfl rfl rfl rfl rfl rfl
theorem paKeyIs_limits (held : Bool) {d : Device} (h : Limits d) : Limits (paKeyIs held d) :=
  settling_limits _ (h.of_eq rfl rfl rfl rfl rfl rfl rfl)
theorem setZone_limits (zs : ZoneSet) (z : Nat) {d : Device} (h : Limits d) : Limits (setZone zs z d) := by
  unfold setZone freeZone; split
  · exact h
  · split
    · exact h.of_eq rfl rfl rfl rfl rfl rfl rfl
    · exact putZone_limits _ _ h
theorem setSupervision_limits (zs : ZoneSet) {d : Device} (h : Limits d) : Limits (setSupervision zs d) :=
  foldl_inv Limits _ (fun _ _ hd => setZone_limits _ _ hd) _ _ h
theorem idleCheck_limits (z : Nat) {d : Device} (h : Limits d) : Limits (idleCheck z d) := by
  unfold idleCheck; dsimp only; split
  · exact checkZone_limits _ (h.of_eq rfl rfl rfl rfl rfl rfl rfl)
  · exact h
theorem sampleInputs_limits (a k : Bool) {d : Device} (h : Limits d) : Limits (sampleInputs a k d) := by
  have ha : Limits (if a = true then changeAlert (Sounder.raised d.su.alertInputZones) d else d) := by
    split
    · exact changeAlert_limits _ h
    · exact h
  unfold sampleInputs; dsimp only; split
  · exact paKeyIs_limits _ ha
  · exact ha

/-! ### The queue -/

theorem enqueue_limits (n : Notice) {d : Device} (h : Limits d) (room : roomFor n.cls d.nu.queueCount = true) :
    Limits { d with nu := d.nu.enqueue n } := by
  obtain ⟨⟨q1, q2, q3⟩, ⟨g1, g2, g3⟩, r, j, a, c⟩ := h
  unfold NoticeUnit.queueCount at q1 room
  cases hc : n.cls <;> simp only [hc, roomFor, decide_eq_true_eq] at room <;>
    simp only [Config.queueUrgent, Config.queueRoutine, Config.queueBulk] at room <;>
    refine ⟨?_, ?_, r, j, ?_, ?_⟩ <;> simp only [NoticeUnit.enqueue, hc]
  all_goals try exact a
  all_goals try exact c
  all_goals first
    | (refine ⟨?_, ?_, ?_⟩ <;> simp only [NoticeUnit.queueCount, List.length_append, List.length_singleton] <;> omega)
    | (refine ⟨?_, ?_, ?_⟩ <;> intro m hm <;> simp only [List.mem_append, List.mem_singleton] at hm <;>
        first
          | exact g1 m hm
          | exact g2 m hm
          | exact g3 m hm
          | (rcases hm with hm | rfl
             · first | exact g1 m hm | exact g2 m hm | exact g3 m hm
             · exact hc))

theorem leaveQueue_limits (tag : Nat) {d : Device} (h : Limits d) : Limits (leaveQueue tag d) := by
  obtain ⟨⟨q1, q2, q3⟩, ⟨g1, g2, g3⟩, r, j, a, c⟩ := h
  have hu := List.length_filter_le (fun n : Notice => n.tag != tag) d.nu.urgent
  have hr := List.length_filter_le (fun n : Notice => n.tag != tag) d.nu.routine
  have hb := List.length_filter_le (fun n : Notice => n.tag != tag) d.nu.bulk
  unfold NoticeUnit.queueCount at q1
  refine ⟨⟨?_, ?_, ?_⟩, ⟨?_, ?_, ?_⟩, r, j, a, c⟩
  · simp only [leaveQueue, queueFell, NoticeUnit.dequeue, NoticeUnit.queueCount]; omega
  · simp only [leaveQueue, queueFell, NoticeUnit.dequeue]; omega
  · simp only [leaveQueue, queueFell, NoticeUnit.dequeue]; omega
  · intro n hn; exact g1 n (List.mem_of_mem_filter hn)
  · intro n hn; exact g2 n (List.mem_of_mem_filter hn)
  · intro n hn; exact g3 n (List.mem_of_mem_filter hn)

theorem filter_split_length {α : Type} (p : α → Bool) (l : List α) :
    (l.filter p).length + (l.filter fun a => !p a).length = l.length := by
  induction l with
  | nil => rfl
  | cons a l ih => cases h : p a <;> simp [h] <;> omega

theorem addCall_limits (r : CallReason) (u : Bool) (c : CallContent) {d : Device} (h : Limits d) : Limits (addCall r u c d) := by
  unfold addCall; split
  · exact h.of_eq rfl rfl rfl rfl rfl rfl rfl
  · rename_i hf
    obtain ⟨q, g, r', j, a, cl⟩ := h
    simp only [Device.callsFull, decide_eq_true_eq] at hf
    simp only [Config.maxCalls] at hf
    refine ⟨q, g, r', j, a, ?_⟩
    cases u
    · simp; omega
    · have := filter_split_length (·.urgent) d.nu.calls
      simp; omega
theorem toCalls_limits (r : CallReason) (o : Option NoticeOutcome) (n : Notice) {d : Device} (h : Limits d) :
    Limits (toCalls r o n d) := addCall_limits _ _ _ h
theorem submit_limits (n : Notice) {d : Device} (h : Limits d) : Limits (submit n d) := by
  unfold submit; split
  · rename_i room; exact enqueue_limits n h room
  · exact toCalls_limits _ _ _ h
theorem compose_limits (b : NoticeBody) (p c k s y : Nat) {d : Device} (h : Limits d) : Limits (compose b p c k s y d) :=
  submit_limits _ (h.of_eq rfl rfl rfl rfl rfl rfl rfl)
theorem composeNoContact_limits (b : NoticeBody) (p : Nat) {d : Device} (h : Limits d) : Limits (composeNoContact b p d) :=
  toCalls_limits _ _ _ (h.of_eq rfl rfl rfl rfl rfl rfl rfl)
theorem composeLeftSite_limits (r : SignOut) (roll : Nat) {d : Device} (h : Limits d) : Limits (composeLeftSite r roll d) := by
  unfold composeLeftSite; split
  · exact compose_limits _ _ _ _ _ _ h
  · exact composeNoContact_limits _ _ h
theorem composeLateness_limits (b : NoticeBody) (roll : Nat) {d : Device} (h : Limits d) : Limits (composeLateness b roll d) := by
  unfold composeLateness; split
  · exact compose_limits _ _ _ _ _ _ h
  · exact h
theorem closeCalled_limits (n : Notice) (r : CalledReason) {d : Device} (h : Limits d) : Limits (closeCalled n r d) := by
  unfold closeCalled; split
  · exact h.of_eq rfl rfl rfl rfl rfl rfl rfl
  · exact h
theorem onEntry_limits (roll : Nat) (f : RosterEntry → RosterEntry) {d : Device} (h : Limits d) :
    Limits (d.onAe (·.onEntry roll f)) := h.of_eq rfl rfl rfl rfl rfl rfl rfl
theorem takeReplyCode_limits (n : Notice) (code : Nat) {d : Device} (h : Limits d) : Limits (takeReplyCode n code d) := by
  unfold takeReplyCode; split
  · split
    · split
      · split
        · exact onEntry_limits _ _ h
        · exact h
      · exact h
    · split
      · exact addCall_limits _ _ _ h
      · exact h
  · exact h
theorem retag_limits (roll old new : Nat) {d : Device} (h : Limits d) : Limits (retag roll old new d) := onEntry_limits _ _ h
theorem unreachable_limits (n : Notice) {d : Device} (h : Limits d) : Limits (unreachable n d) := by
  unfold unreachable; split
  · exact h
  · split
    · exact toCalls_limits _ _ _ h
    · split
      · dsimp only; split
        · exact retag_limits _ _ _ (compose_limits _ _ _ _ _ _ h)
        · exact compose_limits _ _ _ _ _ _ h
      · exact toCalls_limits _ _ _ h
theorem outcomeActs_limits (o : NoticeOutcome) (n : Notice) {d : Device} (h : Limits d) : Limits (outcomeActs o n d) := by
  cases o
  · exact closeCalled_limits _ _ h
  · exact takeReplyCode_limits _ _ (closeCalled_limits _ _ h)
  · exact unreachable_limits _ h
theorem leaveAwaiting_limits (tag : Nat) {d : Device} (h : Limits d) : Limits (leaveAwaiting tag d) := by
  obtain ⟨q, g, r, j, a, c⟩ := h
  exact ⟨q, g, r, j, Nat.le_trans (List.length_filter_le _ _) a, c⟩
theorem receipt_limits (n : Notice) {d : Device} (h : Limits d) : Limits (receipt n d) := by
  unfold receipt; split
  · exact h
  · exact h
  · split
    · exact outcomeActs_limits _ _ h
    · split
      · rename_i hl
        obtain ⟨q, g, r, j, a, c⟩ := h
        refine ⟨q, g, r, j, ?_, c⟩
        simp only [Config.maxAwaiting] at hl
        simp; omega
      · exact closeCalled_limits _ _ h
theorem touchCall_limits (tag : Nat) (f : CallEntry → CallEntry) {d : Device} (h : Limits d) : Limits (touchCall tag f d) := by
  obtain ⟨q, g, r, j, a, c⟩ := h
  exact ⟨q, g, r, j, a, by simpa [touchCall, Device.raise] using c⟩

/-- A ring whose notices keep their classes keeps its limits. -/
theorem ring_map_limits (f : RingEntry → RingEntry) (hf : ∀ r, (f r).notice.cls = r.notice.cls) {d : Device} (h : Limits d) :
    Limits { d with rl.ring := d.rl.ring.map f } := by
  obtain ⟨q, g, ⟨r1, r2, r3⟩, j, a, c⟩ := h
  refine ⟨q, g, ⟨by simpa using r1, ?_, ?_⟩, j, a, c⟩
  · simp only [ringNotUrgent, List.filter_map, List.length_map] at r2 ⊢
    have : ((fun r : RingEntry => r.notice.cls != NoticeClass.urgent) ∘ f) = fun r => r.notice.cls != NoticeClass.urgent :=
      funext fun r => by simp [hf]
    rw [this]; exact r2
  · simp only [ringBulkCount, List.filter_map, List.length_map] at r3 ⊢
    have : ((fun r : RingEntry => r.notice.cls == NoticeClass.bulk) ∘ f) = fun r => r.notice.cls == NoticeClass.bulk :=
      funext fun r => by simp [hf]
    rw [this]; exact r3

theorem takeOutcome_limits (t v c : Nat) {d : Device} (h : Limits d) : Limits (takeOutcome t v c d) := by
  unfold takeOutcome; split
  · exact h
  · split
    · exact outcomeActs_limits _ _ (leaveAwaiting_limits _ h)
    · split
      · exact ring_map_limits _ (fun r => by split <;> rfl) h
      · split
        · exact touchCall_limits _ _ h
        · exact h
theorem outcomeTimedOut_limits (t : Nat) {d : Device} (h : Limits d) : Limits (outcomeTimedOut t d) := by
  unfold outcomeTimedOut; split
  · exact h
  · dsimp only; split
    · exact leaveAwaiting_limits _ h
    · exact toCalls_limits _ _ _ (leaveAwaiting_limits _ h)
theorem fallBack_limits (n : Notice) {d : Device} (h : Limits d) : Limits (fallBack n d) :=
  toCalls_limits _ _ _ (leaveQueue_limits _ h)
theorem fallBackAll_limits {d : Device} (h : Limits d) : Limits (fallBackAll d) :=
  foldl_inv Limits _ (fun _ _ hd => fallBack_limits _ hd) _ _ h
theorem fallbackDue_limits (t : Nat) {d : Device} (h : Limits d) : Limits (fallbackDue t d) := by
  unfold fallbackDue; split
  · exact h
  · split
    · exact h
    · exact fallBack_limits _ h

theorem length_insertAt {α : Type} (k : Nat) (a : α) (l : List α) : (insertAt k a l).length = l.length + 1 := by
  simp [insertAt]; omega
theorem mem_insertAt {α : Type} (k : Nat) (a x : α) (l : List α) : x ∈ insertAt k a l ↔ x = a ∨ x ∈ l := by
  unfold insertAt
  conv_rhs => rw [← List.take_append_drop k l]
  simp only [List.mem_append, List.mem_cons]; tauto

theorem returnNotices_limits (l : List Notice) (u r b : Nat) {d : Device} (h : Limits d) : Limits (returnNotices l u r b d) := by
  induction l generalizing u r b d with
  | nil => exact h
  | cons n l ih =>
    unfold returnNotices
    split
    all_goals
      rename_i hc
      split
      · rename_i room
        refine ih _ _ _ ?_
        obtain ⟨⟨q1, q2, q3⟩, ⟨g1, g2, g3⟩, rr, j, a, c⟩ := h
        simp only [roomFor, decide_eq_true_eq] at room
        simp only [NoticeUnit.queueCount, Config.queueUrgent, Config.queueRoutine, Config.queueBulk] at room
        unfold NoticeUnit.queueCount at q1
        refine ⟨⟨?_, ?_, ?_⟩, ⟨?_, ?_, ?_⟩, rr, j, a, c⟩
        · simp only [NoticeUnit.queueCount, length_insertAt]; omega
        · simp only [length_insertAt]; omega
        · simp only [length_insertAt]; omega
        all_goals
          intro m hm
          first
            | exact g1 m hm
            | exact g2 m hm
            | exact g3 m hm
            | (rcases (mem_insertAt _ _ _ _).1 hm with rfl | hm
               · exact hc
               · first | exact g1 m hm | exact g2 m hm | exact g3 m hm)
      · first
          | exact ih _ _ _ (toCalls_limits _ _ _ h)
          | exact ih _ _ _ h

theorem absenceRule_limits (a : Bool) (roll t : Nat) {d : Device} (h : Limits d) : Limits (absenceRule a roll t d) := by
  unfold absenceRule composeArrived; split
  · exact leaveQueue_limits _ h
  · split
    · split
      · exact compose_limits _ _ _ _ _ _ h
      · exact h
    · split
      · split
        · exact compose_limits _ _ _ _ _ _ (leaveAwaiting_limits _ h)
        · exact leaveAwaiting_limits _ h
      · split
        · exact touchCall_limits _ _ h
        · split
          · split
            · exact compose_limits _ _ _ _ _ _ h
            · exact h
          · exact h
theorem absenceRuleFor_limits (a : Bool) (roll : Nat) (t : Option Nat) {d : Device} (h : Limits d) :
    Limits (absenceRuleFor a roll t d) := by
  unfold absenceRuleFor; split
  · exact h
  · exact absenceRule_limits _ _ _ h

/-! ### Excuses and the roster -/

/-- A change of the Attendance Engine that keeps the journal. -/
theorem onAe_limits {f : Attendance → Attendance} {d : Device} (h : Limits d) (hf : (f d.ae).journal = d.ae.journal) :
    Limits (d.onAe f) := h.of_eq hf rfl rfl rfl rfl rfl rfl

theorem recordExcuse_limits (x : Excuse) {d : Device} (h : Limits d) : Limits (recordExcuse x d) :=
  h.of_eq rfl rfl rfl rfl rfl rfl rfl
theorem applyExcuse_limits (x : Excuse) {d : Device} (h : Limits d) : Limits (applyExcuse x d).2 := by
  unfold applyExcuse; split
  · exact h
  · split
    · exact h
    · dsimp only; split
      · exact absenceRuleFor_limits _ _ _ (onAe_limits h rfl)
      · exact onAe_limits h rfl
theorem recordAndApply_limits (x : Excuse) {d : Device} (h : Limits d) : Limits (recordAndApply x d).2 :=
  applyExcuse_limits _ (recordExcuse_limits _ h)
theorem recordAll_limits (l : List Excuse) {d : Device} (h : Limits d) : Limits (recordAll l d).2 := by
  induction l generalizing d with
  | nil => exact h
  | cons x l ih => exact ih (recordAndApply_limits x h)
theorem applyAbsences_journal (date : Nat) (ae : Attendance) : (applyAbsences date ae).journal = ae.journal := by
  unfold applyAbsences
  generalize List.filter _ _ = l
  induction l generalizing ae with
  | nil => rfl
  | cons x l ih =>
    simp only [List.foldl_cons]
    rw [ih]
    split
    · rfl
    · split <;> rfl
theorem changeDayKind_limits (c : Bool) {d : Device} (h : Limits d) : Limits (changeDayKind c d) := by
  unfold changeDayKind; split
  · exact onAe_limits h rfl
  · exact onAe_limits h (applyAbsences_journal _ _)
theorem sweepOn_journal (kind : SweepKind) (k s : Nat) (ae : Attendance) : (ae.sweepOn kind k s).journal = ae.journal := by
  unfold Attendance.sweepOn; split
  · rfl
  · split <;> rfl
theorem closeStep_limits (k s : Nat) {d : Device} (h : Limits d) : Limits (closeStep k s d) := by
  unfold closeStep; split
  · exact h
  · exact onAe_limits h (sweepOn_journal _ _ _ _)
theorem confirmEntry_limits (k s : Nat) (e : RosterEntry) {d : Device} (h : Limits d) : Limits (confirmEntry k s e d) := by
  have on : ∀ {d : Device}, Limits d → Limits (d.onAe (·.sweepOn .confirm k s)) := fun h => onAe_limits h (sweepOn_journal _ _ _ _)
  unfold confirmEntry; dsimp only; split
  · exact on (onAe_limits h rfl)
  · split
    · split
      · exact on (onEntry_limits _ _ (compose_limits _ _ _ _ _ _ h))
      · exact onAe_limits h rfl
    · exact on (onEntry_limits _ _ (composeNoContact_limits _ _ h))
theorem confirmStep_limits (k s : Nat) {d : Device} (h : Limits d) : Limits (confirmStep k s d) := by
  unfold confirmStep; split
  · exact h
  · split
    · split
      · exact onAe_limits h (sweepOn_journal _ _ _ _)
      · split
        · exact confirmEntry_limits _ _ _ h
        · exact onAe_limits h (sweepOn_journal _ _ _ _)
    · exact h

/-! ### The scanner -/

theorem onSlot_limits (i : Nat) (f : PlanSlot → PlanSlot) {d : Device} (h : Limits d) : Limits (d.onSlot i f) := by
  unfold Device.onSlot; split
  · exact h
  · exact h.of_eq rfl rfl rfl rfl rfl rfl rfl
theorem firePoint_limits (k s : Nat) {d : Device} (h : Limits d) : Limits (firePoint k s d) := h.of_eq rfl rfl rfl rfl rfl rfl rfl
theorem handClose_limits (n k s m : Nat) {d : Device} (h : Limits d) : Limits (handClose n k s m d) := by
  have hc : Limits (registrationClose k s d) := h.of_eq rfl rfl rfl rfl rfl rfl rfl
  unfold handClose; dsimp only; split
  · exact firePoint_limits _ _ hc
  · exact hc.of_eq rfl rfl rfl rfl rfl rfl rfl
theorem fireSlot_limits (n i : Nat) (sl : PlanSlot) (sites : List Nat) {d : Device} (h : Limits d) :
    Limits (fireSlot n i sl sites d) := by
  have hm := onSlot_limits i (fun sl => { sl with fired := withSites sl.fired sites }) h
  unfold fireSlot; dsimp only; split
  · exact startPattern_limits _ _ hm
  · exact exchangeBanks_limits hm
  · exact hm
  · exact foldl_inv Limits _ (fun _ _ hd => handClose_limits _ _ _ _ hd) _ _ hm
theorem overSlots_limits (f : Nat → PlanSlot → Device → Device) (hf : ∀ i sl d, Limits d → Limits (f i sl d)) {d : Device}
    (h : Limits d) : Limits (overSlots f d) :=
  foldl_inv Limits _ (fun d i hd => by
    split
    · exact hd
    · exact hf _ _ _ hd) _ _ h
theorem fireDue_limits (sites : List Nat) (n : Nat) {d : Device} (h : Limits d) : Limits (fireDue sites n d) :=
  overSlots_limits _ (fun i sl d hd => by
    split
    · exact hd
    · exact fireSlot_limits _ _ _ _ hd) h
theorem catchUp_limits (sites : List Nat) (n : Nat) {d : Device} (h : Limits d) : Limits (catchUp sites n d) :=
  overSlots_limits _ (fun i sl d hd => by
    split
    · exact hd
    · split
      · exact onSlot_limits _ _ hd
      · exact fireSlot_limits _ _ _ _ hd
      · exact fireSlot_limits _ _ _ _ hd
      · exact fireSlot_limits _ _ _ _ hd) h
theorem firePointsAt_limits (sites : List Nat) (n : Nat) {d : Device} (h : Limits d) : Limits (firePointsAt sites n d) :=
  foldl_inv Limits _ (fun d q hd => by
    split
    · exact firePoint_limits _ _ hd
    · exact hd) _ _ h
theorem topOfMinute_limits {d : Device} (h : Limits d) : Limits (topOfMinute d) := by
  unfold topOfMinute; split
  · exact firePointsAt_limits _ _ (fireDue_limits _ _ h)
  · exact h
theorem reassess_limits (sites : List Nat) {d : Device} (h : Limits d) : Limits (reassess sites d) := by
  unfold reassess; split
  · exact firePointsAt_limits _ _ (fireDue_limits _ _ (catchUp_limits _ _
      (foldl_inv Limits _ (fun _ _ hd => firePoint_limits _ _ hd) _ _ h)))
  · exact h
theorem jumpNotice_limits (old : Nat) {d : Device} (h : Limits d) : Limits (jumpNotice old d) := by
  unfold jumpNotice; split
  · exact reassess_limits _ h
  · exact h

/-! ### Arrivals and messages -/

theorem appendJournal_limits (r : JournalRecord) {d : Device} (h : Limits d) : Limits (appendJournal r d) := by
  obtain ⟨q, g, rr, j, a, c⟩ := h
  refine ⟨q, g, rr, ?_, a, c⟩
  simp only [appendJournal, Device.raise, List.length_append, List.length_singleton]
  split
  · simp; omega
  · rename_i hl; simp only [Config.maxJournal] at hl; omega
theorem askLateRecorded_limits (e : RosterEntry) (b : Band) (m : Nat) {d : Device} (h : Limits d) :
    Limits (askLateRecorded e b m d) := by
  unfold askLateRecorded; split
  · exact h
  · split
    · exact composeLateness_limits _ _ h
    · exact h
theorem askLatePattern_limits (roll : Nat) (b : Band) (o n : Nat) {d : Device} (h : Limits d) :
    Limits (askLatePattern roll b o n d) := by
  unfold askLatePattern; split
  · exact composeLateness_limits _ _ h
  · exact h
theorem judgedNotices_limits (e : RosterEntry) (b : Band) (m o n : Nat) {d : Device} (h : Limits d) :
    Limits (judgedNotices e b m o n d) := by
  have hf : Limits (if e.state.notified = true then absenceRuleFor true e.roll e.absenceTag d else d) := by
    split
    · exact absenceRuleFor_limits _ _ _ h
    · exact h
  unfold judgedNotices; dsimp only; split
  · exact askLatePattern_limits _ _ _ _ (askLateRecorded_limits _ _ _ hf)
  · exact hf
theorem judgedEntry_journal (e : RosterEntry) (b : Band) (a : Nat) (x : Option Excuse) (ae : Attendance) :
    (judgedEntry e b a x ae).journal = ae.journal := by
  unfold judgedEntry; dsimp only
  split
  · split
    · split <;> rfl
    · rw [show ∀ (ae : Attendance) roll f, (ae.onEntry roll f).journal = ae.journal from fun _ _ _ => rfl]
      rw [show ∀ (ae : Attendance) roll r st, (ae.markExcuse roll r st).journal = ae.journal from fun _ _ _ _ => rfl]
      split <;> rfl
  · split <;> rfl
theorem takeArrival_limits (a : Arrival) {d : Device} (h : Limits d) : Limits (takeArrival a d).2 := by
  unfold takeArrival; split
  · exact appendJournal_limits _ h
  · split
    · exact appendJournal_limits _ h
    · unfold timedArrival; split
      · split
        · exact judgedNotices_limits _ _ _ _ _ (appendJournal_limits _ (onAe_limits h (judgedEntry_journal _ _ _ _ _)))
        · exact appendJournal_limits _ (onEntry_limits _ _ h)
      · split
        · unfold signOutArrival; dsimp only; split
          · exact appendJournal_limits _ (onAe_limits (onEntry_limits _ _ h) rfl)
          · exact composeLeftSite_limits _ _ (appendJournal_limits _ (onEntry_limits _ _ h))
        · exact appendJournal_limits _ (onEntry_limits _ _ h)
theorem acknowledge_limits (c : AckCode) (m : ParentMessage) (x f l : Nat) {d : Device} (h : Limits d) :
    Limits (acknowledge c m x f l d) := compose_limits _ _ _ _ _ _ h
theorem messageCall_limits (r : CallReason) (u : Bool) (c : Nat) (m : ParentMessage) {d : Device} (h : Limits d) :
    Limits (messageCall r u c m d) := addCall_limits _ _ _ h
theorem takeFreeText_limits (m : ParentMessage) (c : Nat) (p : Bool) {d : Device} (h : Limits d) :
    Limits (takeFreeText m c p d) := acknowledge_limits _ _ _ _ _ (messageCall_limits _ _ _ _ h)
theorem takeExcusing_limits (m : ParentMessage) (c : Contact) {d : Device} (h : Limits d) : Limits (takeExcusing m c d) := by
  unfold takeExcusing; split
  · exact acknowledge_limits _ _ _ _ _ (messageCall_limits _ _ _ _ h)
  · exact acknowledge_limits _ _ _ _ _ (recordAll_limits _ h)
theorem takeMessage_limits (m : ParentMessage) {d : Device} (h : Limits d) : Limits (takeMessage m d) := by
  unfold takeMessage; split
  · split
    · exact takeFreeText_limits _ _ _ h
    · exact acknowledge_limits _ _ _ _ _ h
  · split
    · exact takeFreeText_limits _ _ _ h
    · split
      · exact acknowledge_limits _ _ _ _ _ h
      · split
        · exact acknowledge_limits _ _ _ _ _ (messageCall_limits _ _ _ _ h)
        · exact takeExcusing_limits _ _ h
theorem takeContent_limits (c : MsgContent) {d : Device} (h : Limits d) : Limits (takeContent c d) := by
  cases c
  · exact takeMessage_limits _ h
  · exact takeOutcome_limits _ _ _ h
  · exact h

/-! ### The relay line -/

theorem retireOne_limits {d : Device} (h : Limits d) : Limits (retireOne d) := by
  unfold retireOne; split
  · exact h
  · rename_i r rest hr
    refine receipt_limits _ ?_
    obtain ⟨q, g, ⟨r1, r2, r3⟩, j, a, c⟩ := h
    unfold ringNotUrgent at r2
    unfold ringBulkCount at r3
    rw [hr] at r1 r2 r3
    refine ⟨q, g, ⟨?_, ?_, ?_⟩, j, a, c⟩
    · simp at r1 ⊢; omega
    · exact Nat.le_trans ((List.sublist_cons_self r rest).filter _).length_le r2
    · exact Nat.le_trans ((List.sublist_cons_self r rest).filter _).length_le r3
theorem retire_limits (k : Nat) {d : Device} (h : Limits d) : Limits (retire k d) := by
  induction k generalizing d with
  | zero => exact h
  | succ k ih => exact ih (retireOne_limits h)
theorem applyMark_limits (m : Nat) {d : Device} (h : Limits d) : Limits (applyMark m d) := by
  unfold applyMark; split
  · exact retire_limits _ h
  · exact h
theorem takeMark_limits (m : Nat) {d : Device} (h : Limits d) : Limits (takeMark m d) := by
  unfold takeMark; split
  · exact h.of_eq rfl rfl rfl rfl rfl rfl rfl
  · exact applyMark_limits _ h
theorem send_limits (f : RelayFrame) (m : Nat) {d : Device} (h : Limits d) : Limits (send f m d) :=
  h.of_eq rfl rfl rfl rfl rfl rfl rfl
theorem filter_snoc_length {α : Type} (p : α → Bool) (l : List α) (a : α) :
    ((l ++ [a]).filter p).length = (l.filter p).length + if p a then 1 else 0 := by
  cases h : p a <;> simp [List.filter_append, h]
theorem dispatch_limits (n : Notice) {d : Device} (h : Limits d) (room : ringRoom n.cls d.rl.occupancy = true) :
    Limits (dispatch n d) := by
  refine send_limits _ _ (leaveQueue_limits _ ?_)
  obtain ⟨q, g, ⟨r1, r2, r3⟩, j, a, c⟩ := h
  have f1 : ringNotUrgent d.rl.ring ≤ d.rl.ring.length := List.length_filter_le _ _
  have f2 : ringBulkCount d.rl.ring ≤ d.rl.ring.length := List.length_filter_le _ _
  unfold RelayLink.occupancy at room
  refine ⟨q, g, ⟨?_, ?_, ?_⟩, j, a, c⟩
  all_goals
    simp only [ringNotUrgent, ringBulkCount, filter_snoc_length, List.length_append, List.length_singleton]
    simp only [ringNotUrgent] at r2 f1
    simp only [ringBulkCount] at r3 f2
    cases hc : n.cls <;>
      simp only [hc, ringRoom, decide_eq_true_eq] at room <;>
      simp only [Config.ringUrgent, Config.ringRoutine, Config.ringBulk] at room <;> simp <;> omega
theorem endReplay_limits {d : Device} (h : Limits d) : Limits (endReplay d) := by
  unfold endReplay; dsimp only; split
  · exact h.of_eq rfl rfl rfl rfl rfl rfl rfl
  · exact applyMark_limits _ (h.of_eq rfl rfl rfl rfl rfl rfl rfl)
theorem lineFalls_limits {d : Device} (h : Limits d) : Limits (lineFalls d) := by
  have hf : Limits { d with rl.frame := none } := h.of_eq rfl rfl rfl rfl rfl rfl rfl
  unfold lineFalls; dsimp only; split
  · exact hf.of_eq rfl rfl rfl rfl rfl rfl rfl
  · split
    · exact endReplay_limits hf
    · exact hf.of_eq rfl rfl rfl rfl rfl rfl rfl
  · exact endReplay_limits hf
  · exact hf
  · exact hf
  · exact hf
  · exact hf
theorem offered_room {d : Device} {n : Notice} (h : d.offered = some n) : ringRoom n.cls d.rl.occupancy = true := by
  unfold Device.offered at h; split at h
  · exact List.find?_some (p := fun n : Notice => ringRoom n.cls d.rl.occupancy) h
  · exact absurd h (by simp)
theorem chooseNew_limits {d : Device} (h : Limits d) : Limits (chooseNew d) := by
  unfold chooseNew; split
  · exact send_limits _ _ (h.of_eq rfl rfl rfl rfl rfl rfl rfl)
  · split
    · exact send_limits _ _ (h.of_eq rfl rfl rfl rfl rfl rfl rfl)
    · split
      · rename_i ho; exact dispatch_limits _ h (offered_room ho)
      · split
        · exact send_limits _ _ h
        · split
          · exact send_limits _ _ h
          · exact h
theorem choose_limits {d : Device} (h : Limits d) : Limits (choose d) := by
  unfold choose; split
  · exact send_limits _ _ (h.of_eq rfl rfl rfl rfl rfl rfl rfl)
  · split
    · exact send_limits _ _ (h.of_eq rfl rfl rfl rfl rfl rfl rfl)
    · exact send_limits _ _ (h.of_eq rfl rfl rfl rfl rfl rfl rfl)
    · exact send_limits _ _ (h.of_eq rfl rfl rfl rfl rfl rfl rfl)
    · exact chooseNew_limits h
    · exact chooseNew_limits h
    · exact chooseNew_limits h
    · exact chooseNew_limits h
theorem lineFree_limits {d : Device} (h : Limits d) : Limits (lineFree d) := by
  unfold lineFree; split
  · exact choose_limits (lineFalls_limits h)
  · exact h.of_eq rfl rfl rfl rfl rfl rfl rfl
  · exact h
  · exact h
theorem enterStarting_limits {d : Device} (h : Limits d) : Limits (enterStarting d) := h.of_eq rfl rfl rfl rfl rfl rfl rfl
/-- A device with an empty ring. -/
theorem ring_emptied_limits {d e : Device} (h : Limits d) (hj : e.ae.journal = d.ae.journal) (hu : e.nu.urgent = d.nu.urgent)
    (hr : e.nu.routine = d.nu.routine) (hb : e.nu.bulk = d.nu.bulk) (ha : e.nu.awaiting = d.nu.awaiting)
    (hc : e.nu.calls = d.nu.calls) (hg : e.rl.ring = []) : Limits e := by
  obtain ⟨q, g, r, j, a, c⟩ := h
  have h0 : Limits { d with rl.ring := [] } := ⟨q, g, by simp [RingInLimits, ringNotUrgent, ringBulkCount], j, a, c⟩
  exact h0.of_eq hj hu hr hb ha hc hg
theorem emptyLink_limits {d : Device} (h : Limits d) : Limits (emptyLink d) :=
  returnNotices_limits _ _ _ _ (ring_emptied_limits h rfl rfl rfl rfl rfl rfl rfl)
theorem leaveUp_limits (n : LinkState) {d : Device} (h : Limits d) : Limits (leaveUp n d) :=
  fallBackAll_limits ((emptyLink_limits h).of_eq rfl rfl rfl rfl rfl rfl rfl)
theorem relayRestart_limits {d : Device} (h : Limits d) : Limits (relayRestart d) :=
  ring_emptied_limits (emptyLink_limits h) rfl rfl rfl rfl rfl rfl rfl
theorem enterUp_limits {d : Device} (h : Limits d) : Limits (enterUp d) := ring_emptied_limits h rfl rfl rfl rfl rfl rfl rfl
theorem badFrame_limits {d : Device} (h : Limits d) : Limits (badFrame d) := by
  unfold badFrame; split
  · dsimp only; split
    · exact h.of_eq rfl rfl rfl rfl rfl rfl rfl
    · exact h.of_eq rfl rfl rfl rfl rfl rfl rfl
  · exact h
theorem takeMsg_limits (s p m : Nat) (c : MsgContent) {d : Device} (h : Limits d) : Limits (takeMsg s p m c d) := by
  have hm := takeMark_limits m h
  unfold takeMsg; dsimp only; split
  · exact hm.of_eq rfl rfl rfl rfl rfl rfl rfl
  · exact takeContent_limits _ (hm.of_eq rfl rfl rfl rfl rfl rfl rfl)
theorem judgeMsg_limits (s p m : Nat) (c : MsgContent) {d : Device} (h : Limits d) : Limits (judgeMsg s p m c d) := by
  unfold judgeMsg; split
  · exact h.of_eq rfl rfl rfl rfl rfl rfl rfl
  · split
    · exact takeMsg_limits _ _ _ _ h
    · split
      · exact takeMark_limits _ h
      · exact h.of_eq rfl rfl rfl rfl rfl rfl rfl
theorem heard_limits {d : Device} (h : Limits d) : Limits (heard d) := h.of_eq rfl rfl rfl rfl rfl rfl rfl
theorem receiveMsg_limits (s p m : Nat) (b : List Byte) {d : Device} (h : Limits d) : Limits (receiveMsg s p m b d) := by
  unfold receiveMsg; split
  · split
    · exact badFrame_limits h
    · split
      · exact heard_limits h
      · exact judgeMsg_limits _ _ _ _ (heard_limits h)
  · exact h
theorem receiveMark_limits (m : Nat) {d : Device} (h : Limits d) : Limits (receiveMark m d) := by
  unfold receiveMark; split
  · split
    · exact heard_limits h
    · exact takeMark_limits _ (heard_limits h)
  · exact h
theorem rewindRequest_limits {d : Device} (h : Limits d) : Limits (rewindRequest d) := by
  unfold rewindRequest; split <;> exact h.of_eq rfl rfl rfl rfl rfl rfl rfl
theorem receiveRewind_limits (m : Nat) {d : Device} (h : Limits d) : Limits (receiveRewind m d) := by
  unfold receiveRewind; dsimp only; split
  · exact takeMark_limits _ (rewindRequest_limits (h.of_eq rfl rfl rfl rfl rfl rfl rfl))
  · split
    · exact h.of_eq rfl rfl rfl rfl rfl rfl rfl
    · exact takeMark_limits _ (h.of_eq rfl rfl rfl rfl rfl rfl rfl)
theorem receiveClear_limits (m : Nat) {d : Device} (h : Limits d) : Limits (receiveClear m d) := by
  unfold receiveClear; dsimp only; split
  · split
    · exact takeMark_limits _ (h.of_eq rfl rfl rfl rfl rfl rfl rfl)
    · exact h.of_eq rfl rfl rfl rfl rfl rfl rfl
  · exact takeMark_limits _ (h.of_eq rfl rfl rfl rfl rfl rfl rfl)
theorem receiveResync_limits (f m : Nat) {d : Device} (h : Limits d) : Limits (receiveResync f m d) := by
  unfold receiveResync; split
  · split
    · exact receiveRewind_limits _ h
    · split
      · exact receiveClear_limits _ h
      · exact badFrame_limits h
  · exact h
theorem receiveStart_limits {d : Device} (h : Limits d) : Limits (receiveStart d) := by
  unfold receiveStart; split
  · exact enterUp_limits h
  · split
    · exact h.of_eq rfl rfl rfl rfl rfl rfl rfl
    · exact relayRestart_limits h
  · exact h
  · exact h
theorem resyncExpired_limits {d : Device} (h : Limits d) : Limits (resyncExpired d) := by
  unfold resyncExpired; split
  · split
    · exact h.of_eq rfl rfl rfl rfl rfl rfl rfl
    · exact leaveUp_limits _ h
  · exact h
theorem relayStart_limits {d : Device} (h : Limits d) : Limits (relayStart d) := by
  unfold relayStart; split
  · exact enterStarting_limits h
  · exact enterStarting_limits h
  · exact h
  · exact h
theorem relayStop_limits {d : Device} (h : Limits d) : Limits (relayStop d) := by
  unfold relayStop; split
  · exact h
  · exact leaveUp_limits _ h
  · exact h.of_eq rfl rfl rfl rfl rfl rfl rfl
  · exact h.of_eq rfl rfl rfl rfl rfl rfl rfl
theorem writeSettings_limits (s : RelaySettings) {d : Device} (h : Limits d) : Limits (writeSettings s d) := by
  unfold writeSettings; dsimp only; split
  · exact enterStarting_limits (h.of_eq rfl rfl rfl rfl rfl rfl rfl)
  · exact h.of_eq rfl rfl rfl rfl rfl rfl rfl
theorem relayWarm_limits {d : Device} (h : Limits d) : Limits (relayWarm d) := by
  have he := emptyLink_limits h
  have hl : Limits (if d.rl.link = .up then fallBackAll (emptyLink d) else emptyLink d) := by
    split
    · exact fallBackAll_limits he
    · exact he
  have ho := ring_emptied_limits (e := { (if d.rl.link = .up then fallBackAll (emptyLink d) else emptyLink d) with
      rl := (if d.rl.link = .up then fallBackAll (emptyLink d) else emptyLink d).rl.warm }) hl rfl rfl rfl rfl rfl rfl rfl
  unfold relayWarm; dsimp only; split
  · exact enterStarting_limits ho
  · exact ho

/-! ### The gate bus and the bulletin -/

theorem moveStation_limits (a : Nat) (st : Station) {d : Device} (h : Limits d) : Limits (moveStation a st d) := by
  unfold moveStation; dsimp only; split <;> exact h.of_eq rfl rfl rfl rfl rfl rfl rfl
theorem settleRound_limits {d : Device} (h : Limits d) : Limits (settleRound d) := h.of_eq rfl rfl rfl rfl rfl rfl rfl
theorem dropReply_limits {d : Device} (h : Limits d) : Limits (dropReply d) := settleRound_limits (h.of_eq rfl rfl rfl rfl rfl rfl rfl)
theorem receiveReply_limits (c l : Bool) (a f : Nat) (rs : List GateRecord) {d : Device} (h : Limits d) :
    Limits (receiveReply c l a f rs d) := by
  unfold receiveReply takeReply missedReply; split
  · exact h
  · split
    · exact dropReply_limits h
    · split
      · exact settleRound_limits (moveStation_limits _ _ (h.of_eq rfl rfl rfl rfl rfl rfl rfl))
      · exact settleRound_limits (moveStation_limits _ _ (h.of_eq rfl rfl rfl rfl rfl rfl rfl))
theorem replyTimedOut_limits {d : Device} (h : Limits d) : Limits (replyTimedOut d) := by
  unfold replyTimedOut missedReply; split
  · exact h
  · split
    · exact dropReply_limits h
    · exact settleRound_limits (moveStation_limits _ _ (h.of_eq rfl rfl rfl rfl rfl rfl rfl))
theorem takeRecord_limits (a : Nat) (r : GateRecord) {d : Device} (h : Limits d) : Limits (takeRecord a r d) := by
  unfold takeRecord; dsimp only; split
  · exact h.of_eq rfl rfl rfl rfl rfl rfl rfl
  · exact (takeArrival_limits _ h).of_eq rfl rfl rfl rfl rfl rfl rfl
theorem takeNextRecord_limits {d : Device} (h : Limits d) : Limits (takeNextRecord d) := by
  unfold takeNextRecord; split
  · exact h
  · exact takeRecord_limits _ _ (h.of_eq rfl rfl rfl rfl rfl rfl rfl)
theorem takeWaiting_limits {d : Device} (h : Limits d) : Limits (takeWaiting d) :=
  repeated_inv Limits _ (fun _ hd => takeNextRecord_limits hd) _ _ h
theorem setStation_limits (a : Nat) (en : Bool) (site : Nat) {d : Device} (h : Limits d) : Limits (setStation a en site d) := by
  unfold setStation; dsimp only
  refine settleRound_limits ?_
  split <;> exact (takeWaiting_limits h).of_eq rfl rfl rfl rfl rfl rfl rfl
theorem losePower_limits {d : Device} (h : Limits d) : Limits (losePower d) := by
  have hp : Limits (powered takeWaiting d) := powered_keeps h (takeWaiting_limits h)
  exact hp.of_eq rfl rfl rfl rfl rfl rfl rfl
theorem fanoutOn_limits {d : Device} (h : Limits d) : Limits (fanoutOn d) := by
  unfold fanoutOn; split <;> exact h.of_eq rfl rfl rfl rfl rfl rfl rfl
theorem bulletinFor_limits (p : Pupil) {d : Device} (h : Limits d) : Limits (bulletinFor p d) := by
  unfold bulletinFor; split
  · exact fanoutOn_limits (h.of_eq rfl rfl rfl rfl rfl rfl rfl)
  · split
    · exact h.of_eq rfl rfl rfl rfl rfl rfl rfl
    · exact fanoutOn_limits ((compose_limits _ _ _ _ _ _ h).of_eq rfl rfl rfl rfl rfl rfl rfl)
theorem fanoutStep_limits {d : Device} (h : Limits d) : Limits (fanoutStep d) := by
  unfold fanoutStep; split
  · split
    · exact fanoutOn_limits h
    · split
      · exact bulletinFor_limits _ h
      · exact fanoutOn_limits h
  · exact h

/-! ### The clock, the rollover and reset -/

theorem startRollover_limits (kind : RolloverKind) {d : Device} (h : Limits d) : Limits (startRollover kind d) :=
  h.of_eq rfl rfl rfl rfl rfl rfl rfl
theorem crossMidnight_limits (kind : RolloverKind) {d : Device} (h : Limits d) : Limits (crossMidnight kind d) := by
  unfold crossMidnight; split
  · split
    · exact h.of_eq rfl rfl rfl rfl rfl rfl rfl
    · exact startRollover_limits _ ((takeWaiting_limits h).of_eq rfl rfl rfl rfl rfl rfl rfl)
  · exact h.of_eq rfl rfl rfl rfl rfl rfl rfl
theorem handMinute_limits {d : Device} (h : Limits d) : Limits (handMinute d) := by
  unfold handMinute; split
  · exact topOfMinute_limits h
  · exact h
theorem advanceSecond_limits {d : Device} (h : Limits d) : Limits (advanceSecond d) := by
  unfold advanceSecond; split
  · dsimp only; split
    · exact handMinute_limits (h.of_eq rfl rfl rfl rfl rfl rfl rfl)
    · exact h.of_eq rfl rfl rfl rfl rfl rfl rfl
  · exact handMinute_limits (crossMidnight_limits _ h)
theorem advanceTick_limits {d : Device} (h : Limits d) : Limits (advanceTick d) := by
  unfold advanceTick; split
  · exact h.of_eq rfl rfl rfl rfl rfl rfl rfl
  · exact advanceSecond_limits (h.of_eq rfl rfl rfl rfl rfl rfl rfl)
theorem slewedAdvance_limits {d : Device} (h : Limits d) : Limits (slewedAdvance d) := by
  unfold slewedAdvance; split
  · exact advanceTick_limits (h.of_eq rfl rfl rfl rfl rfl rfl rfl)
  · dsimp only; split
    · exact h.of_eq rfl rfl rfl rfl rfl rfl rfl
    · split
      · exact advanceTick_limits (advanceTick_limits (h.of_eq rfl rfl rfl rfl rfl rfl rfl))
      · exact advanceTick_limits (h.of_eq rfl rfl rfl rfl rfl rfl rfl)
theorem secondPassed_limits {d : Device} (h : Limits d) : Limits (secondPassed d) := by
  have hr := ring_map_limits (fun r : RingEntry => { r with notice := r.notice.older }) (fun _ => rfl) h
  obtain ⟨⟨q1, q2, q3⟩, ⟨g1, g2, g3⟩, r, j, a, c⟩ := h
  unfold NoticeUnit.queueCount at q1
  refine ⟨⟨?_, ?_, ?_⟩, ⟨?_, ?_, ?_⟩, hr.ring, j, ?_, ?_⟩
  · simpa [secondPassed, NoticeUnit.secondPassed, NoticeUnit.queueCount] using q1
  · simpa [secondPassed, NoticeUnit.secondPassed] using q2
  · simpa [secondPassed, NoticeUnit.secondPassed] using q3
  · intro n hn; obtain ⟨m, hm, rfl⟩ := List.mem_map.1 hn; exact g1 m hm
  · intro n hn; obtain ⟨m, hm, rfl⟩ := List.mem_map.1 hn; exact g2 m hm
  · intro n hn; obtain ⟨m, hm, rfl⟩ := List.mem_map.1 hn; exact g3 m hm
  · simpa [secondPassed, NoticeUnit.secondPassed] using a
  · simpa [secondPassed, NoticeUnit.secondPassed] using c
theorem runningTick_limits {d : Device} (h : Limits d) : Limits (runningTick d) := by
  unfold runningTick; split
  · exact h.of_eq rfl rfl rfl rfl rfl rfl rfl
  · exact secondPassed_limits (h.of_eq rfl rfl rfl rfl rfl rfl rfl)
theorem oscillatorTick_limits (sense : ZoneSet) {d : Device} (h : Limits d) : Limits (oscillatorTick sense d) := by
  unfold oscillatorTick; dsimp only
  refine slewedAdvance_limits ?_
  split
  · exact runningTick_limits (h.of_eq rfl rfl rfl rfl rfl rfl rfl)
  · exact h.of_eq rfl rfl rfl rfl rfl rfl rfl
theorem setDiscipline_limits (st : DisciplineState) {d : Device} (h : Limits d) : Limits (setDiscipline st d) := by
  unfold setDiscipline; dsimp only; split <;> exact h.of_eq rfl rfl rfl rfl rfl rfl rfl
theorem lockRule_limits (e : Int) {d : Device} (h : Limits d) : Limits (lockRule e d) := by
  unfold lockRule; split
  · split
    · exact h.of_eq rfl rfl rfl rfl rfl rfl rfl
    · exact setDiscipline_limits _ h
  · split
    · split
      · exact h.of_eq rfl rfl rfl rfl rfl rfl rfl
      · exact setDiscipline_limits _ h
    · exact h.of_eq rfl rfl rfl rfl rfl rfl rfl
theorem stepClock_limits (e : Int) {d : Device} (h : Limits d) : Limits (stepClock e d) := by
  unfold stepClock; dsimp only; split
  · split
    · exact h.of_eq rfl rfl rfl rfl rfl rfl rfl
    · exact handMinute_limits (jumpNotice_limits _ (h.of_eq rfl rfl rfl rfl rfl rfl rfl))
  · exact crossMidnight_limits _ (h.of_eq rfl rfl rfl rfl rfl rfl rfl)
theorem masterMark_limits {d : Device} (h : Limits d) : Limits (masterMark d) := by
  unfold masterMark; split
  · unfold takeMasterMark; dsimp only
    generalize d.tb.markError = e
    have hl := lockRule_limits e (h.of_eq (e := { d with
      tb.lastError := some e, tb.markSilence := some 0, tb.markSeen := true, tb.slewPhase := 0 }) rfl rfl rfl rfl rfl rfl rfl)
    unfold correct; split
    · exact hl.of_eq rfl rfl rfl rfl rfl rfl rfl
    · split
      · exact hl.of_eq rfl rfl rfl rfl rfl rfl rfl
      · split
        · exact stepClock_limits _ hl
        · exact hl.of_eq rfl rfl rfl rfl rfl rfl rfl
  · exact h
theorem markSilenceExpired_limits {d : Device} (h : Limits d) : Limits (markSilenceExpired d) := by
  unfold markSilenceExpired; split
  · exact h
  · exact setDiscipline_limits _ (h.of_eq rfl rfl rfl rfl rfl rfl rfl)
theorem countUnexplained_journal (roll : Nat) (ae : Attendance) : (countUnexplained roll ae).journal = ae.journal := by
  unfold countUnexplained; split
  · rfl
  · split <;> rfl
theorem toStep_limits (n : Nat) (r : Rollover) {d : Device} (h : Limits d) : Limits (toStep n r d) :=
  h.of_eq rfl rfl rfl rfl rfl rfl rfl
theorem walkOn_limits (size n : Nat) (r : Rollover) {d : Device} (h : Limits d) : Limits (walkOn size n r d) := by
  unfold walkOn; split <;> exact h.of_eq rfl rfl rfl rfl rfl rfl rfl
theorem rollOn_limits (n : Nat) (r : Rollover) {d : Device} (h : Limits d) : Limits (rollOn n r d) := walkOn_limits _ _ _ h
theorem step5_limits (r : Rollover) {d : Device} (h : Limits d) : Limits (step5 r d) := by
  unfold step5 removeException; split
  · split <;> exact h.of_eq rfl rfl rfl rfl rfl rfl rfl
  · split <;> exact h.of_eq rfl rfl rfl rfl rfl rfl rfl
theorem releaseHeld_limits {d : Device} (h : Limits d) : Limits (releaseHeld d) := by
  have hh := foldl_inv Limits (fun acc (m : HeldMessage) => takeContent m.content acc) (fun _ _ hd => takeContent_limits _ hd)
    d.rl.rolloverHold { d with rl.rolloverHold := [] } (h.of_eq rfl rfl rfl rfl rfl rfl rfl)
  unfold releaseHeld; dsimp only; split
  · exact hh
  · exact hh.of_eq rfl rfl rfl rfl rfl rfl rfl
theorem buildAt_journal (s : Bool) (c roll : Nat) (ae : Attendance) : (buildAt s c roll ae).journal = ae.journal := by
  unfold buildAt; split <;> rfl
theorem step12_limits (r : Rollover) {d : Device} (h : Limits d) : Limits (step12 r d) := by
  have h1 : Limits (if r.cursor = 1 then d.onAe fun ae => { ae with roster := some [] } else d) := by
    split
    · exact onAe_limits h rfl
    · exact h
  unfold step12; dsimp only
  refine rollOn_limits _ _ ?_
  have h2 := onAe_limits (f := buildAt d.schoolDay d.tb.cycleDay r.cursor) h1 (buildAt_journal _ _ _ _)
  split
  · exact h2
  · exact onAe_limits h2 (applyAbsences_journal _ _)
theorem step13_limits (r : Rollover) {d : Device} (h : Limits d) : Limits (step13 r d) := by
  unfold step13; dsimp only; split
  · exact h.of_eq rfl rfl rfl rfl rfl rfl rfl
  · exact releaseHeld_limits (reassess_limits _ (h.of_eq rfl rfl rfl rfl rfl rfl rfl))
theorem rolloverStep_limits {d : Device} (h : Limits d) : Limits (rolloverStep d) := by
  unfold rolloverStep; split
  · exact h
  · split
    · exact h.of_eq rfl rfl rfl rfl rfl rfl rfl
    · unfold step2; split
      · exact rollOn_limits _ _ (onAe_limits h (countUnexplained_journal _ _))
      · exact toStep_limits _ _ h
    · exact h.of_eq rfl rfl rfl rfl rfl rfl rfl
    · unfold step4; split
      · unfold calendarEnd; dsimp only
        exact (setValidity_limits _ (setDiscipline_limits _ h)).of_eq rfl rfl rfl rfl rfl rfl rfl
      · exact h.of_eq rfl rfl rfl rfl rfl rfl rfl
    · exact step5_limits _ h
    · exact h.of_eq rfl rfl rfl rfl rfl rfl rfl
    · exact walkOn_limits _ _ _ (h.of_eq rfl rfl rfl rfl rfl rfl rfl)
    · exact h.of_eq rfl rfl rfl rfl rfl rfl rfl
    · unfold step9; split
      · exact h.of_eq rfl rfl rfl rfl rfl rfl rfl
      · split <;> exact h.of_eq rfl rfl rfl rfl rfl rfl rfl
    · unfold step10; split
      · split
        · exact leaveQueue_limits _ h
        · exact h.of_eq rfl rfl rfl rfl rfl rfl rfl
      · split <;> exact h.of_eq rfl rfl rfl rfl rfl rfl rfl
    · unfold step11
      refine toStep_limits _ _ ?_
      split
      · exact h
      · exact h.of_eq rfl rfl rfl rfl rfl rfl rfl
    · exact step12_limits _ h
    · exact step13_limits _ h
theorem valuesWarm_limits {d : Device} (h : Limits d) : Limits (valuesWarm d) := by
  unfold valuesWarm; dsimp only
  refine sampleInputs_limits _ _ ?_
  exact (relayWarm_limits (h.of_eq (e := { d with tb := d.tb.warm, ae := d.ae.warm, gb := d.gb.warm })
    rfl rfl rfl rfl rfl rfl rfl)).of_eq rfl rfl rfl rfl rfl rfl rfl
theorem blocksWarm_limits {d : Device} (h : Limits d) : Limits (blocksWarm d) := valuesWarm_limits (takeWaiting_limits h)
theorem scannerWarm_limits {d : Device} (h : Limits d) : Limits (scannerWarm d) := by
  unfold scannerWarm; split
  · exact h
  · exact reassess_limits _ h
theorem powerUp_limits (strap : Bool) {d : Device} (h : Limits d) : Limits (powerUp strap d) := by
  have hb := blocksWarm_limits (h.of_eq (e := { d with mainPower := true, fastBaud := strap }) rfl rfl rfl rfl rfl rfl rfl)
  unfold powerUp resumeMissed; split
  · exact startRollover_limits _ hb
  · exact scannerWarm_limits hb
theorem reset_limits : Limits Device.reset := by
  refine ⟨⟨?_, ?_, ?_⟩, ⟨?_, ?_, ?_⟩, ⟨?_, ?_, ?_⟩, ?_, ?_, ?_⟩ <;> decide
theorem retentionLost_limits (strap : Bool) (d : Device) : Limits (retentionLost strap d) :=
  sampleInputs_limits _ _ (reset_limits.of_eq rfl rfl rfl rfl rfl rfl rfl)
theorem replyGone_limits {d : Device} (h : Limits d) : Limits (replyGone d) := by
  unfold replyGone; split
  · exact h
  · dsimp only; split
    · exact scannerWarm_limits (blocksWarm_limits (h.of_eq rfl rfl rfl rfl rfl rfl rfl))
    · exact h.of_eq rfl rfl rfl rfl rfl rfl rfl

end Sys2Proof.Machine
end

