-- ==== Sys2Proof/Laws/Tables.lean ====
section
/-! SUPPORT. Small facts the requests' checks and tables turn on: whether a rollover is ACTIVE, repeats in a list, decoding a
list, and the roll and contact tables. -/
namespace Sys2Proof.Machine

theorem rolling_idle {d : Device} (h : d.tb.rollover = none) : d.rolling = false := by simp [Device.rolling, h]
theorem rolling_active {d : Device} (h : d.tb.rollover.isSome = true) : d.rolling = true := h

theorem hasRepeat_iff (l : List Nat) : hasRepeat l = true ↔ ¬ l.Nodup := by
  induction l with
  | nil => simp [hasRepeat]
  | cons a l ih => simp only [hasRepeat, List.nodup_cons, Bool.or_eq_true, ih, List.contains_iff_mem]; tauto

/-- A list does not decode exactly when a member does not. -/
theorem decodeAll_none {α β : Type} (f : α → Option β) (l : List α) : decodeAll f l = none ↔ ∃ e ∈ l, f e = none := by
  induction l with
  | nil => simp [decodeAll]
  | cons a l ih =>
    unfold decodeAll
    cases h : f a <;> cases h2 : decodeAll f l <;> simp_all

/-- A list that decodes has one member for each, in order. -/
theorem decodeAll_some {α β : Type} {f : α → Option β} {l : List α} {m : List β} (h : decodeAll f l = some m) :
    l.map f = m.map some := by
  induction l generalizing m with
  | nil => simp [decodeAll] at h; subst h; rfl
  | cons a l ih =>
    unfold decodeAll at h
    cases ha : f a with
    | none => simp [ha] at h
    | some b =>
      cases hl : decodeAll f l with
      | none => simp [ha, hl] at h
      | some bs =>
        simp only [ha, hl, Option.some.injEq] at h
        subst h
        simp [ha, ih hl]

theorem mem_putPupil (p q : Pupil) (l : List Pupil) : q ∈ putPupil p l ↔ q = p ∨ q ∈ l ∧ q.roll ≠ p.roll := by
  simp [putPupil, mem_insertBefore]
theorem mem_putContact (p q : Contact) (l : List Contact) : q ∈ putContact p l ↔ q = p ∨ q ∈ l ∧ q.key ≠ p.key := by
  simp [putContact, mem_insertBefore]

/-- The entry found for a roll number has that roll number. -/
theorem entry_roll {ae : Attendance} {r : Nat} {e : RosterEntry} (h : ae.entry r = some e) : e.roll = r := by
  unfold Attendance.entry at h
  cases hr : ae.roster with
  | none => rw [hr] at h; cases h
  | some l => rw [hr] at h; simpa using List.find?_some h

end Sys2Proof.Machine
end

