-- ==== Sys2Proof/Laws/Held.lean ====
section
/-! SUPPORT. The laws of Safety.lean over the device, with notices that an event has taken out of their places and not yet put into
the next; what each law looks at; and the moves that keep them all. -/
namespace Sys2Proof.Machine

/-! ### What the laws look at -/

/-- What a place holds of a notice: its tag, and its pupil where it is an absence notice. -/
abbrev Stub := Nat × Option Nat

def Notice.stub (n : Notice) : Stub := (n.tag, if n.body = .absentUnexplained then some n.pupil else none)

/-- An absence notice is about a pupil. -/
def StubFits (p : Stub) : Prop := ∀ r, p.2 = some r → 1 ≤ r ∧ r ≤ 2400

theorem stub_fits (n : Notice) : StubFits n.stub ↔ (n.body = .absentUnexplained → 1 ≤ n.pupil ∧ n.pupil ≤ 2400) := by
  unfold StubFits Notice.stub
  by_cases h : n.body = .absentUnexplained <;> simp [h]

def Device.stubs (d : Device) : List Stub := d.placed.map Notice.stub

/-- What names an excuse's place in the table. -/
def Excuse.span (x : Excuse) : Nat × ExcuseKind × Nat × Nat := (x.pupil, x.kind, x.first, x.last)

/-- What the laws look at in the Attendance Engine. -/
def Attendance.core (ae : Attendance) : List Nat × List Nat × List (Nat × ExcuseKind × Nat × Nat) × List JournalRecord :=
  (ae.pupils.map (·.roll), (ae.roster.getD []).map (·.roll), ae.excuses.map Excuse.span, ae.journal)

/-- The same excuses but for what they have done and who gave them. -/
def SameSpans (l m : List Excuse) : Prop := m.map Excuse.span = l.map Excuse.span

/-- The laws over the device, `ex` being the notices in transit. -/
structure Laws (ex : List Stub) (d : Device) : Prop where
  lim : Limits d
  ring : RingInSequence d.rl
  pupils : PupilsHeldOnce d
  excuses : ExcusesApart d.ae.excuses
  verdicts : VerdictsWithinFour d.gb
  once : ((ex ++ d.stubs).map Prod.fst).Nodup
  fits : ∀ p ∈ ex ++ d.stubs, StubFits p

theorem once_iff (d : Device) : EachNoticeInOnePlace d ↔
    (([] ++ d.stubs).map Prod.fst).Nodup ∧ ∀ p ∈ [] ++ d.stubs, StubFits p := by
  have ht : (d.placed.map Notice.stub).map Prod.fst = d.placed.map (·.tag) := by simp [Notice.stub, Function.comp_def]
  unfold EachNoticeInOnePlace Device.stubs
  rw [List.nil_append, ht]
  refine and_congr_right fun _ => ⟨fun h p hp => ?_, fun h n hn hb => ?_⟩
  · obtain ⟨n, hn, rfl⟩ := List.mem_map.1 hp
    exact (stub_fits n).2 (h n hn)
  · exact (stub_fits n).1 (h _ (List.mem_map_of_mem hn)) hb

theorem lawful_iff (s : State) : Lawful s ↔ (Clock s.dev ∧ Laws [] s.dev) ∧
    LinksAgree s.dev.ae ∧ TalliesInRange s.dev.ae ∧ DayInOrder s.dev ∧ ∀ c ∈ s.pending, c.wf = true := by
  constructor
  · rintro ⟨c, l, z, r, p, u, x, v, k, t, g, w⟩
    have ⟨o, f⟩ := (once_iff _).1 p
    exact ⟨⟨c, (limits_iff s).1 ⟨l, z⟩, r, u, x, v, o, f⟩, k, t, g, w⟩
  · rintro ⟨⟨c, l, r, u, x, v, o, f⟩, k, t, g, w⟩
    have ⟨l1, l2⟩ := (limits_iff s).2 l
    exact ⟨c, l1, l2, r, (once_iff _).2 ⟨o, f⟩, u, x, v, k, t, g, w⟩

/-! ### Laws over what they look at -/

/-- The table's order and apartness look at spans alone. -/
theorem excusesApart_spans {l m : List Excuse} (hs : SameSpans l m) (h : ExcusesApart l) : ExcusesApart m := by
  obtain ⟨o, a, f⟩ := h
  have pair : ∀ l m : List Excuse, m.map Excuse.span = l.map Excuse.span → List.Forall₂ (fun x y : Excuse => y.span = x.span) l m := by
    intro l
    induction l with
    | nil => intro m hm; rw [List.map_eq_nil_iff.1 hm]; exact .nil
    | cons x l ih =>
      intro m hm
      cases m with
      | nil => simp at hm
      | cons y m =>
        simp only [List.map_cons, List.cons.injEq] at hm
        exact .cons hm.1 (ih m hm.2)
  have h2 := pair l m hs
  clear hs
  have key : ∀ x y : Excuse, y.span = x.span → y.pupil = x.pupil ∧ y.kind = x.kind ∧ y.first = x.first ∧ y.last = x.last := by
    intro x y h; simp only [Excuse.span, Prod.mk.injEq] at h; exact h
  have mem : ∀ {l m : List Excuse}, List.Forall₂ (fun x y : Excuse => y.span = x.span) l m → ∀ y ∈ m, ∃ x ∈ l, y.span = x.span := by
    intro l m h
    induction h with
    | nil => simp
    | cons h _ ih =>
      intro y hy
      rcases List.mem_cons.1 hy with rfl | hy
      · exact ⟨_, List.mem_cons_self, h⟩
      · obtain ⟨x, hx, e⟩ := ih y hy; exact ⟨x, List.mem_cons_of_mem _ hx, e⟩
  induction h2 with
  | nil => exact ⟨.nil, .nil, by simp⟩
  | @cons x y l m he hl ih =>
    obtain ⟨i1, i2, i3⟩ := ih o.of_cons a.of_cons fun z hz => f z (List.mem_cons_of_mem _ hz)
    obtain ⟨o1, _⟩ := List.pairwise_cons.1 o
    obtain ⟨a1, _⟩ := List.pairwise_cons.1 a
    obtain ⟨p, k, fi, la⟩ := key _ _ he
    refine ⟨.cons (fun z hz => ?_) i1, .cons (fun z hz => ?_) i2, fun z hz => ?_⟩
    · obtain ⟨w, hw, e⟩ := mem hl z hz
      obtain ⟨p', k', fi', la'⟩ := key _ _ e
      have := o1 w hw
      simpa [excuseBefore, p, k, fi, p', k', fi'] using this
    · obtain ⟨w, hw, e⟩ := mem hl z hz
      obtain ⟨p', k', fi', la'⟩ := key _ _ e
      have := a1 w hw
      simpa [Excuse.apart, p, k, fi, la, p', k', fi', la'] using this
    · rcases List.mem_cons.1 hz with rfl | hz
      · rw [fi, la]; exact f x List.mem_cons_self
      · exact i3 z hz

/-- What the laws look at but for the places of notices and the ring. -/
structure Rest where
  core : List Nat × List Nat × List (Nat × ExcuseKind × Nat × Nat) × List JournalRecord
  called : List Nat
  rollover : Option Rollover
  stations : List Station
  records : List ReplyRecord
  inFlight : Option Nat

def Device.rest (d : Device) : Rest :=
  ⟨d.ae.core, d.nu.calledToday.map (·.roll), d.tb.rollover, d.gb.stations, d.gb.records, d.gb.inFlight⟩

/-- What the laws look at in the places of notices and the ring. -/
structure Places where
  urgent : List Notice
  routine : List Notice
  bulk : List Notice
  awaiting : List Awaiting
  calls : List CallEntry
  ring : List RingEntry
  sendSeq : Nat
  readPos : Nat

def Device.places (d : Device) : Places :=
  ⟨d.nu.urgent, d.nu.routine, d.nu.bulk, d.nu.awaiting, d.nu.calls, d.rl.ring, d.rl.sendSeq, d.rl.readPos⟩

theorem PupilsHeldOnce.of_rest {d e : Device} (h : PupilsHeldOnce d) (hr : e.rest = d.rest) : PupilsHeldOnce e := by
  obtain ⟨a, b, c, en, bu⟩ := h
  simp only [Device.rest, Rest.mk.injEq, Attendance.core, Prod.mk.injEq] at hr
  obtain ⟨⟨h1, h2, _, _⟩, h3, h4, _⟩ := hr
  exact ⟨by rw [h1]; exact a, by rw [h2]; exact b, by rw [h3]; exact c, by rw [h1, h2]; exact en, by rw [h2, h4]; exact bu⟩

theorem VerdictsWithinFour.of_eq {g g' : GateBus} (h : VerdictsWithinFour g) (hs : g'.stations = g.stations)
    (hr : g'.records = g.records) (hf : g'.inFlight = g.inFlight) : VerdictsWithinFour g' := by
  have st : ∀ a, g'.station a = g.station a := fun a => by unfold GateBus.station; rw [hs]
  obtain ⟨a, b, c⟩ := h
  exact ⟨fun x hx => by rw [st]; exact a x hx, fun x hx => by rw [st, hr]; exact b x hx,
    fun x hx => by rw [st, hr]; exact c x (hf ▸ hx)⟩

/-- How often a stub stands in the places. -/
def Device.here (d : Device) (x : Stub) : Nat :=
  (d.nu.urgent.map Notice.stub).count x + (d.nu.routine.map Notice.stub).count x + (d.nu.bulk.map Notice.stub).count x +
  (d.rl.ring.map (·.notice.stub)).count x + (d.nu.awaiting.map (·.notice.stub)).count x +
  (d.nu.calls.filterMap (fun e => e.notice?.map Notice.stub)).count x

theorem count_stubs (d : Device) (x : Stub) : d.stubs.count x = d.here x := by
  unfold Device.stubs Device.placed Device.here NoticeUnit.queued
  simp only [List.map_append, List.count_append, List.map_map, List.map_filterMap, Function.comp_def]

/-- Notices move among the places and the transit, or close; the rest is as before. -/
theorem Laws.move {ex ex' : List Stub} {d e : Device} (h : Laws ex d) (lim : Limits e) (ring : RingInSequence e.rl)
    (hr : e.rest = d.rest) (hc : ∀ x, ex'.count x + e.here x ≤ ex.count x + d.here x) : Laws ex' e := by
  have hsub : (ex' ++ e.stubs).Subperm (ex ++ d.stubs) := by
    refine List.subperm_ext_iff.2 fun x _ => ?_
    rw [List.count_append, List.count_append, count_stubs, count_stubs]; exact hc x
  have hr' := hr
  simp only [Device.rest, Rest.mk.injEq, Attendance.core, Prod.mk.injEq] at hr'
  obtain ⟨⟨_, _, h3, _⟩, _, _, h4, h5, h6⟩ := hr'
  refine ⟨lim, ring, h.pupils.of_rest hr, excusesApart_spans h3 h.excuses, h.verdicts.of_eq h4 h5 h6, ?_, ?_⟩
  · obtain ⟨l, hl, hs⟩ := hsub
    exact (hl.map Prod.fst).nodup_iff.1 ((hs.map Prod.fst).nodup h.once)
  · exact fun p hp => h.fits p (hsub.subset hp)

/-- A change of nothing the laws look at. -/
theorem Laws.of_view {ex : List Stub} {d e : Device} (h : Laws ex d) (hr : e.rest = d.rest) (hp : e.places = d.places) : Laws ex e := by
  have hr' := hr
  simp only [Device.rest, Rest.mk.injEq, Attendance.core, Prod.mk.injEq] at hr'
  simp only [Device.places, Places.mk.injEq] at hp
  obtain ⟨p1, p2, p3, p4, p5, p6, p7, p8⟩ := hp
  refine h.move (h.lim.of_eq hr'.1.2.2.2 p1 p2 p3 p4 p5 p6) ?_ hr fun x => ?_
  · unfold RingInSequence; rw [p6, p7, p8]; exact h.ring
  · unfold Device.here; rw [p1, p2, p3, p4, p5, p6]

/-! ### The moves of notices -/

/-- A notice in transit closes. -/
theorem Laws.closed {p : Stub} {ex : List Stub} {d : Device} (h : Laws (p :: ex) d) : Laws ex d :=
  h.move h.lim h.ring rfl fun x => by rw [List.count_cons]; omega

/-- Taking a member out of a list leaves it beside the rest. -/
theorem count_taken {α : Type} (f : α → Stub) {l : List α} {p : α → Bool} {a : α} (ha : a ∈ l) (hp : p a = false) (x : Stub) :
    [f a].count x + ((l.filter p).map f).count x ≤ (l.map f).count x := by
  induction l with
  | nil => cases ha
  | cons b l ih =>
    have one : ∀ (b : α) (l : List α), ((b :: l).map f).count x = [f b].count x + (l.map f).count x := fun b l => by
      rw [List.map_cons, List.count_cons, List.count_singleton]; omega
    rw [one]
    rcases List.mem_cons.1 ha with rfl | ha
    · rw [List.filter_cons, if_neg (by simp [hp])]
      have := ((List.filter_sublist (l := l) (p := p)).map f).count_le x
      omega
    · have := ih ha
      rw [List.filter_cons]
      split
      · rw [one]; omega
      · omega

theorem count_kept {α : Type} (f : α → Stub) (l : List α) (p : α → Bool) (x : Stub) :
    ((l.filter p).map f).count x ≤ (l.map f).count x := ((List.filter_sublist (l := l) (p := p)).map f).count_le x

theorem leaveQueue_laws (tag : Nat) {ex : List Stub} {d : Device} (h : Laws ex d) : Laws ex (leaveQueue tag d) := by
  refine h.move (leaveQueue_limits tag h.lim) h.ring rfl fun x => ?_
  have hu := count_kept Notice.stub d.nu.urgent (·.tag != tag) x
  have hr := count_kept Notice.stub d.nu.routine (·.tag != tag) x
  have hb := count_kept Notice.stub d.nu.bulk (·.tag != tag) x
  simp only [Device.here, leaveQueue, queueFell, NoticeUnit.dequeue]; omega

/-- A queued notice taken out of the queue is in transit. -/
theorem leaveQueue_out {n : Notice} {ex : List Stub} {d : Device} (h : Laws ex d) (hn : n ∈ d.nu.queued) :
    Laws (n.stub :: ex) (leaveQueue n.tag d) := by
  refine h.move (leaveQueue_limits _ h.lim) h.ring rfl fun x => ?_
  have hu := count_kept Notice.stub d.nu.urgent (·.tag != n.tag) x
  have hr := count_kept Notice.stub d.nu.routine (·.tag != n.tag) x
  have hb := count_kept Notice.stub d.nu.bulk (·.tag != n.tag) x
  have out : ∀ {l : List Notice}, n ∈ l → [n.stub].count x + ((l.filter (·.tag != n.tag)).map Notice.stub).count x ≤
      (l.map Notice.stub).count x := fun hl => count_taken Notice.stub hl (by simp) x
  have hc : (n.stub :: ex).count x = [n.stub].count x + ex.count x := by
    rw [List.count_cons, List.count_singleton]; omega
  simp only [Device.here, leaveQueue, queueFell, NoticeUnit.dequeue]
  unfold NoticeUnit.queued at hn
  rw [hc]
  rcases List.mem_append.1 hn with hn | hn
  · rcases List.mem_append.1 hn with hn | hn
    · have := out hn; omega
    · have := out hn; omega
  · have := out hn; omega

theorem enqueue_laws {n : Notice} {ex : List Stub} {d : Device} (h : Laws (n.stub :: ex) d)
    (room : roomFor n.cls d.nu.queueCount = true) : Laws ex { d with nu := d.nu.enqueue n } := by
  refine h.move (enqueue_limits n h.lim room) h.ring ?_ fun x => ?_
  · unfold NoticeUnit.enqueue; split <;> rfl
  · rw [List.count_cons]
    unfold NoticeUnit.enqueue
    split <;> simp only [Device.here, List.map_append, List.count_append, List.map_cons, List.map_nil, List.count_cons, List.count_nil] <;>
      omega

/-- What a desk call entry holds of a notice. -/
def CallContent.stubs : CallContent → List Stub
  | .notice n _ _ => [n.stub]
  | .message _ _ _ _ _ _ _ => []
  | .parentUnaware _ _ => []

/-- A new desk call entry takes the notice it is about out of transit. -/
theorem addCall_laws (r : CallReason) (u : Bool) (c : CallContent) {ex : List Stub} {d : Device} (h : Laws (c.stubs ++ ex) d) :
    Laws ex (addCall r u c d) := by
  refine h.move (addCall_limits r u c h.lim) ?_ ?_ fun x => ?_
  · rw [(addCall_move r u c d).rl]; exact h.ring
  · unfold addCall; split <;> rfl
  · rw [List.count_append]
    unfold addCall; split
    · simp only [Device.here, Device.raise]; omega
    · have one : ∀ e : CallEntry, e.content = c →
          ([e].filterMap (fun e : CallEntry => e.notice?.map Notice.stub)).count x = c.stubs.count x := by
        intro e he; unfold CallEntry.notice? CallContent.stubs; subst he; cases hc : e.content <;> simp [hc]
      have split : ∀ p : CallEntry → Bool, (d.nu.calls.filterMap (fun e => e.notice?.map Notice.stub)).count x =
          ((d.nu.calls.filter p).filterMap (fun e => e.notice?.map Notice.stub)).count x +
          ((d.nu.calls.filter (!p ·)).filterMap (fun e => e.notice?.map Notice.stub)).count x := by
        intro p
        rw [← List.count_append, ← List.filterMap_append]
        exact ((List.filter_append_perm p d.nu.calls).filterMap _).symm.count_eq x
      have cons : ∀ (e : CallEntry) (l : List CallEntry), e :: l = [e] ++ l := fun _ _ => rfl
      cases u
      · simp only [Device.here, Device.raise, Bool.false_eq_true, if_false, List.filterMap_append, List.count_append]
        rw [one _ rfl]; omega
      · simp only [Device.here, Device.raise, if_true]
        rw [cons, List.filterMap_append, List.filterMap_append, List.count_append, List.count_append, one _ rfl]
        have := split (·.urgent); omega

theorem toCalls_laws (r : CallReason) (o : Option NoticeOutcome) {n : Notice} {ex : List Stub} {d : Device}
    (h : Laws (n.stub :: ex) d) : Laws ex (toCalls r o n d) := addCall_laws _ _ _ h

theorem submit_laws {n : Notice} {ex : List Stub} {d : Device} (h : Laws (n.stub :: ex) d) : Laws ex (submit n d) := by
  unfold submit; split
  · rename_i room; exact enqueue_laws h room
  · exact toCalls_laws _ _ h

/-! ### Composition -/

theorem RollsAscend.length_le {l : List Nat} (h : RollsAscend l) : l.length ≤ 2400 := by
  have hnd : l.Nodup := h.1.imp fun h => Nat.ne_of_lt h
  have hsub : l ⊆ List.range' 1 2400 := fun r hr => by
    have := h.2 r hr; rw [List.mem_range'_1]; omega
  simpa using (hnd.subperm hsub).length_le

/-- The laws leave a tag free: what is held is far fewer than the tags (R108). -/
theorem heldTags_few {ex : List Stub} {d : Device} (h : Laws ex d) : d.heldTags.length < Config.maxWord := by
  obtain ⟨⟨q, _, _⟩, _, ⟨r, _, _⟩, _, a, c⟩ := h.lim
  have h1 := h.pupils.roster.length_le
  have h2 := h.pupils.called.length_le
  have h3 : (d.nu.calls.filterMap fun e => e.notice?.map (·.tag)).length ≤ d.nu.calls.length := List.length_filterMap_le _ _
  have h4 : ((d.ae.roster.getD []).filterMap (·.absenceTag)).length ≤ (d.ae.roster.getD []).length := List.length_filterMap_le _ _
  unfold NoticeUnit.queueCount at q
  simp only [List.length_map] at h1 h2
  simp only [Device.heldTags, NoticeUnit.queued, List.length_append, List.length_map]
  simp only [Config.maxWord]; omega

theorem freeTag_free {ex : List Stub} {d : Device} (h : Laws ex d) : d.freeTag ∉ d.heldTags := by
  obtain ⟨k, _, h1, h2, _⟩ := firstFree_free d.heldTags d.nu.nextTag (heldTags_few h)
  unfold Device.freeTag; rw [h1]; exact h2

theorem held_of_stub {d : Device} {p : Stub} (hp : p ∈ d.stubs) : p.1 ∈ d.heldTags := by
  obtain ⟨n, hn, rfl⟩ := List.mem_map.1 hp
  simp only [Device.heldTags, List.mem_append, Notice.stub]
  simp only [Device.placed, List.mem_append] at hn
  rcases hn with ((hn | hn) | hn) | hn
  · exact .inl (.inl (.inl (.inl (.inl (List.mem_map_of_mem hn)))))
  · obtain ⟨r, hr, rfl⟩ := List.mem_map.1 hn
    exact .inl (.inl (.inl (.inl (.inr (List.mem_map.2 ⟨r, hr, rfl⟩)))))
  · obtain ⟨r, hr, rfl⟩ := List.mem_map.1 hn
    exact .inl (.inl (.inl (.inr (List.mem_map.2 ⟨r, hr, rfl⟩))))
  · obtain ⟨e, he, hn⟩ := List.mem_filterMap.1 hn
    exact .inl (.inl (.inr (List.mem_filterMap.2 ⟨e, he, by rw [hn]; rfl⟩)))

/-- A composed notice comes into transit with a tag no notice has (R108). -/
theorem composed_laws {d : Device} (b : NoticeBody) (p c k s y : Nat) (hb : b = .absentUnexplained → 1 ≤ p ∧ p ≤ 2400)
    (h : Laws [] d) : Laws [(d.newNotice b p c k s y).stub] (d.tagGiven d.freeTag) := by
  have h' : Laws [] (d.tagGiven d.freeTag) := h.of_view rfl rfl
  have hs : (d.tagGiven d.freeTag).stubs = d.stubs := rfl
  refine ⟨h'.lim, h'.ring, h'.pupils, h'.excuses, h'.verdicts, ?_, ?_⟩
  · rw [hs, List.singleton_append, List.map_cons, List.nodup_cons]
    refine ⟨fun hm => ?_, by simpa using h.once⟩
    obtain ⟨q, hq, he⟩ := List.mem_map.1 hm
    have := held_of_stub hq
    rw [he] at this
    exact freeTag_free h this
  · intro q hq
    rw [hs, List.singleton_append] at hq
    rcases List.mem_cons.1 hq with rfl | hq
    · exact (stub_fits _).2 hb
    · exact h.fits q (by simpa using hq)

theorem compose_laws (b : NoticeBody) (p c k s y : Nat) {d : Device} (hb : b = .absentUnexplained → 1 ≤ p ∧ p ≤ 2400)
    (h : Laws [] d) : Laws [] (compose b p c k s y d) := submit_laws (composed_laws b p c k s y hb h)

theorem composeNoContact_laws (b : NoticeBody) (p : Nat) {d : Device} (hb : b = .absentUnexplained → 1 ≤ p ∧ p ≤ 2400)
    (h : Laws [] d) : Laws [] (composeNoContact b p d) := toCalls_laws _ _ (composed_laws b p 0 0 0 d.tb.date hb h)

/-! ### The Attendance Engine -/

theorem onAe_laws {f : Attendance → Attendance} {ex : List Stub} {d : Device} (h : Laws ex d) (hf : (f d.ae).core = d.ae.core) :
    Laws ex (d.onAe f) := h.of_view (by simp [Device.rest, Device.onAe, hf]) rfl

/-- A change of the entry of a roll number that leaves it its roll number. -/
theorem onEntry_core' (roll : Nat) {f : RosterEntry → RosterEntry} (hf : ∀ e, e.roll = roll → (f e).roll = roll) (ae : Attendance) :
    (ae.onEntry roll f).core = ae.core := by
  unfold Attendance.onEntry Attendance.core
  cases ae.roster with
  | none => rfl
  | some l =>
    simp only [Option.map_some, Option.getD_some, List.map_map]
    refine Prod.ext rfl (Prod.ext (List.map_congr_left fun e _ => ?_) rfl)
    simp only [Function.comp_apply]; split
    · rename_i h; rw [beq_iff_eq] at h; rw [hf e h, h]
    · rfl

theorem onEntry_core (roll : Nat) {f : RosterEntry → RosterEntry} (hf : ∀ e, (f e).roll = e.roll) (ae : Attendance) :
    (ae.onEntry roll f).core = ae.core := onEntry_core' roll (fun e h => (hf e).trans h) ae

theorem roster_map_core {f : RosterEntry → RosterEntry} (hf : ∀ e, (f e).roll = e.roll) (ae : Attendance) :
    ({ ae with roster := ae.roster.map (·.map f) } : Attendance).core = ae.core := by
  unfold Attendance.core
  cases ae.roster with
  | none => rfl
  | some l =>
    simp only [Option.map_some, Option.getD_some, List.map_map]
    exact Prod.ext rfl (Prod.ext (List.map_congr_left fun e _ => hf e) rfl)

theorem excuses_map_core {f : Excuse → Excuse} (hf : ∀ x, (f x).span = x.span) (ae : Attendance) :
    ({ ae with excuses := ae.excuses.map f } : Attendance).core = ae.core := by
  unfold Attendance.core
  refine Prod.ext rfl (Prod.ext rfl (Prod.ext ?_ rfl))
  rw [List.map_map]; exact List.map_congr_left fun x _ => hf x

theorem markExcuse_core (roll : Nat) (r : ExcuseRef) (st : ExcuseState) (ae : Attendance) : (ae.markExcuse roll r st).core = ae.core :=
  excuses_map_core (fun x => by split <;> rfl) ae

theorem excuseTaken_core (x : Excuse) (st : RosterState) (ae : Attendance) : (ae.excuseTaken x st).core = ae.core :=
  (markExcuse_core _ _ _ _).trans (onEntry_core (f := fun e => { e with state := st, excuseRef := some x.ref }) _ (fun _ => rfl) _)

theorem pupils_map_core {f : Pupil → Pupil} (ae : Attendance) (hf : ∀ p ∈ ae.pupils, (f p).roll = p.roll) :
    ({ ae with pupils := ae.pupils.map f } : Attendance).core = ae.core := by
  unfold Attendance.core
  refine Prod.ext ?_ rfl
  rw [List.map_map]; exact List.map_congr_left hf

theorem onPupil_core (roll : Nat) {f : Pupil → Pupil} (hf : ∀ p, p.roll = roll → (f p).roll = roll) (ae : Attendance) :
    (ae.onPupil roll f).core = ae.core :=
  pupils_map_core ae fun p _ => by
    split
    · rename_i h; rw [beq_iff_eq] at h; rw [hf p h, h]
    · rfl

theorem applyAbsences_core (date : Nat) (ae : Attendance) : (applyAbsences date ae).core = ae.core := by
  unfold applyAbsences
  generalize List.filter _ _ = l
  induction l generalizing ae with
  | nil => rfl
  | cons x l ih =>
    simp only [List.foldl_cons]
    rw [ih]
    split
    · rfl
    · split
      · exact excuseTaken_core _ _ _
      · rfl

/-- A pupil's record is among the roll's, with a roll number of it. -/
theorem pupil_roll {ae : Attendance} {roll : Nat} {p : Pupil} (h : ae.pupil roll = some p) : p ∈ ae.pupils ∧ p.roll = roll := by
  refine ⟨List.mem_of_find?_eq_some h, ?_⟩
  have := List.find?_some h; simpa using this

theorem entry_listed {ae : Attendance} {roll : Nat} {e : RosterEntry} (h : ae.entry roll = some e) :
    e.roll ∈ (ae.roster.getD []).map (·.roll) := by
  unfold Attendance.entry at h
  cases hr : ae.roster with
  | none => rw [hr] at h; cases h
  | some l =>
    rw [hr] at h
    exact List.mem_map_of_mem (List.mem_of_find?_eq_some h)

theorem PupilsHeldOnce.entry_range {d : Device} (h : PupilsHeldOnce d) {roll : Nat} {e : RosterEntry} (he : d.ae.entry roll = some e) :
    1 ≤ e.roll ∧ e.roll ≤ 2400 := h.roster.2 _ (entry_listed he)

/-! ### Ascending tables -/

theorem ascend_filter {α : Type} {g : α → Nat} {l : List α} (p : α → Bool) (h : RollsAscend (l.map g)) :
    RollsAscend ((l.filter p).map g) := by
  have hs := (List.filter_sublist (l := l) (p := p)).map g
  exact ⟨h.1.sublist hs, fun r hr => h.2 r (hs.subset hr)⟩

theorem ascend_insert {α : Type} {g : α → Nat} {a : α} {l : List α} (h : RollsAscend (l.map g)) (hn : g a ∉ l.map g)
    (ha : 1 ≤ g a ∧ g a ≤ 2400) : RollsAscend ((insertBefore (fun a b => g a < g b) a l).map g) := by
  refine ⟨ascending_insert h.1 hn, fun r hr => ?_⟩
  obtain ⟨x, hx, rfl⟩ := List.mem_map.1 hr
  rcases (mem_insertBefore _ _ _ _).1 hx with rfl | hx
  · exact ha
  · exact h.2 _ (List.mem_map_of_mem hx)

/-- A member of a table taken out by its number is not in what is left. -/
theorem not_mem_others {α : Type} (g : α → Nat) (l : List α) (k : Nat) : k ∉ (l.filter (g · != k)).map g := by
  intro h
  obtain ⟨x, hx, he⟩ := List.mem_map.1 h
  have := (List.mem_filter.1 hx).2
  simp [he] at this

/-! ### The called-today record, the gates and the ring -/

/-- The called-today record changes. -/
theorem Laws.calledBy {ex : List Stub} {d : Device} (h : Laws ex d) (l : List CalledToday) (hl : RollsAscend (l.map (·.roll))) :
    Laws ex { d with nu.calledToday := l } := by
  obtain ⟨a, b, ⟨p1, p2, _, p4, p5⟩, x, v, o, f⟩ := h
  exact ⟨a.of_eq rfl rfl rfl rfl rfl rfl rfl, b, ⟨p1, p2, hl, p4, p5⟩, x, v, o, f⟩

theorem closeCalled_laws {n : Notice} (r : CalledReason) {ex : List Stub} {d : Device} (h : Laws (n.stub :: ex) d) :
    Laws (n.stub :: ex) (closeCalled n r d) := by
  unfold closeCalled; split
  · rename_i hn
    have hp := (stub_fits n).1 (h.fits n.stub (by simp)) hn.1
    exact h.calledBy _ (ascend_insert (g := CalledToday.roll) (ascend_filter _ h.pupils.called) (not_mem_others _ _ _) hp)
  · exact h

/-- The gates change. -/
theorem Laws.gates {ex : List Stub} {d : Device} (h : Laws ex d) (g : GateBus) (hg : VerdictsWithinFour g) :
    Laws ex { d with gb := g } := by
  obtain ⟨a, b, ⟨p1, p2, p3, p4, p5⟩, x, _, o, f⟩ := h
  exact ⟨a.of_eq rfl rfl rfl rfl rfl rfl rfl, b, ⟨p1, p2, p3, p4, p5⟩, x, hg, o, f⟩

theorem nth_default {α : Type} (l : List α) (a : Nat) (dflt : α) (ha : 1 ≤ a) (h : l.length < a) : nth l a dflt = dflt := by
  unfold nth
  rw [List.getD_eq_getElem?_getD, List.getElem?_eq_none (by omega)]; rfl

/-- A station's record is written: it reads so where there is one, and every other station as before. -/
theorem station_written (gb : GateBus) (a : Nat) (st : Station) (b : Nat) (hb : 1 ≤ b) :
    (({ gb with stations := setNth gb.stations a st } : GateBus).station b = gb.station b ∧ (a = b → gb.station b = Station.reset)) ∨
    a = b ∧ ({ gb with stations := setNth gb.stations a st } : GateBus).station b = st := by
  unfold GateBus.station
  by_cases h : a = b
  · subst h
    by_cases hl : a ≤ gb.stations.length
    · exact .inr ⟨rfl, nth_setNth_same _ _ _ _ hb hl⟩
    · refine .inl ⟨?_, fun _ => nth_default _ _ _ hb (by omega)⟩
      rw [nth_default _ _ _ hb (by rw [length_setNth]; omega), nth_default _ _ _ hb (by omega)]
  · by_cases h0 : a = 0
    · subst h0; exact .inl ⟨rfl, fun he => absurd he h⟩
    · exact .inl ⟨nth_setNth_other _ _ _ _ _ (by omega) hb h, fun he => absurd he h⟩

/-- A station's record is written with four verdicts at most, stored and owed, and none owed while its poll is in flight. -/
theorem VerdictsWithinFour.written {gb : GateBus} (h : VerdictsWithinFour gb) (a : Nat) (st : Station) (h1 : st.stored.length ≤ 4)
    (h2 : 1 ≤ a → st.owed.length + (gb.records.filter (·.station == a)).length ≤ 4) (h3 : gb.inFlight = some a → st.owed = []) :
    VerdictsWithinFour { gb with stations := setNth gb.stations a st } := by
  obtain ⟨s, o, p⟩ := h
  refine ⟨fun b hb => ?_, fun b hb => ?_, fun b hf => ?_⟩
  · rcases station_written gb a st b hb with ⟨e, _⟩ | ⟨_, e⟩
    · rw [e]; exact s b hb
    · rw [e]; exact h1
  · rcases station_written gb a st b hb with ⟨e, _⟩ | ⟨hab, e⟩
    · rw [e]; exact o b hb
    · rw [e]; subst hab; exact h2 hb
  · obtain ⟨hb, ho, hr⟩ := p b hf
    refine ⟨hb, ?_, hr⟩
    rcases station_written gb a st b hb with ⟨e, _⟩ | ⟨hab, e⟩
    · rw [e]; exact ho
    · rw [e]; subst hab; exact h3 hf

/-- Stations changed one by one keep the law where each forgets its verdicts. -/
theorem station_map_warm (gb : GateBus) (a : Nat) :
    ((nth (gb.stations.map Station.warm) a Station.reset).stored = []) ∧ (nth (gb.stations.map Station.warm) a Station.reset).owed = [] := by
  unfold nth
  rw [List.getD_eq_getElem?_getD, List.getElem?_map]
  cases gb.stations[a - 1]? <;> exact ⟨rfl, rfl⟩

/-- The rollover moves on where the build law allows it. -/
theorem Laws.rolls {ex : List Stub} {d : Device} (h : Laws ex d) (t : TimeBase)
    (ht : ∀ w, t.rollover = some w → w.step = 12 → w.cursor ≠ 1 → ∀ r ∈ (d.ae.roster.getD []).map (·.roll), r < w.cursor) :
    Laws ex { d with tb := t } := by
  obtain ⟨a, b, ⟨p1, p2, p3, p4, _⟩, x, v, o, f⟩ := h
  exact ⟨a.of_eq rfl rfl rfl rfl rfl rfl rfl, b, ⟨p1, p2, p3, p4, ht⟩, x, v, o, f⟩

/-- The rollover goes on to the start of a step, or ends. -/
theorem Laws.stepStart {ex : List Stub} {d : Device} (h : Laws ex d) (t : TimeBase) (ht : ∀ w, t.rollover = some w → w.cursor = 1) :
    Laws ex { d with tb := t } := h.rolls t fun w hw _ hc => absurd (ht w hw) hc

/-- A step other than the build moves its cursor. -/
theorem Laws.notBuild {ex : List Stub} {d : Device} (h : Laws ex d) (t : TimeBase) (ht : ∀ w, t.rollover = some w → w.step ≠ 12) :
    Laws ex { d with tb := t } := h.rolls t fun w hw hs _ => absurd hs (ht w hw)

/-- The excuse table changes. -/
theorem Laws.excusesBecome {ex : List Stub} {d : Device} (h : Laws ex d) (l : List Excuse) (hl : ExcusesApart l) :
    Laws ex { d with ae.excuses := l } := by
  obtain ⟨a, b, ⟨p1, p2, p3, p4, p5⟩, _, v, o, f⟩ := h
  exact ⟨a.of_eq rfl rfl rfl rfl rfl rfl rfl, b, ⟨p1, p2, p3, p4, p5⟩, hl, v, o, f⟩

theorem ringInSequence_nil (rl : RelayLink) (hr : rl.ring = []) (hp : rl.readPos < 128) : RingInSequence rl := by
  unfold RingInSequence; rw [hr]; exact ⟨.nil, by simp, by simp, hp⟩

/-- The ring is emptied with its notices in transit. -/
theorem Laws.ringOut {d : Device} (h : Laws [] d) (rl : RelayLink) (hr : rl.ring = []) (hp : rl.readPos < 128) :
    Laws (d.rl.ring.map (·.notice.stub)) { d with rl := rl } := by
  refine h.move (ring_emptied_limits h.lim rfl rfl rfl rfl rfl rfl hr) (ringInSequence_nil _ hr hp) rfl fun x => ?_
  simp only [Device.here, hr, List.map_nil, List.count_nil]; omega

/-- The ring is emptied, its notices closed with it. -/
theorem Laws.ringGone {d : Device} (h : Laws [] d) (rl : RelayLink) (hr : rl.ring = []) (hp : rl.readPos < 128) :
    Laws [] { d with rl := rl } := by
  have := h.ringOut rl hr hp
  exact this.move this.lim this.ring rfl fun x => by simp

/-- No roster is held, or an empty one. -/
theorem Laws.rosterGone {ex : List Stub} {d : Device} (h : Laws ex d) (ae : Attendance) (hr : ae.roster.getD [] = [])
    (hp : ae.pupils = d.ae.pupils) (hx : ae.excuses = d.ae.excuses) (hj : ae.journal = d.ae.journal) : Laws ex { d with ae := ae } := by
  obtain ⟨a, b, ⟨p1, _, p3, _, _⟩, x, v, o, f⟩ := h
  refine ⟨a.of_eq hj rfl rfl rfl rfl rfl rfl, b, ⟨?_, ?_, p3, ?_, ?_⟩, ?_, v, o, f⟩
  · show RollsAscend (ae.pupils.map _); rw [hp]; exact p1
  · show RollsAscend ((ae.roster.getD []).map _); rw [hr]; exact ⟨.nil, by simp⟩
  · show ∀ r ∈ (ae.roster.getD []).map _, _; rw [hr]; simp
  · show ∀ w, _ → _ → _ → ∀ r ∈ (ae.roster.getD []).map _, _; rw [hr]; simp
  · show ExcusesApart ae.excuses; rw [hx]; exact x

theorem ExcusesApart.sublist {l m : List Excuse} (h : ExcusesApart l) (hs : m.Sublist l) : ExcusesApart m :=
  ⟨h.1.sublist hs, h.2.1.sublist hs, fun x hx => h.2.2 x (hs.subset hx)⟩

end Sys2Proof.Machine
end

