-- ==== Sys2Proof/Laws/KeepCauses.lean ====
section
/-! SUPPORT. A cause once held is dropped only by STATUS and by a reset (R179, R181, R182): raising keeps every other cause, and so do
the sounders, the scanner and the moves of notices to the desk. -/
namespace Sys2Proof.Machine

/-- Raising a cause sets it and keeps the others. -/
theorem raise_holds (c x : Cause) (d : Device) : (d.raise c).op.holds x = (d.op.holds x || x == c) := by
  have h : ∀ (s : CauseSet), (s ||| c.bit).getLsbD x.index = (s.getLsbD x.index || x == c) := by
    intro s; rw [BitVec.getLsbD_or]; cases c <;> cases x <;> rfl
  exact h d.op.causes

@[simp] theorem raise_holds_same (c : Cause) (d : Device) : (d.raise c).op.holds c = true := by simp [raise_holds]

theorem raise_keeps {x : Cause} (c : Cause) {d : Device} (h : d.op.holds x = true) : (d.raise c).op.holds x = true := by
  simp [raise_holds, h]

/-! ### Sounders -/

theorem putZone_holds {c : Cause} (z : Nat) (v : ZoneSupervision) {d : Device} (h : d.op.holds c = true) :
    (d.putZone z v).op.holds c = true := by
  unfold Device.putZone; dsimp only; split
  · exact h
  · exact raise_keeps (d := { d with su.zones := setNth d.su.zones z v }) .zone h

theorem settleZone_holds {c : Cause} (was : Bool) (z : Nat) {d : Device} (h : d.op.holds c = true) :
    (d.settleZone was z).op.holds c = true := by
  unfold Device.settleZone; split
  · exact h
  · split
    · exact h
    · exact putZone_holds _ _ h

theorem settling_holds {c : Cause} (change : Device → Device) {d : Device} (h : (change d).op.holds c = true) :
    (settling change d).op.holds c = true :=
  foldl_inv (·.op.holds c = true) _ (fun _ _ hd => settleZone_holds _ _ hd) _ _ h

/-! ### The desk call list and the notices -/

theorem addCall_holds {c : Cause} (r : CallReason) (u : Bool) (x : CallContent) {d : Device} (h : d.op.holds c = true) :
    (addCall r u x d).op.holds c = true := by
  unfold addCall; split
  · exact raise_keeps _ h
  · exact raise_keeps (d := { d with nu.calls := _, nu.nextCall := _ }) _ h

theorem toCalls_holds {c : Cause} (r : CallReason) (o : Option NoticeOutcome) (n : Notice) {d : Device} (h : d.op.holds c = true) :
    (toCalls r o n d).op.holds c = true := addCall_holds _ _ _ h

theorem fallBackAll_holds {c : Cause} {d : Device} (h : d.op.holds c = true) : (fallBackAll d).op.holds c = true :=
  foldl_inv (·.op.holds c = true) _ (fun _ _ hd => toCalls_holds (d := leaveQueue _ _) _ _ _ hd) _ _ h

theorem returnNotices_holds {c : Cause} (l : List Notice) (u r b : Nat) {d : Device} (h : d.op.holds c = true) :
    (returnNotices l u r b d).op.holds c = true := by
  induction l generalizing u r b d with
  | nil => exact h
  | cons n l ih =>
    unfold returnNotices
    split <;> split
    · exact ih _ _ _ h
    · exact ih _ _ _ (toCalls_holds _ _ _ h)
    · exact ih _ _ _ h
    · exact ih _ _ _ (toCalls_holds _ _ _ h)
    · exact ih _ _ _ h
    · exact ih _ _ _ h

/-! ### The scanner -/

theorem onSlot_holds {c : Cause} (i : Nat) (f : PlanSlot → PlanSlot) {d : Device} (h : d.op.holds c = true) :
    (d.onSlot i f).op.holds c = true := by
  unfold Device.onSlot; split <;> exact h

theorem handClose_holds {c : Cause} (n k s m : Nat) {d : Device} (h : d.op.holds c = true) :
    (handClose n k s m d).op.holds c = true := by
  unfold handClose; dsimp only; split <;> exact h

theorem fireSlot_holds {c : Cause} (n i : Nat) (sl : PlanSlot) (sites : List Nat) {d : Device} (h : d.op.holds c = true) :
    (fireSlot n i sl sites d).op.holds c = true := by
  unfold fireSlot; dsimp only; split
  · exact settling_holds _ (onSlot_holds _ _ h)
  · exact settling_holds _ (onSlot_holds _ _ h)
  · exact onSlot_holds _ _ h
  · exact foldl_inv (·.op.holds c = true) _ (fun _ _ hd => handClose_holds _ _ _ _ hd) _ _ (onSlot_holds _ _ h)

theorem overSlots_holds {c : Cause} (f : Nat → PlanSlot → Device → Device)
    (hf : ∀ i sl d, d.op.holds c = true → (f i sl d).op.holds c = true) {d : Device} (h : d.op.holds c = true) :
    (overSlots f d).op.holds c = true :=
  foldl_inv (·.op.holds c = true) _ (fun d i hd => by
    split
    · exact hd
    · exact hf _ _ _ hd) _ _ h

theorem fireDue_holds {c : Cause} (sites : List Nat) (n : Nat) {d : Device} (h : d.op.holds c = true) :
    (fireDue sites n d).op.holds c = true :=
  overSlots_holds _ (fun i sl d hd => by
    split
    · exact hd
    · exact fireSlot_holds _ _ _ _ hd) h

theorem catchUp_holds {c : Cause} (sites : List Nat) (n : Nat) {d : Device} (h : d.op.holds c = true) :
    (catchUp sites n d).op.holds c = true :=
  overSlots_holds _ (fun i sl d hd => by
    split
    · exact hd
    · split
      · exact onSlot_holds _ _ hd
      · exact fireSlot_holds _ _ _ _ hd
      · exact fireSlot_holds _ _ _ _ hd
      · exact fireSlot_holds _ _ _ _ hd) h

theorem firePointsAt_holds {c : Cause} (sites : List Nat) (n : Nat) {d : Device} (h : d.op.holds c = true) :
    (firePointsAt sites n d).op.holds c = true :=
  foldl_inv (·.op.holds c = true) _ (fun d q hd => by split <;> exact hd) _ _ h

theorem topOfMinute_holds {c : Cause} {d : Device} (h : d.op.holds c = true) : (topOfMinute d).op.holds c = true := by
  unfold topOfMinute; split
  · exact firePointsAt_holds _ _ (fireDue_holds _ _ h)
  · exact h

theorem reassess_holds {c : Cause} (sites : List Nat) {d : Device} (h : d.op.holds c = true) :
    (reassess sites d).op.holds c = true := by
  unfold reassess; split
  · exact firePointsAt_holds _ _ (fireDue_holds _ _ (catchUp_holds _ _
      (foldl_inv (·.op.holds c = true) (fun acc (q : Nat × Nat × Nat) => firePoint q.2.1 q.2.2 acc) (fun _ _ hd => hd) _ _ h)))
  · exact h

theorem jumpNotice_holds {c : Cause} (old : Nat) {d : Device} (h : d.op.holds c = true) : (jumpNotice old d).op.holds c = true := by
  unfold jumpNotice; split
  · exact reassess_holds _ h
  · exact h

end Sys2Proof.Machine
end

