-- ==== Sys2Proof/Laws/KeepLaws.lean ====
section
/-! SUPPORT. Every operation keeps the laws of Safety.lean together, each said once. -/
namespace Sys2Proof.Machine

theorem raise_laws (c : Cause) {d : Device} (h : Laws [] d) : Laws [] (d.raise c) := h.of_view rfl rfl

/-! ### Sounders -/

theorem putZone_laws (z : Nat) (v : ZoneSupervision) {d : Device} (h : Laws [] d) : Laws [] (d.putZone z v) := by
  unfold Device.putZone; dsimp only; split <;> exact h.of_view rfl rfl
theorem checkZone_laws (z : Nat) {d : Device} (h : Laws [] d) : Laws [] (d.checkZone z) := putZone_laws _ _ h
theorem settleZone_laws (was : Bool) (z : Nat) {d : Device} (h : Laws [] d) : Laws [] (d.settleZone was z) := by
  unfold Device.settleZone; split
  · exact h
  · split
    · exact h.of_view rfl rfl
    · exact checkZone_laws _ (h.of_view rfl rfl)
theorem settling_laws (change : Device → Device) {d : Device} (h : Laws [] (change d)) : Laws [] (settling change d) :=
  foldl_inv (Laws []) _ (fun _ _ hd => settleZone_laws _ _ hd) _ _ h
theorem startPattern_laws (g i : Nat) {d : Device} (h : Laws [] d) : Laws [] (startPattern g i d) :=
  settling_laws _ (h.of_view rfl rfl)
theorem exchangeBanks_laws {d : Device} (h : Laws [] d) : Laws [] (exchangeBanks d) :=
  settling_laws _ (h.of_view rfl rfl)
theorem setValidity_laws (v : Validity) {d : Device} (h : Laws [] d) : Laws [] (setValidity v d) := by
  unfold setValidity; split
  · exact h
  · exact settling_laws _ (raise_laws _ (h.of_view rfl rfl))
theorem changeAlert_laws (f : Sounder → Sounder) {d : Device} (h : Laws [] d) : Laws [] (changeAlert f d) := by
  have hs : Laws [] (settling (fun d => { d with su := f d.su }) d) := settling_laws _ (h.of_view rfl rfl)
  unfold changeAlert; dsimp only; split
  · exact hs
  · exact raise_laws _ hs
theorem alertInputIs_laws (active : Bool) {d : Device} (h : Laws [] d) : Laws [] (alertInputIs active d) := by
  unfold alertInputIs; split
  · exact h
  · dsimp only; split
    · exact changeAlert_laws _ (h.of_view rfl rfl)
    · exact h.of_view rfl rfl
theorem paKeyIs_laws (held : Bool) {d : Device} (h : Laws [] d) : Laws [] (paKeyIs held d) :=
  settling_laws _ (h.of_view rfl rfl)
theorem setZone_laws (zs : ZoneSet) (z : Nat) {d : Device} (h : Laws [] d) : Laws [] (setZone zs z d) := by
  unfold setZone freeZone; split
  · exact h
  · split
    · exact h.of_view rfl rfl
    · exact putZone_laws _ _ h
theorem setSupervision_laws (zs : ZoneSet) {d : Device} (h : Laws [] d) : Laws [] (setSupervision zs d) :=
  foldl_inv (Laws []) _ (fun _ _ hd => setZone_laws _ _ hd) _ _ h
theorem idleCheck_laws (z : Nat) {d : Device} (h : Laws [] d) : Laws [] (idleCheck z d) := by
  unfold idleCheck; dsimp only; split
  · exact checkZone_laws _ (h.of_view rfl rfl)
  · exact h
theorem sampleInputs_laws (a k : Bool) {d : Device} (h : Laws [] d) : Laws [] (sampleInputs a k d) := by
  have ha : Laws [] (if a = true then changeAlert (Sounder.raised d.su.alertInputZones) d else d) := by
    split
    · exact changeAlert_laws _ h
    · exact h
  unfold sampleInputs; dsimp only; split
  · exact paKeyIs_laws _ ha
  · exact ha

/-! ### Notices -/

theorem composeLeftSite_laws (r : SignOut) (roll : Nat) {d : Device} (h : Laws [] d) : Laws [] (composeLeftSite r roll d) := by
  unfold composeLeftSite; split
  · exact compose_laws _ _ _ _ _ _ (fun h => by cases h) h
  · exact composeNoContact_laws _ _ (fun h => by cases h) h
theorem composeLateness_laws (b : NoticeBody) (hb : b ≠ .absentUnexplained) (roll : Nat) {d : Device} (h : Laws [] d) :
    Laws [] (composeLateness b roll d) := by
  unfold composeLateness; split
  · exact compose_laws _ _ _ _ _ _ (fun h => absurd h hb) h
  · exact h
theorem onEntry_laws (roll : Nat) {f : RosterEntry → RosterEntry} (hf : ∀ e, (f e).roll = e.roll) {ex : List Stub} {d : Device}
    (h : Laws ex d) : Laws ex (d.onAe (·.onEntry roll f)) := onAe_laws h (onEntry_core roll hf d.ae)
theorem takeReplyCode_laws (n : Notice) (code : Nat) {d : Device} (h : Laws [] d) : Laws [] (takeReplyCode n code d) := by
  unfold takeReplyCode; split
  · split
    · split
      · split
        · exact onEntry_laws (f := fun e => { e with state := .explained }) _ (fun _ => rfl) h
        · exact h
      · exact h
    · split
      · exact addCall_laws _ _ _ h
      · exact h
  · exact h
theorem retag_laws (roll old new : Nat) {d : Device} (h : Laws [] d) : Laws [] (retag roll old new d) :=
  onEntry_laws _ (fun e => by split <;> rfl) h
theorem unreachable_laws {n : Notice} {d : Device} (h : Laws [n.stub] d) : Laws [] (unreachable n d) := by
  have hb := (stub_fits n).1 (h.fits n.stub (by simp))
  unfold unreachable; split
  · exact h.closed
  · split
    · exact toCalls_laws _ _ h
    · split
      · dsimp only; split
        · exact retag_laws _ _ _ (compose_laws _ _ _ _ _ _ hb h.closed)
        · exact compose_laws _ _ _ _ _ _ hb h.closed
      · exact toCalls_laws _ _ h
theorem outcomeActs_laws (o : NoticeOutcome) {n : Notice} {d : Device} (h : Laws [n.stub] d) : Laws [] (outcomeActs o n d) := by
  cases o
  · exact (closeCalled_laws _ h).closed
  · exact takeReplyCode_laws _ _ (closeCalled_laws _ h).closed
  · exact unreachable_laws h
theorem leaveAwaiting_laws (tag : Nat) {ex : List Stub} {d : Device} (h : Laws ex d) : Laws ex (leaveAwaiting tag d) :=
  h.move (leaveAwaiting_limits tag h.lim) h.ring rfl fun x => by
    have := count_kept (·.notice.stub) d.nu.awaiting (·.notice.tag != tag) x
    simp only [Device.here, leaveAwaiting]; omega
/-- A notice that leaves the awaiting-outcome table is in transit. -/
theorem leaveAwaiting_out {w : Awaiting} {tag : Nat} {d : Device} (h : Laws [] d) (hw : d.nu.awaitingOf tag = some w) :
    Laws [w.notice.stub] (leaveAwaiting tag d) :=
  h.move (leaveAwaiting_limits tag h.lim) h.ring rfl fun x => by
    have := count_taken (fun w : Awaiting => w.notice.stub) (p := (·.notice.tag != tag)) (List.mem_of_find?_eq_some hw)
      (by have := List.find?_some hw; simpa using this) x
    simp only [Device.here, leaveAwaiting, List.count_nil]; omega
theorem receipt_laws {n : Notice} {d : Device} (h : Laws [n.stub] d) : Laws [] (receipt n d) := by
  have hl := receipt_limits n h.lim
  unfold receipt at hl ⊢; split
  · exact h.closed
  · exact h.closed
  · rename_i hc
    simp only [hc] at hl
    split
    · exact outcomeActs_laws _ (n := { n with kept := none }) h
    · rename_i hk
      simp only [hk] at hl
      split
      · rename_i hr
        rw [if_pos hr] at hl
        refine h.move hl h.ring rfl fun x => ?_
        simp only [Device.here, List.map_append, List.count_append, List.map_cons, List.map_nil, List.count_nil]; omega
      · exact (closeCalled_laws _ h).closed
theorem touchCall_laws (tag : Nat) {f : CallEntry → CallEntry} (hf : ∀ e, (f e).notice?.map Notice.stub = e.notice?.map Notice.stub)
    {d : Device} (h : Laws [] d) : Laws [] (touchCall tag f d) :=
  h.move (touchCall_limits tag f h.lim) h.ring rfl fun x => by
    have : (d.nu.calls.map fun e : CallEntry => if e.holdsTag tag then f e else e).filterMap (fun e => e.notice?.map Notice.stub) =
        d.nu.calls.filterMap (fun e => e.notice?.map Notice.stub) := by
      rw [List.filterMap_map]
      refine List.filterMap_congr fun e _ => ?_
      simp only [Function.comp_apply]; split
      · exact hf e
      · rfl
    simp only [Device.here, touchCall, Device.raise, this]; omega
theorem withOutcome_notice (o : NoticeOutcome) (e : CallEntry) : (e.withOutcome o).notice? = e.notice? := by
  unfold CallEntry.withOutcome CallEntry.notice?; cases h : e.content <;> simp [h]
theorem supersede_notice (e : CallEntry) : e.supersede.notice? = e.notice? := by
  unfold CallEntry.supersede CallEntry.notice?; cases h : e.content <;> simp [h]

/-- The ring's entries change within their notices, each notice the same by its stub. -/
theorem ring_map_laws {f : RingEntry → RingEntry} (hc : ∀ r, (f r).notice.cls = r.notice.cls)
    (hf : ∀ r, (f r).notice.stub = r.notice.stub ∧ (f r).seq = r.seq ∧ (f r).place = r.place) {ex : List Stub} {d : Device}
    (h : Laws ex d) : Laws ex { d with rl.ring := d.rl.ring.map f } := by
  refine h.move (ring_map_limits f hc h.lim) ?_ rfl fun x => ?_
  · obtain ⟨c, l, p, z⟩ := h.ring
    refine ⟨?_, fun r hr => ?_, fun i r hr => ?_, z⟩
    · rw [List.isChain_map]
      exact c.imp fun a b hab => by rw [(hf a).2.1, (hf b).2.1]; exact hab
    · simp only [List.getLast?_map, Option.map_eq_some_iff] at hr
      obtain ⟨q, hq, rfl⟩ := hr
      rw [(hf q).2.1]; exact l q hq
    · simp only [List.getElem?_map, Option.map_eq_some_iff] at hr
      obtain ⟨q, hq, rfl⟩ := hr
      rw [(hf q).2.2]; exact p i q hq
  · have : (d.rl.ring.map f).map (·.notice.stub) = d.rl.ring.map (·.notice.stub) := by
      rw [List.map_map]; exact List.map_congr_left fun r _ => (hf r).1
    simp only [Device.here, this]; omega

theorem takeOutcome_laws (t v c : Nat) {d : Device} (h : Laws [] d) : Laws [] (takeOutcome t v c d) := by
  unfold takeOutcome; split
  · exact h
  · split
    · rename_i hw; exact outcomeActs_laws _ (leaveAwaiting_out h hw)
    · split
      · exact ring_map_laws (fun r => by split <;> rfl) (fun r => by split <;> exact ⟨rfl, rfl, rfl⟩) h
      · split
        · exact touchCall_laws _ (fun e => by rw [withOutcome_notice]) h
        · exact h
theorem outcomeTimedOut_laws (t : Nat) {d : Device} (h : Laws [] d) : Laws [] (outcomeTimedOut t d) := by
  unfold outcomeTimedOut; split
  · exact h
  · rename_i hw
    dsimp only; split
    · exact leaveAwaiting_laws _ h
    · exact toCalls_laws _ _ (leaveAwaiting_out h hw)
theorem fallBack_laws {n : Notice} {d : Device} (h : Laws [] d) (hn : n ∈ d.nu.queued) : Laws [] (fallBack n d) :=
  toCalls_laws _ _ (leaveQueue_out h hn)
theorem toCalls_urgent (r : CallReason) (o : Option NoticeOutcome) (n : Notice) (d : Device) :
    (toCalls r o n d).nu.urgent = d.nu.urgent := by
  unfold toCalls addCall; split <;> rfl
theorem queue_tags {ex : List Stub} {d : Device} (h : Laws ex d) : (d.nu.urgent.map (·.tag)).Nodup := by
  have h1 : (d.placed.map (·.tag)).Nodup := by
    have ht : d.stubs.map Prod.fst = d.placed.map (·.tag) := by simp [Device.stubs, Notice.stub, Function.comp_def]
    have := h.once
    rw [List.map_append] at this
    rw [← ht]; exact (List.nodup_append.1 this).2.1
  refine h1.sublist (List.Sublist.map _ ?_)
  unfold Device.placed NoticeUnit.queued
  simp only [List.append_assoc]
  exact List.sublist_append_left _ _
theorem fallBackAll_laws {d : Device} (h : Laws [] d) : Laws [] (fallBackAll d) := by
  have key : ∀ (l : List Notice) (d : Device), Laws [] d → (l.map (·.tag)).Nodup → (∀ n ∈ l, n ∈ d.nu.urgent) →
      Laws [] (l.foldl (fun acc n => fallBack n acc) d) := by
    intro l
    induction l with
    | nil => exact fun d h _ _ => h
    | cons n l ih =>
      intro d h hnd hm
      rw [List.map_cons, List.nodup_cons] at hnd
      refine ih _ (fallBack_laws h ?_) hnd.2 fun m hml => ?_
      · unfold NoticeUnit.queued
        exact List.mem_append_left _ (List.mem_append_left _ (hm n List.mem_cons_self))
      · unfold fallBack; rw [toCalls_urgent]
        refine List.mem_filter.2 ⟨hm m (List.mem_cons_of_mem _ hml), ?_⟩
        have : m.tag ≠ n.tag := fun he => hnd.1 (he ▸ List.mem_map_of_mem hml)
        simpa using this
  have hs := List.filter_sublist (l := d.nu.urgent) (p := fun n => decide (d.nu.fallbackSeconds ≤ n.age))
  exact key _ d h ((queue_tags h).sublist (hs.map _)) fun n hn => hs.subset hn
theorem fallbackDue_laws (t : Nat) {d : Device} (h : Laws [] d) : Laws [] (fallbackDue t d) := by
  unfold fallbackDue; split
  · exact h
  · split
    · exact h
    · rename_i n hn
      have hq : n ∈ d.nu.queued := by
        unfold NoticeUnit.queued
        exact List.mem_append_left _ (List.mem_append_left _ (List.mem_of_find?_eq_some hn))
      have out : Laws [n.stub] (leaveQueue n.tag d) := leaveQueue_out h hq
      exact toCalls_laws (n := { n with age := max n.age d.nu.fallbackSeconds }) _ _ out

theorem count_insertAt (k : Nat) (n : Notice) (l : List Notice) (x : Stub) :
    ((insertAt k n l).map Notice.stub).count x = [n.stub].count x + (l.map Notice.stub).count x := by
  have hp : (insertAt k n l).Perm ([n] ++ l) := by
    unfold insertAt
    refine List.perm_middle.trans ?_
    rw [List.take_append_drop]; exact .refl _
  rw [(hp.map _).count_eq x, List.map_append, List.count_append]; rfl

theorem returnNotices_laws (l : List Notice) (u r b : Nat) {d : Device} (h : Laws (l.map Notice.stub) d) :
    Laws [] (returnNotices l u r b d) := by
  induction l generalizing u r b d with
  | nil => exact h
  | cons n l ih =>
    have hl := returnNotices_limits [n] u r b h.lim
    have hc : ∀ x, (n.stub :: l.map Notice.stub).count x = [n.stub].count x + (l.map Notice.stub).count x := fun x => by
      rw [List.count_cons, List.count_singleton]; omega
    have hm : Laws (n.stub :: l.map Notice.stub) d := h
    unfold returnNotices at hl ⊢
    split
    all_goals
      rename_i hcl
      simp only [hcl, returnNotices] at hl
      split
      · rename_i room
        rw [if_pos room] at hl
        refine ih _ _ _ (hm.move hl h.ring rfl fun x => ?_)
        simp only [Device.here, count_insertAt, hc]; omega
      · first
          | exact ih _ _ _ (toCalls_laws _ _ hm)
          | exact ih _ _ _ hm.closed

theorem composeArrived_laws (roll tag contact key step : Nat) {d : Device} (h : Laws [] d) :
    Laws [] (composeArrived roll tag contact key step d) := compose_laws _ _ _ _ _ _ (fun h => by cases h) h
theorem absenceRule_laws (a : Bool) (roll t : Nat) {d : Device} (h : Laws [] d) : Laws [] (absenceRule a roll t d) := by
  unfold absenceRule; split
  · exact leaveQueue_laws _ h
  · split
    · split
      · exact composeArrived_laws _ _ _ _ _ h
      · exact h
    · split
      · split
        · exact composeArrived_laws _ _ _ _ _ (leaveAwaiting_laws _ h)
        · exact leaveAwaiting_laws _ h
      · split
        · exact touchCall_laws _ (fun e => by rw [supersede_notice]) h
        · split
          · split
            · exact composeArrived_laws _ _ _ _ _ h
            · exact h
          · exact h
theorem absenceRuleFor_laws (a : Bool) (roll : Nat) (t : Option Nat) {d : Device} (h : Laws [] d) :
    Laws [] (absenceRuleFor a roll t d) := by
  unfold absenceRuleFor; split
  · exact h
  · exact absenceRule_laws _ _ _ h

/-! ### Excuses and the roster -/

theorem meets_iff (a b : Excuse) : a.meets b = true ↔ b.pupil = a.pupil ∧ b.kind = a.kind ∧ b.first ≤ a.last + 1 ∧ a.first ≤ b.last + 1 := by
  simp [Excuse.meets, and_assoc]

theorem foldl_min_spec (l : List Nat) (n : Nat) :
    l.foldl min n ≤ n ∧ (∀ m ∈ l, l.foldl min n ≤ m) ∧ (l.foldl min n = n ∨ l.foldl min n ∈ l) := by
  induction l generalizing n with
  | nil => exact ⟨Nat.le_refl _, by simp, .inl rfl⟩
  | cons a l ih =>
    obtain ⟨h1, h2, h3⟩ := ih (min n a)
    simp only [List.foldl_cons]
    refine ⟨by omega, fun m hm => ?_, ?_⟩
    · rcases List.mem_cons.1 hm with rfl | hm
      · omega
      · exact h2 m hm
    · rcases h3 with h3 | h3
      · rcases Nat.le_total n a with hna | hna
        · exact .inl (by rw [h3]; omega)
        · exact .inr (by rw [h3, Nat.min_eq_right hna]; exact List.mem_cons_self)
      · exact .inr (List.mem_cons_of_mem _ h3)

theorem foldl_max_spec (l : List Nat) (n : Nat) :
    n ≤ l.foldl max n ∧ (∀ m ∈ l, m ≤ l.foldl max n) ∧ (l.foldl max n = n ∨ l.foldl max n ∈ l) := by
  induction l generalizing n with
  | nil => exact ⟨Nat.le_refl _, by simp, .inl rfl⟩
  | cons a l ih =>
    obtain ⟨h1, h2, h3⟩ := ih (max n a)
    simp only [List.foldl_cons]
    refine ⟨by omega, fun m hm => ?_, ?_⟩
    · rcases List.mem_cons.1 hm with rfl | hm
      · omega
      · exact h2 m hm
    · rcases h3 with h3 | h3
      · rcases Nat.le_total n a with hna | hna
        · exact .inr (by rw [h3, Nat.max_eq_right hna]; exact List.mem_cons_self)
        · exact .inl (by rw [h3]; omega)
      · exact .inr (List.mem_cons_of_mem _ h3)

/-- Two different members of a list stand in a relation that its pairs have both ways round. -/
theorem pairwise_both {α : Type} {R : α → α → Prop} (symm : ∀ a b, R a b → R b a) {l : List α} (h : l.Pairwise R) {x y : α}
    (hx : x ∈ l) (hy : y ∈ l) (hne : x ≠ y) : R x y := by
  induction h with
  | nil => cases hx
  | cons h1 _ ih =>
    rcases List.mem_cons.1 hx with hx' | hx'
    · rcases List.mem_cons.1 hy with hy' | hy'
      · exact absurd (hx'.trans hy'.symm) hne
      · rw [hx']; exact h1 _ hy'
    · rcases List.mem_cons.1 hy with hy' | hy'
      · rw [hy']; exact symm _ _ (h1 _ hx')
      · exact ih hx' hy'

/-- The merged entry lies apart from every entry it was not merged with (R92, R93). -/
theorem merged_apart {new : Excuse} {table : List Excuse} (hn : new.first ≤ new.last) (h : ExcusesApart table) :
    (∀ y ∈ table.filter (!new.meets ·), (mergedIn new table).apart y) ∧ (mergedIn new table).first ≤ (mergedIn new table).last := by
  obtain ⟨_, ha, hf⟩ := h
  have hlo := foldl_min_spec ((table.filter new.meets).map (·.first)) new.first
  have hhi := foldl_max_spec ((table.filter new.meets).map (·.last)) new.last
  have e1 : (mergedIn new table).first = ((table.filter new.meets).map (·.first)).foldl min new.first := rfl
  have e2 : (mergedIn new table).last = ((table.filter new.meets).map (·.last)).foldl max new.last := rfl
  rw [← e1] at hlo; rw [← e2] at hhi
  refine ⟨fun y hy => ?_, by omega⟩
  obtain ⟨hyt, hym⟩ := List.mem_filter.1 hy
  intro hp hk
  have hp : new.pupil = y.pupil := hp
  have hk : new.kind = y.kind := hk
  have hyf := hf y hyt
  have hyn : ¬ (y.first ≤ new.last + 1 ∧ new.first ≤ y.last + 1) := fun hh => by
    have := (meets_iff new y).2 ⟨hp.symm, hk.symm, hh.1, hh.2⟩
    rw [this] at hym; cases hym
  have far : ∀ x ∈ table.filter new.meets, (x.last + 1 < y.first ∨ y.last + 1 < x.first) ∧ x.first ≤ new.last + 1 ∧
      new.first ≤ x.last + 1 ∧ x.first ≤ x.last := fun x hx => by
    obtain ⟨hxt, hxm⟩ := List.mem_filter.1 hx
    obtain ⟨q1, q2, q3, q4⟩ := (meets_iff new x).1 hxm
    refine ⟨?_, q3, q4, hf x hxt⟩
    have hne : x ≠ y := fun he => by subst he; rw [hxm] at hym; cases hym
    exact pairwise_both (fun a b h hp hk => (h hp.symm hk.symm).symm) ha hxt hyt hne (q1.trans hp) (q2.trans hk)
  by_contra hc
  have lo : (mergedIn new table).first = new.first ∨ ∃ x ∈ table.filter new.meets, (mergedIn new table).first = x.first := by
    rcases hlo.2.2 with h | h
    · exact .inl h
    · obtain ⟨x, hx, he⟩ := List.mem_map.1 h; exact .inr ⟨x, hx, he.symm⟩
  have hi : (mergedIn new table).last = new.last ∨ ∃ x ∈ table.filter new.meets, (mergedIn new table).last = x.last := by
    rcases hhi.2.2 with h | h
    · exact .inl h
    · obtain ⟨x, hx, he⟩ := List.mem_map.1 h; exact .inr ⟨x, hx, he.symm⟩
  rcases lo with lo | ⟨x, hx, lo⟩ <;> rcases hi with hi | ⟨z, hz, hi⟩
  · omega
  · have := far z hz; omega
  · have := far x hx; omega
  · have := far x hx; have := far z hz; omega

theorem excuseBefore_asymm (a b : Excuse) (h : excuseBefore a b = true) : excuseBefore b a = false := by
  simp only [excuseBefore, Bool.or_eq_true, Bool.and_eq_true, decide_eq_true_eq, beq_iff_eq] at h
  simp only [excuseBefore, Bool.or_eq_false_iff, Bool.and_eq_false_imp, decide_eq_false_iff_not, beq_iff_eq]
  omega

theorem excuseBefore_trans (a b c : Excuse) (h1 : excuseBefore a b = true) (h2 : excuseBefore b c = true) : excuseBefore a c = true := by
  simp only [excuseBefore, Bool.or_eq_true, Bool.and_eq_true, decide_eq_true_eq, beq_iff_eq] at *
  omega

/-- Recording an excuse keeps the table in order and its entries apart (R92, R93). -/
theorem recordIn_apart {new : Excuse} {table : List Excuse} (hn : new.first ≤ new.last) (h : ExcusesApart table) :
    ExcusesApart (recordIn new table) := by
  obtain ⟨hm, hf⟩ := merged_apart hn h
  obtain ⟨o, a, f⟩ := h
  have hsub := List.filter_sublist (l := table) (p := (!new.meets ·))
  have hperm := insertBefore_perm excuseBefore (mergedIn new table) (table.filter (!new.meets ·))
  refine ⟨insertBefore_inOrder excuseBefore_asymm excuseBefore_trans _ (o.sublist hsub), ?_, fun x hx => ?_⟩
  · refine (List.Perm.pairwise_iff (fun {x y} hxy hp hk => (hxy hp.symm hk.symm).symm) hperm).2 ?_
    exact .cons hm (a.sublist hsub)
  · rcases (mem_insertBefore _ _ _ _).1 hx with rfl | hx
    · exact hf
    · exact f x (hsub.subset hx)

theorem recordExcuse_laws {x : Excuse} (hx : x.first ≤ x.last) {d : Device} (h : Laws [] d) : Laws [] (recordExcuse x d) := by
  have h1 := h.excusesBecome _ (recordIn_apart hx h.excuses)
  refine onEntry_laws (d := { d with ae.excuses := recordIn x d.ae.excuses }) x.pupil (fun e => ?_) h1
  split
  · rfl
  · split <;> rfl
theorem applyExcuse_laws (x : Excuse) {d : Device} (h : Laws [] d) : Laws [] (applyExcuse x d).2 := by
  unfold applyExcuse; split
  · exact h
  · split
    · exact h
    · dsimp only; split
      · exact absenceRuleFor_laws _ _ _ (onAe_laws h (excuseTaken_core _ _ _))
      · exact onAe_laws h (excuseTaken_core _ _ _)
theorem recordAndApply_laws {x : Excuse} (hx : x.first ≤ x.last) {d : Device} (h : Laws [] d) : Laws [] (recordAndApply x d).2 :=
  applyExcuse_laws _ (recordExcuse_laws hx h)
theorem recordAll_laws {l : List Excuse} (hl : ∀ x ∈ l, x.first ≤ x.last) {d : Device} (h : Laws [] d) : Laws [] (recordAll l d).2 := by
  induction l generalizing d with
  | nil => exact h
  | cons x l ih =>
    exact ih (fun y hy => hl y (List.mem_cons_of_mem _ hy)) (recordAndApply_laws (hl x List.mem_cons_self) h)
theorem changeDayKind_laws (c : Bool) {d : Device} (h : Laws [] d) : Laws [] (changeDayKind c d) := by
  unfold changeDayKind; split
  · exact onAe_laws h (roster_map_core (fun e => by unfold RosterEntry.toClosedDay; split <;> rfl) _)
  · refine onAe_laws h ((applyAbsences_core _ _).trans (roster_map_core (fun e => ?_) _))
    unfold Attendance.openedEntry; split
    · split
      · rfl
      · unfold RosterEntry.toSchoolDay; split
        · split <;> rfl
        all_goals rfl
    · rfl
theorem sweepOn_core (kind : SweepKind) (k s : Nat) (ae : Attendance) : (ae.sweepOn kind k s).core = ae.core := by
  unfold Attendance.sweepOn; split
  · rfl
  · split <;> rfl
theorem closeStep_laws (k s : Nat) {d : Device} (h : Laws [] d) : Laws [] (closeStep k s d) := by
  unfold closeStep; split
  · exact h
  · exact onAe_laws h ((sweepOn_core _ _ _ _).trans (onEntry_core _ (fun e => by split <;> rfl) _))
theorem confirmEntry_laws (k s : Nat) {e : RosterEntry} {d : Device} (h : Laws [] d) (he : 1 ≤ e.roll ∧ e.roll ≤ 2400) :
    Laws [] (confirmEntry k s e d) := by
  have on : ∀ {d : Device}, Laws [] d → Laws [] (d.onAe (·.sweepOn .confirm k s)) := fun h => onAe_laws h (sweepOn_core _ _ _ _)
  unfold confirmEntry; dsimp only; split
  · exact on (onAe_laws h (excuseTaken_core _ _ _))
  · split
    · split
      · exact on (onEntry_laws (f := RosterEntry.confirmed d.freeTag) _ (fun _ => rfl) (compose_laws _ _ _ _ _ _ (fun _ => he) h))
      · exact onAe_laws h rfl
    · exact on (onEntry_laws (f := RosterEntry.confirmed d.freeTag) _ (fun _ => rfl) (composeNoContact_laws _ _ (fun _ => he) h))
theorem confirmStep_laws (k s : Nat) {d : Device} (h : Laws [] d) : Laws [] (confirmStep k s d) := by
  unfold confirmStep; split
  · exact h
  · split
    · split
      · exact onAe_laws h (sweepOn_core _ _ _ _)
      · rename_i he
        split
        · exact confirmEntry_laws _ _ h (h.pupils.entry_range he)
        · exact onAe_laws h (sweepOn_core _ _ _ _)
    · exact h

/-! ### The scanner -/

theorem onSlot_laws (i : Nat) (f : PlanSlot → PlanSlot) {d : Device} (h : Laws [] d) : Laws [] (d.onSlot i f) := by
  unfold Device.onSlot; split
  · exact h
  · exact h.of_view rfl rfl
theorem firePoint_laws (k s : Nat) {d : Device} (h : Laws [] d) : Laws [] (firePoint k s d) := h.of_view rfl rfl
theorem handClose_laws (n k s m : Nat) {d : Device} (h : Laws [] d) : Laws [] (handClose n k s m d) := by
  have hc : Laws [] (registrationClose k s d) := h.of_view rfl rfl
  unfold handClose; dsimp only; split
  · exact firePoint_laws _ _ hc
  · exact hc.of_view rfl rfl
theorem fireSlot_laws (n i : Nat) (sl : PlanSlot) (sites : List Nat) {d : Device} (h : Laws [] d) :
    Laws [] (fireSlot n i sl sites d) := by
  have hm := onSlot_laws i (fun sl => { sl with fired := withSites sl.fired sites }) h
  unfold fireSlot; dsimp only; split
  · exact startPattern_laws _ _ hm
  · exact exchangeBanks_laws hm
  · exact hm
  · exact foldl_inv (Laws []) _ (fun _ _ hd => handClose_laws _ _ _ _ hd) _ _ hm
theorem overSlots_laws (f : Nat → PlanSlot → Device → Device) (hf : ∀ i sl d, Laws [] d → Laws [] (f i sl d)) {d : Device}
    (h : Laws [] d) : Laws [] (overSlots f d) :=
  foldl_inv (Laws []) _ (fun d i hd => by
    split
    · exact hd
    · exact hf _ _ _ hd) _ _ h
theorem fireDue_laws (sites : List Nat) (n : Nat) {d : Device} (h : Laws [] d) : Laws [] (fireDue sites n d) :=
  overSlots_laws _ (fun i sl d hd => by
    split
    · exact hd
    · exact fireSlot_laws _ _ _ _ hd) h
theorem catchUp_laws (sites : List Nat) (n : Nat) {d : Device} (h : Laws [] d) : Laws [] (catchUp sites n d) :=
  overSlots_laws _ (fun i sl d hd => by
    split
    · exact hd
    · split
      · exact onSlot_laws _ _ hd
      · exact fireSlot_laws _ _ _ _ hd
      · exact fireSlot_laws _ _ _ _ hd
      · exact fireSlot_laws _ _ _ _ hd) h
theorem firePointsAt_laws (sites : List Nat) (n : Nat) {d : Device} (h : Laws [] d) : Laws [] (firePointsAt sites n d) :=
  foldl_inv (Laws []) _ (fun d q hd => by
    split
    · exact firePoint_laws _ _ hd
    · exact hd) _ _ h
theorem topOfMinute_laws {d : Device} (h : Laws [] d) : Laws [] (topOfMinute d) := by
  unfold topOfMinute; split
  · exact firePointsAt_laws _ _ (fireDue_laws _ _ h)
  · exact h
theorem reassess_laws (sites : List Nat) {d : Device} (h : Laws [] d) : Laws [] (reassess sites d) := by
  unfold reassess; split
  · exact firePointsAt_laws _ _ (fireDue_laws _ _ (catchUp_laws _ _
      (foldl_inv (Laws []) _ (fun _ _ hd => firePoint_laws _ _ hd) _ _ h)))
  · exact h
theorem jumpNotice_laws (old : Nat) {d : Device} (h : Laws [] d) : Laws [] (jumpNotice old d) := by
  unfold jumpNotice; split
  · exact reassess_laws _ h
  · exact h

/-! ### Arrivals and messages -/

theorem appendJournal_laws (r : JournalRecord) {d : Device} (h : Laws [] d) : Laws [] (appendJournal r d) := by
  obtain ⟨l, rg, ⟨p1, p2, p3, p4, p5⟩, x, v, o, f⟩ := h
  exact ⟨appendJournal_limits r l, rg, ⟨p1, p2, p3, p4, p5⟩, x, v, o, f⟩
theorem askLateRecorded_laws (e : RosterEntry) (b : Band) (m : Nat) {d : Device} (h : Laws [] d) :
    Laws [] (askLateRecorded e b m d) := by
  unfold askLateRecorded; split
  · exact h
  · split
    · exact composeLateness_laws _ (by simp) _ h
    · exact h
theorem askLatePattern_laws (roll : Nat) (b : Band) (o n : Nat) {d : Device} (h : Laws [] d) :
    Laws [] (askLatePattern roll b o n d) := by
  unfold askLatePattern; split
  · exact composeLateness_laws _ (by simp) _ h
  · exact h
theorem judgedNotices_laws (e : RosterEntry) (b : Band) (m o n : Nat) {d : Device} (h : Laws [] d) :
    Laws [] (judgedNotices e b m o n d) := by
  have hf : Laws [] (if e.state.notified = true then absenceRuleFor true e.roll e.absenceTag d else d) := by
    split
    · exact absenceRuleFor_laws _ _ _ h
    · exact h
  unfold judgedNotices; dsimp only; split
  · exact askLatePattern_laws _ _ _ _ (askLateRecorded_laws _ _ _ hf)
  · exact hf
theorem judgedEntry_core (e : RosterEntry) (b : Band) (a : Nat) (x : Option Excuse) (ae : Attendance) :
    (judgedEntry e b a x ae).core = ae.core := by
  have moved := onEntry_core (f := fun e => { e with state := b.rosterState, band := some b, arrivalSecond := some a }) e.roll
    (fun _ => rfl) ae
  have marked : (match e.overridden with
      | some r => (ae.onEntry e.roll fun e => { e with state := b.rosterState, band := some b, arrivalSecond := some a }).markExcuse
          e.roll r .overridden
      | none => ae.onEntry e.roll fun e => { e with state := b.rosterState, band := some b, arrivalSecond := some a }).core =
      ae.core := by
    split
    · exact (markExcuse_core _ _ _ _).trans moved
    · exact moved
  unfold judgedEntry; dsimp only
  split
  · rename_i y
    split
    · exact marked
    · exact (onEntry_core (f := fun e => { e with excuseRef := some y.ref }) _ (fun _ => rfl) _).trans
        ((markExcuse_core _ _ _ _).trans marked)
  · exact marked
theorem plainArrival_laws (a : Arrival) (v : Verdict) {e after : RosterEntry} (he : after.roll = e.roll) {d : Device} (h : Laws [] d) :
    Laws [] (plainArrival a v e after d).2 :=
  appendJournal_laws _ (onAe_laws h (onEntry_core' (f := fun _ => after) e.roll (fun _ _ => he) d.ae))
theorem takeArrival_laws (a : Arrival) {d : Device} (h : Laws [] d) : Laws [] (takeArrival a d).2 := by
  unfold takeArrival; split
  · exact appendJournal_laws _ h
  · split
    · exact appendJournal_laws _ h
    · rename_i p _ _ e _
      unfold timedArrival; split
      · split
        · exact judgedNotices_laws _ _ _ _ _ (appendJournal_laws _ (onAe_laws h
            ((onPupil_core (f := fun _ => p.tallied _ _) p.roll (fun _ _ => rfl) _).trans (judgedEntry_core _ _ _ _ _))))
        · refine plainArrival_laws _ _ ?_ h
          unfold unjudgedIn; split <;> rfl
      · split
        · have hs : Laws [] (d.onAe (·.onEntry e.roll (RosterEntry.signedOut a.reason))) :=
            onEntry_laws (f := RosterEntry.signedOut a.reason) _ (fun _ => rfl) h
          unfold signOutArrival; dsimp only; split
          · exact appendJournal_laws _ (onAe_laws hs (excuseTaken_core _ _ _))
          · exact composeLeftSite_laws _ _ (appendJournal_laws _ hs)
        · exact plainArrival_laws _ _ rfl h
theorem acknowledge_laws (c : AckCode) (m : ParentMessage) (x f l : Nat) {d : Device} (h : Laws [] d) :
    Laws [] (acknowledge c m x f l d) := compose_laws _ _ _ _ _ _ (fun h => by cases h) h
theorem messageCall_laws (r : CallReason) (u : Bool) (c : Nat) (m : ParentMessage) {d : Device} (h : Laws [] d) :
    Laws [] (messageCall r u c m d) := addCall_laws _ _ _ h
theorem takeFreeText_laws (m : ParentMessage) (c : Nat) (p : Bool) {d : Device} (h : Laws [] d) :
    Laws [] (takeFreeText m c p d) := acknowledge_laws _ _ _ _ _ (messageCall_laws _ _ _ _ h)
/-- An excuse a message makes runs from its first day to its last, today being a day of the calendar (Table 6-3). -/
theorem excuseMade_runs {today : Nat} (ht : today ≤ Config.lastDay) {m : ParentMessage} {c : Contact} {p : Nat} {x : Excuse}
    (h : excuseMade today m c p = some x) : x.first ≤ x.last := by
  unfold excuseMade at h
  split at h
  · cases h; exact Nat.le_refl _
  · cases h
    simp only [lastAbsentDay, takenDays, clampNat, Config.lastDay] at ht ⊢
    omega
  · cases h; exact Nat.le_refl _
  · cases h; exact Nat.le_refl _
  · cases h
theorem takeExcusing_laws (m : ParentMessage) (c : Contact) {d : Device} (hd : d.tb.date ≤ Config.lastDay) (h : Laws [] d) :
    Laws [] (takeExcusing m c d) := by
  unfold takeExcusing; split
  · exact acknowledge_laws _ _ _ _ _ (messageCall_laws _ _ _ _ h)
  · rename_i news hr
    refine acknowledge_laws _ _ _ _ _ (recordAll_laws (fun x hx => ?_) h)
    unfold Device.recordable at hr
    split at hr
    · cases hr
    · rename_i l hl
      split at hr
      · cases hr
      · cases hr
        have hm : some x ∈ (targets m.roll c).map (excuseMade d.tb.date m c) := by
          rw [decodeAll_some hl]; exact List.mem_map_of_mem hx
        obtain ⟨p, _, hp⟩ := List.mem_map.1 hm
        exact excuseMade_runs hd hp
theorem takeMessage_laws (m : ParentMessage) {d : Device} (hd : d.tb.date ≤ Config.lastDay) (h : Laws [] d) :
    Laws [] (takeMessage m d) := by
  unfold takeMessage; split
  · split
    · exact takeFreeText_laws _ _ _ h
    · exact acknowledge_laws _ _ _ _ _ h
  · split
    · exact takeFreeText_laws _ _ _ h
    · split
      · exact acknowledge_laws _ _ _ _ _ h
      · split
        · exact acknowledge_laws _ _ _ _ _ (messageCall_laws _ _ _ _ h)
        · exact takeExcusing_laws _ _ hd h
theorem takeContent_laws (c : MsgContent) {d : Device} (hd : d.tb.date ≤ Config.lastDay) (h : Laws [] d) :
    Laws [] (takeContent c d) := by
  cases c
  · exact takeMessage_laws _ hd h
  · exact takeOutcome_laws _ _ _ h
  · exact h

/-! ### The relay line -/

theorem retireOne_laws {d : Device} (h : Laws [] d) : Laws [] (retireOne d) := by
  unfold retireOne; split
  · exact h
  · rename_i r rest hr
    have hl : Limits { d with rl.ring := rest, rl.readPos := (d.rl.readPos + 1) % Config.placeModulus } := by
      obtain ⟨q, g, ⟨r1, r2, r3⟩, j, a, c⟩ := h.lim
      unfold ringNotUrgent at r2
      unfold ringBulkCount at r3
      rw [hr] at r1 r2 r3
      refine ⟨q, g, ⟨?_, ?_, ?_⟩, j, a, c⟩
      · simp at r1 ⊢; omega
      · exact Nat.le_trans ((List.sublist_cons_self r rest).filter _).length_le r2
      · exact Nat.le_trans ((List.sublist_cons_self r rest).filter _).length_le r3
    refine receipt_laws (h.move hl ?_ rfl fun x => ?_)
    · obtain ⟨c, l, p, z⟩ := h.ring
      rw [hr] at c l p
      refine ⟨c.tail, fun q hq => l q ?_, fun i q hq => ?_, Nat.mod_lt _ (by decide)⟩
      · cases rest with
        | nil => simp at hq
        | cons b rest => rw [List.getLast?_cons_cons]; exact hq
      · have := p (i + 1) q (by simpa using hq)
        rw [this]; simp only [Config.placeModulus]; omega
    · simp only [Device.here, hr, List.map_cons, List.count_cons, List.count_nil]; omega
theorem retire_laws (k : Nat) {d : Device} (h : Laws [] d) : Laws [] (retire k d) := by
  induction k generalizing d with
  | zero => exact h
  | succ k ih => exact ih (retireOne_laws h)
theorem applyMark_laws (m : Nat) {d : Device} (h : Laws [] d) : Laws [] (applyMark m d) := by
  unfold applyMark; split
  · exact retire_laws _ h
  · exact h
theorem takeMark_laws (m : Nat) {d : Device} (h : Laws [] d) : Laws [] (takeMark m d) := by
  unfold takeMark; split
  · exact h.of_view rfl rfl
  · exact applyMark_laws _ h
theorem send_laws (f : RelayFrame) (m : Nat) {d : Device} (h : Laws [] d) : Laws [] (send f m d) :=
  h.of_view rfl rfl
theorem dispatch_laws {n : Notice} {d : Device} (h : Laws [] d) (hn : n ∈ d.nu.queued)
    (room : ringRoom n.cls d.rl.occupancy = true) : Laws [] (dispatch n d) := by
  have out := leaveQueue_out h hn
  refine out.move (dispatch_limits n h.lim room) ?_ rfl fun x => ?_
  · obtain ⟨c, l, p, z⟩ := h.ring
    refine ⟨?_, fun r hr => ?_, fun i r hr => ?_, z⟩
    · refine List.isChain_append.2 ⟨c, .singleton _, fun a ha b hb => ?_⟩
      simp only [List.head?_cons, Option.mem_def, Option.some.injEq] at hb
      subst hb
      rw [l a ha]
    · have hr : (d.rl.ring ++ [_]).getLast? = some r := hr
      rw [List.getLast?_append] at hr
      simp only [List.getLast?_singleton, Option.some_or, Option.some.injEq] at hr
      subst hr; rfl
    · have hr : (d.rl.ring ++ [_])[i]? = some r := hr
      rw [List.getElem?_append] at hr
      split at hr
      · exact p i r hr
      · rename_i hi
        obtain ⟨hz, he⟩ := List.getElem?_eq_some_iff.1 hr
        simp only [List.length_singleton] at hz
        simp only [List.getElem_singleton] at he
        subst he
        show (d.rl.writePos + 1) % Config.placeModulus = (d.rl.readPos + i + 1) % 128
        simp only [RelayLink.writePos, Config.placeModulus]
        omega
  · simp only [Device.here, dispatch, send, leaveQueue, queueFell, NoticeUnit.dequeue, List.map_append, List.count_append,
      List.map_cons, List.map_nil, List.count_cons, List.count_nil]
    omega
theorem endReplay_laws {d : Device} (h : Laws [] d) : Laws [] (endReplay d) := by
  unfold endReplay; dsimp only; split
  · exact h.of_view rfl rfl
  · exact applyMark_laws _ (h.of_view rfl rfl)
theorem lineFalls_laws {d : Device} (h : Laws [] d) : Laws [] (lineFalls d) := by
  have hf : Laws [] { d with rl.frame := none } := h.of_view rfl rfl
  unfold lineFalls; dsimp only; split
  · exact hf.of_view rfl rfl
  · split
    · exact endReplay_laws hf
    · exact hf.of_view rfl rfl
  · exact endReplay_laws hf
  · exact hf
  · exact hf
  · exact hf
  · exact hf
theorem offered_queued {d : Device} {n : Notice} (h : d.offered = some n) : n ∈ d.nu.queued := by
  unfold Device.offered at h; split at h
  · exact List.mem_of_find?_eq_some h
  · cases h
theorem chooseNew_laws {d : Device} (h : Laws [] d) : Laws [] (chooseNew d) := by
  unfold chooseNew; split
  · exact send_laws _ _ (h.of_view rfl rfl)
  · split
    · exact send_laws _ _ (h.of_view rfl rfl)
    · split
      · rename_i ho; exact dispatch_laws h (offered_queued ho) (offered_room ho)
      · split
        · exact send_laws _ _ h
        · split
          · exact send_laws _ _ h
          · exact h
theorem choose_laws {d : Device} (h : Laws [] d) : Laws [] (choose d) := by
  unfold choose; split
  · exact send_laws _ _ (h.of_view rfl rfl)
  · split
    · exact send_laws _ _ (h.of_view rfl rfl)
    · exact send_laws _ _ (h.of_view rfl rfl)
    · exact send_laws _ _ (h.of_view rfl rfl)
    · exact chooseNew_laws h
    · exact chooseNew_laws h
    · exact chooseNew_laws h
    · exact chooseNew_laws h
theorem lineFree_laws {d : Device} (h : Laws [] d) : Laws [] (lineFree d) := by
  unfold lineFree; split
  · exact choose_laws (lineFalls_laws h)
  · exact h.of_view rfl rfl
  · exact h
  · exact h
theorem enterStarting_laws {d : Device} (h : Laws [] d) : Laws [] (enterStarting d) := h.of_view rfl rfl
theorem emptyLink_laws {d : Device} (h : Laws [] d) : Laws [] (emptyLink d) :=
  returnNotices_laws _ _ _ _ (by rw [List.map_map]; exact h.ringOut d.rl.emptied rfl (by show 0 < 128; omega))
theorem leaveUp_laws (n : LinkState) {d : Device} (h : Laws [] d) : Laws [] (leaveUp n d) :=
  fallBackAll_laws ((emptyLink_laws h).of_view rfl rfl)
theorem relayRestart_laws {d : Device} (h : Laws [] d) : Laws [] (relayRestart d) :=
  ((emptyLink_laws h).ringGone (emptyLink d).rl.opened rfl (by show 0 < 128; omega)).of_view rfl rfl
theorem enterUp_laws {d : Device} (h : Laws [] d) : Laws [] (enterUp d) :=
  (h.ringGone { d.rl.opened with link := .up } rfl (by show 0 < 128; omega)).of_view rfl rfl
theorem badFrame_laws {d : Device} (h : Laws [] d) : Laws [] (badFrame d) := by
  unfold badFrame; split
  · dsimp only; split
    · exact h.of_view rfl rfl
    · exact h.of_view rfl rfl
  · exact h
theorem takeMsg_laws (s p m : Nat) (c : MsgContent) {d : Device} (hd : d.tb.date ≤ Config.lastDay) (h : Laws [] d) :
    Laws [] (takeMsg s p m c d) := by
  have hm := takeMark_laws m h
  unfold takeMsg; dsimp only; split
  · exact hm.of_view rfl rfl
  · exact takeContent_laws _ (by show (takeMark m d).tb.date ≤ _; rw [takeMark_tb]; exact hd) (hm.of_view rfl rfl)
theorem judgeMsg_laws (s p m : Nat) (c : MsgContent) {d : Device} (hd : d.tb.date ≤ Config.lastDay) (h : Laws [] d) :
    Laws [] (judgeMsg s p m c d) := by
  unfold judgeMsg; split
  · exact h.of_view rfl rfl
  · split
    · exact takeMsg_laws _ _ _ _ hd h
    · split
      · exact takeMark_laws _ h
      · exact h.of_view rfl rfl
theorem heard_laws {d : Device} (h : Laws [] d) : Laws [] (heard d) := h.of_view rfl rfl
theorem receiveMsg_laws (s p m : Nat) (b : List Byte) {d : Device} (hd : d.tb.date ≤ Config.lastDay) (h : Laws [] d) :
    Laws [] (receiveMsg s p m b d) := by
  unfold receiveMsg; split
  · split
    · exact badFrame_laws h
    · split
      · exact heard_laws h
      · exact judgeMsg_laws _ _ _ _ hd (heard_laws h)
  · exact h
theorem receiveMark_laws (m : Nat) {d : Device} (h : Laws [] d) : Laws [] (receiveMark m d) := by
  unfold receiveMark; split
  · split
    · exact heard_laws h
    · exact takeMark_laws _ (heard_laws h)
  · exact h
theorem rewindRequest_laws {d : Device} (h : Laws [] d) : Laws [] (rewindRequest d) := by
  unfold rewindRequest; split <;> exact h.of_view rfl rfl
theorem receiveRewind_laws (m : Nat) {d : Device} (h : Laws [] d) : Laws [] (receiveRewind m d) := by
  unfold receiveRewind; dsimp only; split
  · exact takeMark_laws _ (rewindRequest_laws (h.of_view rfl rfl))
  · split
    · exact h.of_view rfl rfl
    · exact takeMark_laws _ (h.of_view rfl rfl)
theorem receiveClear_laws (m : Nat) {d : Device} (h : Laws [] d) : Laws [] (receiveClear m d) := by
  unfold receiveClear; dsimp only; split
  · split
    · exact takeMark_laws _ (h.of_view rfl rfl)
    · exact h.of_view rfl rfl
  · exact takeMark_laws _ (h.of_view rfl rfl)
theorem receiveResync_laws (f m : Nat) {d : Device} (h : Laws [] d) : Laws [] (receiveResync f m d) := by
  unfold receiveResync; split
  · split
    · exact receiveRewind_laws _ h
    · split
      · exact receiveClear_laws _ h
      · exact badFrame_laws h
  · exact h
theorem receiveStart_laws {d : Device} (h : Laws [] d) : Laws [] (receiveStart d) := by
  unfold receiveStart; split
  · exact enterUp_laws h
  · split
    · exact h.of_view rfl rfl
    · exact relayRestart_laws h
  · exact h
  · exact h
theorem resyncExpired_laws {d : Device} (h : Laws [] d) : Laws [] (resyncExpired d) := by
  unfold resyncExpired; split
  · split
    · exact h.of_view rfl rfl
    · exact leaveUp_laws _ h
  · exact h
theorem relayStart_laws {d : Device} (h : Laws [] d) : Laws [] (relayStart d) := by
  unfold relayStart; split
  · exact enterStarting_laws h
  · exact enterStarting_laws h
  · exact h
  · exact h
theorem relayStop_laws {d : Device} (h : Laws [] d) : Laws [] (relayStop d) := by
  unfold relayStop; split
  · exact h
  · exact leaveUp_laws _ h
  · exact h.of_view rfl rfl
  · exact h.of_view rfl rfl
theorem writeSettings_laws (s : RelaySettings) {d : Device} (h : Laws [] d) : Laws [] (writeSettings s d) := by
  unfold writeSettings; dsimp only; split
  · exact enterStarting_laws (h.of_view rfl rfl)
  · exact h.of_view rfl rfl
theorem relayWarm_laws {d : Device} (h : Laws [] d) : Laws [] (relayWarm d) := by
  have he := emptyLink_laws h
  have hl : Laws [] (if d.rl.link = .up then fallBackAll (emptyLink d) else emptyLink d) := by
    split
    · exact fallBackAll_laws he
    · exact he
  have ho := hl.ringGone (if d.rl.link = .up then fallBackAll (emptyLink d) else emptyLink d).rl.warm rfl (by show 0 < 128; omega)
  unfold relayWarm; dsimp only; split
  · exact enterStarting_laws ho
  · exact ho

/-! ### The gate bus and the bulletin -/

theorem putStation_laws (a : Nat) (st : Station) {d : Device} (h : Laws [] d) (h1 : st.stored.length ≤ 4)
    (h2 : 1 ≤ a → st.owed.length + (d.gb.records.filter (·.station == a)).length ≤ 4) (h3 : d.gb.inFlight = some a → st.owed = []) :
    Laws [] (d.putStation a st) := h.gates _ (h.verdicts.written a st h1 h2 h3)
theorem moveStation_laws (a : Nat) (st : Station) {d : Device} (h : Laws [] (d.putStation a st)) : Laws [] (moveStation a st d) := by
  unfold moveStation; dsimp only; split
  · exact h.of_view rfl rfl
  · exact h
theorem settleRound_laws {d : Device} (h : Laws [] d) : Laws [] (settleRound d) := by
  unfold settleRound GateBus.settled
  split
  · exact h.of_view rfl rfl
  · exact h
theorem beginRound_laws {d : Device} (h : Laws [] d) : Laws [] (beginRound d) := by
  unfold beginRound; split
  · exact h.of_view rfl rfl
  · exact h
theorem nextPoll_address {gb : GateBus} {a : Nat} (h : gb.nextPoll = some a) : 1 ≤ a := by
  have := List.mem_of_find?_eq_some h
  simp only [allStations, List.mem_range'_1] at this; omega
theorem pollNext_laws {d : Device} (h : Laws [] d) : Laws [] (pollNext d) := by
  unfold pollNext; split
  · rename_i hr
    simp only [GateBus.atRest, Bool.and_eq_true, beq_iff_eq, List.isEmpty_iff] at hr
    split
    · exact h.of_view rfl rfl
    · rename_i a ha
      have ha := nextPoll_address ha
      have hp : VerdictsWithinFour (d.putStation a { d.gb.station a with owed := [] }).gb :=
        h.verdicts.written a _ (h.verdicts.stored a ha)
          (fun _ => by have := h.verdicts.owed a ha; simp only [List.length_nil]; omega) fun _ => rfl
      refine h.gates _ ⟨hp.stored, hp.owed, fun b hb => ?_⟩
      cases hb
      refine ⟨ha, ?_, hr.2.2⟩
      show (GateBus.station { d.gb with stations := setNth d.gb.stations a { d.gb.station a with owed := [] } } a).owed = []
      rcases station_written d.gb a { d.gb.station a with owed := [] } a ha with ⟨e, he⟩ | ⟨_, e⟩
      · rw [e, he rfl]; rfl
      · rw [e]
  · exact h
theorem good_verdicts (st : Station) : st.good.stored = st.stored ∧ st.good.owed = st.owed := by
  unfold Station.good; split <;> exact ⟨rfl, rfl⟩
theorem missed_verdicts (st : Station) : st.missed.stored = st.stored ∧ st.missed.owed = st.owed := by
  unfold Station.missed; dsimp only; split
  · exact ⟨rfl, rfl⟩
  · exact ⟨rfl, rfl⟩
  · split <;> exact ⟨rfl, rfl⟩
  · exact ⟨rfl, rfl⟩
  · exact ⟨rfl, rfl⟩
theorem missedReply_laws {a : Nat} {d : Device} (h : Laws [] d) (ha : d.gb.inFlight = some a) : Laws [] (missedReply a d) := by
  obtain ⟨h1, h2, h3⟩ := h.verdicts.polled a ha
  have hf : Laws [] { d with gb.inFlight := none } :=
    h.gates _ ⟨h.verdicts.stored, h.verdicts.owed, fun b hb => by cases hb⟩
  refine settleRound_laws (moveStation_laws _ _ (putStation_laws _ _ hf ?_ (fun _ => ?_) fun hn => by cases hn))
  · rw [(missed_verdicts _).1]; exact h.verdicts.stored a h1
  · rw [(missed_verdicts _).2]; exact h.verdicts.owed a h1
theorem takeReply_laws {a : Nat} (f : Nat) {rs : List GateRecord} {d : Device} (h : Laws [] d) (ha : d.gb.inFlight = some a)
    (hr : rs.length ≤ 4) : Laws [] (takeReply a f rs d) := by
  obtain ⟨h1, h2, h3⟩ := h.verdicts.polled a ha
  have hl : ∀ b, ((rs.map fun r => (⟨a, r⟩ : ReplyRecord)).filter (·.station == b)).length ≤ if b = a then 4 else 0 := by
    intro b
    split
    · exact Nat.le_trans (List.length_filter_le _ _) (by simpa using hr)
    · rename_i hb
      rw [List.filter_eq_nil_iff.2]
      · exact Nat.le_refl _
      · intro x hx
        obtain ⟨r, _, rfl⟩ := List.mem_map.1 hx
        simpa using fun hh : a = b => hb hh.symm
  have hf : Laws [] { d with gb.inFlight := none, gb.records := rs.map fun r => ⟨a, r⟩ } := by
    refine h.gates _ ⟨h.verdicts.stored, fun b hb => ?_, fun b hb => by cases hb⟩
    have := h.verdicts.owed b hb
    show (d.gb.station b).owed.length + _ ≤ 4
    have hb := hl b
    split at hb
    · rename_i he; subst he; rw [h2]; simpa using hb
    · show (d.gb.station b).owed.length + ((rs.map fun r => (⟨a, r⟩ : ReplyRecord)).filter (·.station == b)).length ≤ 4
      omega
  unfold takeReply; dsimp only
  refine settleRound_laws (moveStation_laws _ _ (putStation_laws _ _ hf ?_ (fun _ => ?_) fun hn => by cases hn))
  · split
    · exact Nat.zero_le _
    · rw [(good_verdicts _).1]; exact h.verdicts.stored a h1
  · have hb := hl a
    rw [if_pos rfl] at hb
    split
    · simpa [Station.forgotten] using hb
    · rw [(good_verdicts _).2, h2]; simpa using hb
theorem dropReply_laws {d : Device} (h : Laws [] d) : Laws [] (dropReply d) :=
  settleRound_laws (h.gates _ ⟨h.verdicts.stored, h.verdicts.owed, fun b hb => by cases hb⟩)
theorem receiveReply_laws (c l : Bool) (a f : Nat) (rs : List GateRecord) {d : Device} (h : Laws [] d) :
    Laws [] (receiveReply c l a f rs d) := by
  unfold receiveReply; split
  · exact h
  · rename_i ha
    split
    · exact dropReply_laws h
    · split
      · rename_i hg
        simp only [goodReply, Bool.and_eq_true, decide_eq_true_eq] at hg
        exact takeReply_laws _ h ha hg.1.2
      · exact missedReply_laws h ha
theorem replyTimedOut_laws {d : Device} (h : Laws [] d) : Laws [] (replyTimedOut d) := by
  unfold replyTimedOut; split
  · exact h
  · rename_i ha
    split
    · exact dropReply_laws h
    · exact missedReply_laws h ha
theorem stored_always {gb : GateBus} (h : VerdictsWithinFour gb) (a : Nat) : (gb.station a).stored.length ≤ 4 := by
  by_cases ha : 1 ≤ a
  · exact h.stored a ha
  · have : a = 0 := by omega
    rw [this]; exact h.stored 1 (Nat.le_refl _)
/-- A record is taken with no poll in flight: its station owes one verdict more at most (R171). -/
theorem takeRecord_laws {a : Nat} (r : GateRecord) {d : Device} (h : Laws [] d) (idle : d.gb.inFlight = none)
    (room : 1 ≤ a → (d.gb.station a).owed.length + 1 + (d.gb.records.filter (·.station == a)).length ≤ 4) :
    Laws [] (takeRecord a r d) := by
  have hs := stored_always h.verdicts a
  unfold takeRecord; dsimp only
  split
  · rename_i v _
    refine putStation_laws _ _ h hs (fun ha => ?_) fun hn => by rw [idle] at hn; cases hn
    have := room ha
    have := List.length_filter_le (fun w : SeqVerdict => w.seq != v.seq) (d.gb.station a).owed
    simp only [Station.repeated, List.length_append, List.length_singleton]; omega
  · have hm := takeArrival_move (arrivalOf a (d.gb.station a).site r) d
    refine putStation_laws _ _ (takeArrival_laws _ h) ?_ (fun ha => ?_) fun hn => ?_
    · simp only [Station.accepted, List.length_append, List.length_singleton]
      rw [apply_ite List.length, List.length_tail]
      have : Config.maxVerdicts = 4 := rfl
      split <;> omega
    · have := room ha
      rw [hm.gb]
      simp only [Station.accepted, List.length_append, List.length_singleton]; omega
    · rw [hm.gb, idle] at hn; cases hn
/-- The record at the front is taken: its station owes one verdict more at most, and one record fewer waits (R171). -/
theorem takeNextRecord_laws {d : Device} (h : Laws [] d) : Laws [] (takeNextRecord d) := by
  unfold takeNextRecord; split
  · exact h
  · rename_i r rest hr
    have room : ∀ b, 1 ≤ b → (d.gb.station b).owed.length + (if r.station = b then 1 else 0) +
        (rest.filter (·.station == b)).length ≤ 4 := fun b hb => by
      have := h.verdicts.owed b hb
      rw [hr, List.filter_cons] at this
      split at this
      · rename_i he; rw [beq_iff_eq] at he; rw [if_pos he]; simp only [List.length_cons] at this; omega
      · rename_i he; rw [beq_iff_eq] at he; rw [if_neg he]; omega
    have idle : d.gb.inFlight = none := by
      cases hf : d.gb.inFlight with
      | none => rfl
      | some b => have := (h.verdicts.polled b hf).2.2; rw [hr] at this; cases this
    refine takeRecord_laws _ (h.gates _ ⟨h.verdicts.stored, fun b hb => ?_, fun b hb => ?_⟩) idle fun ha => ?_
    · have := room b hb
      show (d.gb.station b).owed.length + (rest.filter (·.station == b)).length ≤ 4
      omega
    · have hb : d.gb.inFlight = some b := hb
      rw [idle] at hb; cases hb
    · have := room _ ha; rw [if_pos rfl] at this; exact this
theorem takeWaiting_laws {d : Device} (h : Laws [] d) : Laws [] (takeWaiting d) :=
  repeated_inv (Laws []) _ (fun _ hd => takeNextRecord_laws hd) _ _ h
theorem set_verdicts (en : Bool) (site : Nat) (st : Station) :
    (st.set en site).stored.length ≤ st.stored.length ∧ ((st.set en site).owed = st.owed ∨ (st.set en site).owed = []) := by
  unfold Station.set; dsimp only
  split <;> split
  · exact ⟨Nat.le_refl _, .inl rfl⟩
  · exact ⟨Nat.zero_le _, .inr rfl⟩
  · exact ⟨Nat.zero_le _, .inr rfl⟩
  · exact ⟨Nat.le_refl _, .inl rfl⟩
theorem setStation_laws {a : Nat} (ha : 1 ≤ a) (en : Bool) (site : Nat) {d : Device} (h : Laws [] d) :
    Laws [] (setStation a en site d) := by
  have hw := takeWaiting_laws h
  have hv := hw.verdicts
  obtain ⟨v1, v2⟩ := set_verdicts en site ((takeWaiting d).gb.station a)
  have hs : Laws [] ((takeWaiting d).putStation a (((takeWaiting d).gb.station a).set en site)) := by
    refine putStation_laws _ _ hw (Nat.le_trans v1 (hv.stored a ha)) (fun _ => ?_) fun hf => ?_
    · have := hv.owed a ha
      rcases v2 with e | e
      · rw [e]; exact this
      · rw [e]; simp only [List.length_nil]; omega
    · have := (hv.polled a hf).2.1
      rcases v2 with e | e
      · rw [e]; exact this
      · exact e
  unfold setStation; dsimp only
  refine settleRound_laws ?_
  split
  · exact hs
  · exact hs.gates _ ⟨hs.verdicts.stored, hs.verdicts.owed, hs.verdicts.polled⟩
theorem suspended_laws (gb : GateBus) (h : VerdictsWithinFour gb) : VerdictsWithinFour gb.suspended :=
  ⟨h.stored, fun a ha => by have := h.owed a ha; show (gb.station a).owed.length + 0 ≤ 4; omega, fun _ hf => by cases hf⟩
theorem gateWarm_laws (gb : GateBus) : VerdictsWithinFour gb.warm :=
  ⟨fun a _ => by show (nth (gb.stations.map Station.warm) a Station.reset).stored.length ≤ 4; rw [(station_map_warm gb a).1]; exact Nat.zero_le _,
   fun a _ => by
     show (nth (gb.stations.map Station.warm) a Station.reset).owed.length + 0 ≤ 4
     rw [(station_map_warm gb a).2]; exact Nat.zero_le _,
   fun _ hf => by cases hf⟩
theorem losePower_laws {d : Device} (h : Laws [] d) : Laws [] (losePower d) := by
  have hp : Laws [] (powered takeWaiting d) := powered_keeps h (takeWaiting_laws h)
  exact hp.of_view rfl rfl
theorem fanoutOn_laws {d : Device} (h : Laws [] d) : Laws [] (fanoutOn d) := by
  unfold fanoutOn; split <;> exact h.of_view rfl rfl
theorem bulletinFor_laws (p : Pupil) {d : Device} (h : Laws [] d) : Laws [] (bulletinFor p d) := by
  unfold bulletinFor; split
  · exact fanoutOn_laws (h.of_view rfl rfl)
  · split
    · exact h.of_view rfl rfl
    · exact fanoutOn_laws ((compose_laws _ _ _ _ _ _ (fun h => by cases h) h).of_view rfl rfl)
theorem fanoutStep_laws {d : Device} (h : Laws [] d) : Laws [] (fanoutStep d) := by
  unfold fanoutStep; split
  · split
    · exact fanoutOn_laws h
    · split
      · exact bulletinFor_laws _ h
      · exact fanoutOn_laws h
  · exact h

/-! ### The clock, the rollover and reset -/

theorem startRollover_laws (kind : RolloverKind) {d : Device} (h : Laws [] d) : Laws [] (startRollover kind d) :=
  (h.gates _ (suspended_laws _ h.verdicts)).stepStart _ fun w hw => by cases hw; rfl
theorem crossMidnight_laws (kind : RolloverKind) {d : Device} (h : Laws [] d) : Laws [] (crossMidnight kind d) := by
  unfold crossMidnight; split
  · split
    · exact h.of_view rfl rfl
    · exact startRollover_laws _ ((takeWaiting_laws h).of_view rfl rfl)
  · exact h.of_view rfl rfl
theorem handMinute_laws {d : Device} (h : Laws [] d) : Laws [] (handMinute d) := by
  unfold handMinute; split
  · exact topOfMinute_laws h
  · exact h
theorem advanceSecond_laws {d : Device} (h : Laws [] d) : Laws [] (advanceSecond d) := by
  unfold advanceSecond; split
  · dsimp only; split
    · exact handMinute_laws (h.of_view rfl rfl)
    · exact h.of_view rfl rfl
  · exact handMinute_laws (crossMidnight_laws _ h)
theorem advanceTick_laws {d : Device} (h : Laws [] d) : Laws [] (advanceTick d) := by
  unfold advanceTick; split
  · exact h.of_view rfl rfl
  · exact advanceSecond_laws (h.of_view rfl rfl)
theorem slewedAdvance_laws {d : Device} (h : Laws [] d) : Laws [] (slewedAdvance d) := by
  unfold slewedAdvance; split
  · exact advanceTick_laws (h.of_view rfl rfl)
  · dsimp only; split
    · exact h.of_view rfl rfl
    · split
      · exact advanceTick_laws (advanceTick_laws (h.of_view rfl rfl))
      · exact advanceTick_laws (h.of_view rfl rfl)
theorem older_stub (n : Notice) : n.older.stub = n.stub := rfl
theorem secondPassed_laws {d : Device} (h : Laws [] d) : Laws [] (secondPassed d) := by
  have hr := ring_map_laws (f := fun r : RingEntry => { r with notice := r.notice.older }) (fun _ => rfl) (fun _ => ⟨rfl, rfl, rfl⟩) h
  have older : ∀ l : List Notice, (l.map Notice.older).map Notice.stub = l.map Notice.stub := fun l => by
    rw [List.map_map]; exact List.map_congr_left fun n _ => older_stub n
  have calls : (d.nu.calls.map CallEntry.older).filterMap (fun e => e.notice?.map Notice.stub) =
      d.nu.calls.filterMap (fun e => e.notice?.map Notice.stub) := by
    rw [List.filterMap_map]
    refine List.filterMap_congr fun e _ => ?_
    unfold CallEntry.older CallEntry.notice?
    simp only [Function.comp_apply]
    cases he : e.content <;> simp [he, older_stub]
  have ring : (secondPassed d).rl.ring.map (·.notice.stub) = d.rl.ring.map (·.notice.stub) := by
    show (d.rl.ring.map _).map _ = _
    rw [List.map_map]; rfl
  refine h.move (secondPassed_limits h.lim) hr.ring rfl fun x => ?_
  unfold Device.here
  rw [ring]
  simp only [secondPassed, NoticeUnit.secondPassed, older, calls, List.map_map, Function.comp_def, older_stub]
  omega
theorem runningTick_laws {d : Device} (h : Laws [] d) : Laws [] (runningTick d) := by
  unfold runningTick; split
  · exact h.of_view rfl rfl
  · exact secondPassed_laws (h.of_view rfl rfl)
theorem oscillatorTick_laws (sense : ZoneSet) {d : Device} (h : Laws [] d) : Laws [] (oscillatorTick sense d) := by
  unfold oscillatorTick; dsimp only
  refine slewedAdvance_laws ?_
  split
  · exact runningTick_laws (h.of_view rfl rfl)
  · exact h.of_view rfl rfl
theorem setDiscipline_laws (st : DisciplineState) {d : Device} (h : Laws [] d) : Laws [] (setDiscipline st d) := by
  unfold setDiscipline; dsimp only; split <;> exact h.of_view rfl rfl
theorem lockRule_laws (e : Int) {d : Device} (h : Laws [] d) : Laws [] (lockRule e d) := by
  unfold lockRule; split
  · split
    · exact h.of_view rfl rfl
    · exact setDiscipline_laws _ h
  · split
    · split
      · exact h.of_view rfl rfl
      · exact setDiscipline_laws _ h
    · exact h.of_view rfl rfl
theorem stepClock_laws (e : Int) {d : Device} (h : Laws [] d) : Laws [] (stepClock e d) := by
  unfold stepClock; dsimp only; split
  · split
    · exact h.of_view rfl rfl
    · exact handMinute_laws (jumpNotice_laws _ (h.of_view rfl rfl))
  · exact crossMidnight_laws _ (h.of_view rfl rfl)
theorem masterMark_laws {d : Device} (h : Laws [] d) : Laws [] (masterMark d) := by
  unfold masterMark; split
  · unfold takeMasterMark; dsimp only
    generalize d.tb.markError = e
    have hl := lockRule_laws e (h.of_view (e := { d with
      tb.lastError := some e, tb.markSilence := some 0, tb.markSeen := true, tb.slewPhase := 0 }) rfl rfl)
    unfold correct; split
    · exact hl.of_view rfl rfl
    · split
      · exact hl.of_view rfl rfl
      · split
        · exact stepClock_laws _ hl
        · exact hl.of_view rfl rfl
  · exact h
theorem markSilenceExpired_laws {d : Device} (h : Laws [] d) : Laws [] (markSilenceExpired d) := by
  unfold markSilenceExpired; split
  · exact h
  · exact setDiscipline_laws _ (h.of_view rfl rfl)
theorem toStep_laws (n : Nat) (r : Rollover) {d : Device} (h : Laws [] d) : Laws [] (toStep n r d) :=
  h.stepStart _ fun w hw => by cases hw; rfl
theorem cursorOn_laws {r : Rollover} (hr : r.step ≠ 12) {d : Device} (h : Laws [] d) : Laws [] (cursorOn r d) :=
  h.notBuild _ fun w hw => by cases hw; exact hr
theorem walkOn_laws (size n : Nat) {r : Rollover} (hr : r.step ≠ 12) {d : Device} (h : Laws [] d) : Laws [] (walkOn size n r d) := by
  unfold walkOn; split
  · exact cursorOn_laws hr h
  · exact toStep_laws _ _ h
theorem countUnexplained_core (roll : Nat) (ae : Attendance) : (countUnexplained roll ae).core = ae.core := by
  unfold countUnexplained; split
  · rfl
  · split
    · exact onPupil_core (f := fun p => { p with unexplainedDays := satAdd Config.maxPoints p.unexplainedDays 1 }) _ (fun _ h => h) _
    · rfl
theorem step2_laws {r : Rollover} (hr : r.step ≠ 12) {d : Device} (h : Laws [] d) : Laws [] (step2 r d) := by
  unfold step2; split
  · exact walkOn_laws _ _ hr (onAe_laws h (countUnexplained_core _ _))
  · exact toStep_laws _ _ h
theorem step4_laws (r : Rollover) {d : Device} (h : Laws [] d) : Laws [] (step4 r d) := by
  unfold step4; split
  · unfold calendarEnd; dsimp only
    have he := setValidity_laws .invalid (setDiscipline_laws .unlocked h)
    refine toStep_laws _ _ (Laws.of_view (d := { setValidity .invalid (setDiscipline .unlocked d) with
      tb.candidate := none, tb.date := Config.lastDay, tb.today := .closed,
      tb.missed := if r.kind = .resume then 0 else d.tb.missed }) (he.of_view rfl rfl) rfl rfl)
  · exact toStep_laws _ _ (h.of_view rfl rfl)
theorem step5_laws {r : Rollover} (hr : r.step ≠ 12) {d : Device} (h : Laws [] d) : Laws [] (step5 r d) := by
  unfold step5; split
  · unfold removeException; split
    · exact h.of_view rfl rfl
    · exact toStep_laws _ _ h
  · split
    · exact h.notBuild _ fun w hw => by cases hw; exact hr
    · exact cursorOn_laws hr (onAe_laws h (onPupil_core (f := Pupil.termStarted) _ (fun _ h => h) _))
theorem step9_laws {r : Rollover} (hr : r.step ≠ 12) {d : Device} (h : Laws [] d) : Laws [] (step9 r d) := by
  unfold step9; split
  · exact toStep_laws _ _ h
  · rename_i x hx
    split
    · exact h.excusesBecome _ (h.excuses.sublist (List.eraseIdx_sublist _ _))
    · refine cursorOn_laws hr (h.excusesBecome _ (excusesApart_spans ?_ h.excuses))
      show (d.ae.excuses.set (r.cursor - 1) { x with state := .pending }).map Excuse.span = d.ae.excuses.map Excuse.span
      rw [List.map_set]
      obtain ⟨hi, he⟩ := List.getElem?_eq_some_iff.1 hx
      refine List.ext_getElem (by simp) fun i h1 h2 => ?_
      rw [List.getElem_set]; split
      · rename_i hir; subst hir; rw [List.getElem_map, he]; rfl
      · rfl
theorem step10_laws {r : Rollover} (hr : r.step ≠ 12) {d : Device} (h : Laws [] d) : Laws [] (step10 r d) := by
  unfold step10; split
  · split
    · exact leaveQueue_laws _ h
    · exact cursorOn_laws hr h
  · split
    · exact toStep_laws _ _ h
    · exact toStep_laws _ _ (h.calledBy [] ⟨.nil, by simp⟩)
theorem step11_laws (r : Rollover) {d : Device} (h : Laws [] d) : Laws [] (step11 r d) := by
  unfold step11
  refine toStep_laws _ _ ?_
  split
  · exact h
  · exact h.of_view rfl rfl
theorem releaseHeld_laws {d : Device} (hd : d.tb.date ≤ Config.lastDay) (h : Laws [] d) : Laws [] (releaseHeld d) := by
  have hh := foldl_inv (fun d => d.tb.date ≤ Config.lastDay ∧ Laws [] d) (fun acc (m : HeldMessage) => takeContent m.content acc)
    (fun d m hd => ⟨by rw [takeContent_tb]; exact hd.1, takeContent_laws _ hd.1 hd.2⟩)
    d.rl.rolloverHold { d with rl.rolloverHold := [] } ⟨hd, h.of_view rfl rfl⟩
  unfold releaseHeld; dsimp only; split
  · exact hh.2
  · exact hh.2.of_view rfl rfl
/-- The build takes a roll number above those taken: the roster grows at its end (R57). -/
theorem buildAt_rolls (school : Bool) (c roll : Nat) (ae : Attendance) :
    ((buildAt school c roll ae).roster.getD []).map (·.roll) = (ae.roster.getD []).map (·.roll) ∨
    ((buildAt school c roll ae).roster.getD []).map (·.roll) = (ae.roster.getD []).map (·.roll) ++ [roll] ∧
      roll ∈ ae.pupils.map (·.roll) := by
  unfold buildAt; split
  · exact .inl rfl
  · rename_i p hp
    have hroll : ∀ due, (builtEntry school due roll).roll = roll := fun due => by unfold builtEntry; split <;> rfl
    cases hr : ae.roster with
    | none => exact .inl rfl
    | some l =>
      refine .inr ⟨?_, ?_⟩
      · simp [hroll]
      · obtain ⟨h1, h2⟩ := pupil_roll hp
        rw [← h2]; exact List.mem_map_of_mem h1
theorem step12_laws {r : Rollover} {d : Device} (h : Laws [] d) (hr : d.tb.rollover = some r) (hs : r.step = 12) :
    Laws [] (step12 r d) := by
  have h1 : Laws [] (if r.cursor = 1 then d.onAe fun ae => { ae with roster := some [] } else d) := by
    split
    · exact h.rosterGone { d.ae with roster := some [] } rfl rfl rfl rfl
    · exact h
  have ht : (if r.cursor = 1 then d.onAe fun ae => { ae with roster := some [] } else d).tb = d.tb := by split <;> rfl
  have hlow : ∀ q ∈ (((if r.cursor = 1 then d.onAe fun ae => { ae with roster := some [] } else d).ae.roster.getD []).map
      (·.roll)), q < r.cursor := by
    by_cases hc : r.cursor = 1
    · rw [if_pos hc]; intro q hq; cases hq
    · rw [if_neg hc]; exact h.pupils.built r hr hs hc
  unfold step12; dsimp only
  generalize (if r.cursor = 1 then d.onAe fun ae => { ae with roster := some [] } else d) = e at h1 ht hlow
  have key : ∀ (ae : Attendance) (t : TimeBase), ae.core = (buildAt d.schoolDay d.tb.cycleDay r.cursor e.ae).core →
      (∀ w, t.rollover = some w → w.cursor = 1 ∨ w.cursor = r.cursor + 1) → Laws [] { e with ae := ae, tb := t } := by
    intro ae t hc hw
    have hp : (buildAt d.schoolDay d.tb.cycleDay r.cursor e.ae).pupils = e.ae.pupils := by unfold buildAt; split <;> rfl
    have hx : (buildAt d.schoolDay d.tb.cycleDay r.cursor e.ae).excuses = e.ae.excuses := by unfold buildAt; split <;> rfl
    have hj := buildAt_journal d.schoolDay d.tb.cycleDay r.cursor e.ae
    simp only [Attendance.core, Prod.mk.injEq, hp, hx, hj] at hc
    obtain ⟨c1, c2, c3, c4⟩ := hc
    have hb := buildAt_rolls d.schoolDay d.tb.cycleDay r.cursor e.ae
    rw [← c2] at hb
    obtain ⟨a, b, ⟨p1, p2, p3, p4, _⟩, x, v, o, f⟩ := h1
    refine ⟨a.of_eq c4 rfl rfl rfl rfl rfl rfl, b, ⟨?_, ?_, p3, ?_, ?_⟩, excusesApart_spans c3 x, v, o, f⟩
    · show RollsAscend (ae.pupils.map _); rw [c1]; exact p1
    · show RollsAscend ((ae.roster.getD []).map _)
      rcases hb with hb | ⟨hb, hm⟩
      · rw [hb]; exact p2
      · rw [hb]
        refine ⟨List.pairwise_append.2 ⟨p2.1, List.pairwise_singleton _ _, fun q hq z hz => ?_⟩, fun q hq => ?_⟩
        · rw [List.mem_singleton.1 hz]; exact hlow q hq
        · rcases List.mem_append.1 hq with hq | hq
          · exact p2.2 q hq
          · rw [List.mem_singleton.1 hq]; exact p1.2 _ hm
    · show ∀ q ∈ (ae.roster.getD []).map _, q ∈ ae.pupils.map _
      rw [c1]
      rcases hb with hb | ⟨hb, hm⟩
      · rw [hb]; exact p4
      · rw [hb]; intro q hq
        rcases List.mem_append.1 hq with hq | hq
        · exact p4 q hq
        · rw [List.mem_singleton.1 hq]; exact hm
    · intro w hw' _ hn q hq
      have hcur := (hw w hw').resolve_left hn
      have hq : q ∈ (ae.roster.getD []).map (·.roll) := hq
      rcases hb with hb | ⟨hb, _⟩
      · rw [hb] at hq; have := hlow q hq; omega
      · rw [hb] at hq
        rcases List.mem_append.1 hq with hq | hq
        · have := hlow q hq; omega
        · rw [List.mem_singleton.1 hq]; omega
  unfold rollOn walkOn
  split
  · exact key _ _ rfl fun w hw => by cases hw; exact .inr rfl
  · exact key _ _ (applyAbsences_core _ _) fun w hw => by cases hw; exact .inl rfl
theorem step13_laws (r : Rollover) {d : Device} (hd : d.tb.date ≤ Config.lastDay) (h : Laws [] d) : Laws [] (step13 r d) := by
  unfold step13; dsimp only
  have h0 : Laws [] (Device.raise .day { d with tb.missed := d.tb.missed - r.taken, tb.rollover := none }) :=
    Laws.of_view (d := { d with tb.missed := d.tb.missed - r.taken, tb.rollover := none })
      (h.stepStart _ fun w hw => by cases hw) rfl rfl
  split
  · exact startRollover_laws _ h0
  · exact releaseHeld_laws (by rw [reassess_tb]; exact hd) (reassess_laws _ h0)
theorem rolloverStep_laws {d : Device} (hd : d.tb.date ≤ Config.lastDay) (h : Laws [] d) : Laws [] (rolloverStep d) := by
  unfold rolloverStep; split
  · exact h
  · rename_i r hr
    split
    · exact toStep_laws _ _ (h.of_view rfl rfl)
    · rename_i hs; exact step2_laws (by omega) h
    · exact toStep_laws _ _ (h.rosterGone { d.ae with roster := none, latch := none } rfl rfl rfl rfl)
    · exact step4_laws _ h
    · rename_i hs; exact step5_laws (by omega) h
    · exact toStep_laws _ _ (h.of_view rfl rfl)
    · rename_i hs; exact walkOn_laws _ _ (by omega) (h.of_view rfl rfl)
    · exact toStep_laws _ _ (h.of_view rfl rfl)
    · rename_i hs; exact step9_laws (by omega) h
    · rename_i hs; exact step10_laws (by omega) h
    · exact step11_laws _ h
    · rename_i hs; exact step12_laws h hr hs
    · exact step13_laws _ hd h
theorem valuesWarm_laws {d : Device} (h : Laws [] d) : Laws [] (valuesWarm d) := by
  unfold valuesWarm; dsimp only
  refine sampleInputs_laws _ _ ?_
  have hg : Laws [] { d with tb := d.tb.warm, ae := d.ae.warm, gb := d.gb.warm } :=
    (h.gates d.gb.warm (gateWarm_laws _)).of_view rfl rfl
  exact (relayWarm_laws hg).of_view rfl rfl
theorem blocksWarm_laws {d : Device} (h : Laws [] d) : Laws [] (blocksWarm d) := valuesWarm_laws (takeWaiting_laws h)
theorem scannerWarm_laws {d : Device} (h : Laws [] d) : Laws [] (scannerWarm d) := by
  unfold scannerWarm; split
  · exact h
  · exact reassess_laws _ h
theorem powerUp_laws (strap : Bool) {d : Device} (h : Laws [] d) : Laws [] (powerUp strap d) := by
  have hb := blocksWarm_laws (h.of_view (e := { d with mainPower := true, fastBaud := strap }) rfl rfl)
  unfold powerUp resumeMissed; split
  · exact startRollover_laws _ hb
  · exact scannerWarm_laws hb
theorem reset_laws : Laws [] Device.reset := by
  refine ⟨reset_limits, ringInSequence_nil _ rfl (by decide), ⟨?_, ?_, ?_, ?_, ?_⟩, ⟨.nil, .nil, by decide⟩, ⟨?_, ?_, ?_⟩, by decide, ?_⟩
  · exact ⟨.nil, by decide⟩
  · exact ⟨.nil, by decide⟩
  · exact ⟨.nil, by decide⟩
  · intro r hr; cases hr
  · intro w hw; cases hw
  · intro a _
    show (nth (List.replicate 8 Station.reset) a Station.reset).stored.length ≤ 4
    unfold nth; rw [List.getD_eq_getElem?_getD, List.getElem?_replicate]; split <;> decide
  · intro a _
    show (nth (List.replicate 8 Station.reset) a Station.reset).owed.length + 0 ≤ 4
    unfold nth; rw [List.getD_eq_getElem?_getD, List.getElem?_replicate]; split <;> decide
  · intro a ha; cases ha
  · intro p hp; cases hp
theorem retentionLost_laws (strap : Bool) (d : Device) : Laws [] (retentionLost strap d) :=
  sampleInputs_laws _ _ (reset_laws.of_view rfl rfl)
theorem replyGone_laws {d : Device} (h : Laws [] d) : Laws [] (replyGone d) := by
  unfold replyGone; split
  · exact h
  · dsimp only; split
    · exact scannerWarm_laws (blocksWarm_laws (h.of_view rfl rfl))
    · exact h.of_view rfl rfl

/-! ### The requests' own changes of the tables -/

/-- The roll and the roster change while no rollover is ACTIVE. -/
theorem Laws.enrol {d : Device} (h : Laws [] d) (idle : d.rolling = false) (ae : Attendance)
    (hp : RollsAscend (ae.pupils.map (·.roll))) (hr : RollsAscend ((ae.roster.getD []).map (·.roll)))
    (he : ∀ r ∈ (ae.roster.getD []).map (·.roll), r ∈ ae.pupils.map (·.roll)) (hx : ExcusesApart ae.excuses)
    (hj : ae.journal = d.ae.journal) : Laws [] { d with ae := ae } := by
  obtain ⟨a, b, ⟨_, _, p3, _, _⟩, _, v, o, f⟩ := h
  refine ⟨a.of_eq hj rfl rfl rfl rfl rfl rfl, b, ⟨hp, hr, p3, he, fun w hw => ?_⟩, hx, v, o, f⟩
  have hw : d.tb.rollover = some w := hw
  simp [Device.rolling, hw] at idle

theorem badRoll_range {r : Nat} (h : badRoll r = false) : 1 ≤ r ∧ r ≤ 2400 := by
  simp only [badRoll, Bool.or_eq_false_iff, beq_eq_false_iff_ne, decide_eq_false_iff_not] at h
  have : Config.maxRoll = 2400 := rfl
  omega

theorem linkContacts_core (roll : Nat) (named : List Nat) (ae : Attendance) : (ae.linkContacts roll named).core = ae.core := rfl

theorem putPupil_rolls (p : Pupil) (l : List Pupil) (r : Nat) :
    r ∈ (putPupil p l).map (·.roll) ↔ r = p.roll ∨ r ∈ l.map (·.roll) := by
  simp only [List.mem_map, mem_putPupil]
  constructor
  · rintro ⟨q, rfl | ⟨hq, _⟩, rfl⟩
    · exact .inl rfl
    · exact .inr ⟨q, hq, rfl⟩
  · rintro (rfl | ⟨q, hq, rfl⟩)
    · exact ⟨p, .inl rfl, rfl⟩
    · by_cases he : q.roll = p.roll
      · exact ⟨p, .inl rfl, he.symm⟩
      · exact ⟨q, .inr ⟨hq, he⟩, rfl⟩

theorem pupil_isSome {ae : Attendance} {r : Nat} : (ae.pupil r).isSome = true ↔ r ∈ ae.pupils.map (·.roll) := by
  simp [Attendance.pupil, List.find?_isSome]

theorem loadPupil_laws {p : Pupil} (hr : badRoll p.roll = false) {d : Device} (idle : d.rolling = false) (h : Laws [] d) :
    Laws [] (d.onAe (·.loadPupil p)) := by
  obtain ⟨p1, p2, _, p4, _⟩ := h.pupils
  have hput : RollsAscend ((putPupil p d.ae.pupils).map (·.roll)) :=
    ascend_insert (g := Pupil.roll) (ascend_filter _ p1) (not_mem_others _ _ _) (badRoll_range hr)
  unfold Device.onAe Attendance.loadPupil; dsimp only
  by_cases hn : (d.ae.pupil p.roll).isSome = true
  · rw [if_pos hn]
    exact h.enrol idle _ hput p2 (fun r hrr => (putPupil_rolls _ _ _).2 (.inr (p4 r hrr))) h.excuses rfl
  · rw [if_neg hn]
    have hnot : p.roll ∉ (d.ae.roster.getD []).map (·.roll) := fun hm => hn (pupil_isSome.2 (p4 _ hm))
    have hro : (((({ d.ae with pupils := putPupil p d.ae.pupils } : Attendance).linkContacts p.roll
        (p.slots.filterMap id)).addEntry p.roll).roster.getD []).map (·.roll) = (d.ae.roster.getD []).map (·.roll) ∨
        (((({ d.ae with pupils := putPupil p d.ae.pupils } : Attendance).linkContacts p.roll
        (p.slots.filterMap id)).addEntry p.roll).roster.getD []) =
          insertBefore (fun a b => a.roll < b.roll) (.blank p.roll none .notDue false) (d.ae.roster.getD []) := by
      unfold Attendance.addEntry Attendance.linkContacts; dsimp only
      cases d.ae.roster with
      | none => exact .inl rfl
      | some l => exact .inr rfl
    refine h.enrol idle _ hput ?_ (fun r hrr => (putPupil_rolls _ _ _).2 ?_) h.excuses rfl
    · rcases hro with e | e
      · rw [e]; exact p2
      · rw [e]; exact ascend_insert (g := RosterEntry.roll) p2 hnot (badRoll_range hr)
    · rcases hro with e | e
      · rw [e] at hrr; exact .inr (p4 r hrr)
      · rw [e] at hrr
        obtain ⟨x, hx, rfl⟩ := List.mem_map.1 hrr
        rcases (mem_insertBefore _ _ _ _).1 hx with rfl | hx
        · exact .inl rfl
        · exact .inr (p4 _ (List.mem_map_of_mem hx))

theorem dropPupil_laws (roll : Nat) {d : Device} (idle : d.rolling = false) (h : Laws [] d) : Laws [] (d.onAe (·.dropPupil roll)) := by
  obtain ⟨p1, p2, _, p4, _⟩ := h.pupils
  have hro : (((d.ae.dropPupil roll).roster.getD [])) = (d.ae.roster.getD []).filter (·.roll != roll) := by
    unfold Attendance.dropPupil Attendance.linkContacts; dsimp only
    cases d.ae.roster <;> rfl
  refine h.enrol idle _ (ascend_filter _ p1) ?_ (fun r hr => ?_) (h.excuses.sublist List.filter_sublist) rfl
  · rw [hro]; exact ascend_filter _ p2
  · rw [hro] at hr
    obtain ⟨x, hx, rfl⟩ := List.mem_map.1 hr
    obtain ⟨hx, hne⟩ := List.mem_filter.1 hx
    obtain ⟨q, hq, he⟩ := List.mem_map.1 (p4 _ (List.mem_map_of_mem hx))
    refine List.mem_map.2 ⟨q, List.mem_filter.2 ⟨hq, ?_⟩, he⟩
    simpa [he] using hne

theorem loadContact_laws (c : Contact) {d : Device} (h : Laws [] d) : Laws [] (d.onAe (·.loadContact c)) :=
  onAe_laws h (pupils_map_core ({ d.ae with contacts := putContact c d.ae.contacts }) fun p _ => by
    unfold Pupil.relinked; split
    · split <;> rfl
    · rfl)

theorem dropContact_laws (c : Contact) {d : Device} (h : Laws [] d) : Laws [] (d.onAe (·.dropContact c)) := by
  refine onAe_laws h ?_
  have h1 := pupils_map_core (f := Pupil.relinked c.index false) { d.ae with contacts := d.ae.contacts.filter (·.key != c.key) }
    fun p _ => rfl
  exact (excuses_map_core (f := Excuse.sourceDropped c.index) (fun x => by unfold Excuse.sourceDropped; split <;> rfl) _).trans h1

theorem removeExcuse_laws (x : Excuse) {d : Device} (h : Laws [] d) : Laws [] (d.onAe (·.removeExcuse x)) := by
  have h1 := h.excusesBecome (d.ae.excuses.filter fun y => !(y.pupil == x.pupil && y.kind == x.kind && y.first == x.first))
    (h.excuses.sublist List.filter_sublist)
  exact onEntry_laws (f := fun e => if e.excuseRef = some x.ref then { e with excuseRef := none } else e)
    (d := { d with ae.excuses := d.ae.excuses.filter fun y => !(y.pupil == x.pupil && y.kind == x.kind && y.first == x.first) })
    x.pupil (fun e => by split <;> rfl) h1

theorem takeMarkFor_laws (m : RosterState) (e : RosterEntry) {d : Device} (h : Laws [] d) : Laws [] (takeMarkFor m e d) := by
  have hm : Laws [] (d.onAe (·.onEntry e.roll (RosterEntry.marked m d.tb.second))) :=
    onEntry_laws _ (fun e => by unfold RosterEntry.marked; split <;> rfl) h
  unfold takeMarkFor; dsimp only; split
  · exact absenceRuleFor_laws _ _ _ hm
  · exact hm

theorem closeCall_laws (p : CallEntry → Bool) {d : Device} (h : Laws [] d) : Laws [] { d with nu.calls := d.nu.calls.filter p } := by
  refine h.move ?_ h.ring rfl fun x => ?_
  · obtain ⟨q, g, r, j, a, c⟩ := h.lim
    exact ⟨q, g, r, j, a, Nat.le_trans (List.length_filter_le _ _) c⟩
  · have := (List.filter_sublist (l := d.nu.calls) (p := p)).filterMap (fun e : CallEntry => e.notice?.map Notice.stub)
    have := this.count_le x
    simp only [Device.here]; omega

end Sys2Proof.Machine
end

