-- ==== Sys2Proof/Laws/KeepRoster.lean ====
section
/-! SUPPORT. While the clock and the scanner stand, every operation keeps the day's laws of the Attendance Engine, each said once: the
sweeps, the roster's entries, the links of pupils and contacts, and the tallies (R44, R46, R52, R59 to R64). -/
namespace Sys2Proof.Machine

/-! ### What stands while the clock and the scanner do -/

/-- A clock and a scanner that stand, with what the sweeps and the absences of the roster may then be for. -/
structure DayFrame where
  power : Bool
  tb : TimeBase
  ss : Scanner
  swept : SweepKind → Nat → Nat → Prop
  closed : Nat → Nat → Prop
  fits : ∀ k s, swept .close k s → closed k s

/-- The day's laws of the Attendance Engine. -/
structure AeOk (F : DayFrame) (ae : Attendance) : Prop where
  sweeps : ∀ w ∈ ae.sweeps, F.swept w.kind w.point w.site
  entries : ∀ e ∈ ae.roster.getD [], EntryLawful F.closed e
  once : ((ae.roster.getD []).map (·.roll)).Nodup
  links : LinksAgree ae
  tallies : TalliesInRange ae
  held : (ae.pupils.map (·.roll)).Nodup

/-- The clock and the scanner stand, and the Attendance Engine keeps the day's laws. -/
structure Calm (F : DayFrame) (d : Device) : Prop where
  power : d.mainPower = F.power
  tb : d.tb = F.tb
  ss : d.ss = F.ss
  ae : AeOk F d.ae

theorem Calm.of_eq {F : DayFrame} {d e : Device} (h : Calm F d) (ha : e.ae = d.ae) (ht : e.tb = d.tb) (hs : e.ss = d.ss)
    (hp : e.mainPower = d.mainPower) : Calm F e :=
  ⟨hp.trans h.power, ht.trans h.tb, hs.trans h.ss, by rw [ha]; exact h.ae⟩

/-! ### Entries -/

theorem EntryLawful.same {closed : Nat → Nat → Prop} {e f : RosterEntry} (h : EntryLawful closed e) (hp : f.prior = e.prior)
    (hs : f.state = e.state) (ha : f.arrivalSecond = e.arrivalSecond) (hd : f.due = e.due) : EntryLawful closed f :=
  ⟨by rw [hp]; exact h.prior, by rw [hs, ha]; exact h.expected, by rw [hs, ha, hd]; exact h.absent⟩
/-- A state that no law is about. -/
def RosterState.settled (st : RosterState) : Prop := st ≠ .expected ∧ st ≠ .provisional ∧ st ≠ .unexplained
theorem EntryLawful.moved {closed : Nat → Nat → Prop} {e f : RosterEntry} (h : EntryLawful closed e) (hp : f.prior = e.prior)
    (hs : f.state.settled) : EntryLawful closed f :=
  ⟨by rw [hp]; exact h.prior, fun h => absurd h hs.1, fun h => h.elim (fun h => absurd h hs.2.1) fun h => absurd h hs.2.2⟩
theorem EntryLawful.mono {c1 c2 : Nat → Nat → Prop} (hc : ∀ k s, c1 k s → c2 k s) {e : RosterEntry} (h : EntryLawful c1 e) :
    EntryLawful c2 e :=
  ⟨h.prior, h.expected, fun ha => by
    obtain ⟨h1, q, h2, h3⟩ := h.absent ha
    exact ⟨h1, q, h2, hc _ _ h3⟩⟩
theorem blank_lawful (closed : Nat → Nat → Prop) (roll : Nat) (due : Option DuePoint) (st : RosterState) (b : Bool)
    (hs : st = .expected ∨ st = .notDue) : EntryLawful closed (.blank roll due st b) :=
  ⟨nofun, fun _ => rfl, fun h => by rcases hs with rfl | rfl <;> rcases h with h | h <;> cases h⟩

/-! ### The Attendance Engine -/

theorem AeOk.of_view {F : DayFrame} {a b : Attendance} (h : AeOk F a) (hp : b.pupils = a.pupils) (hc : b.contacts = a.contacts)
    (hr : b.roster = a.roster) (hs : b.sweeps = a.sweeps) : AeOk F b := by
  obtain ⟨s, e, o, ⟨l1, l2, l3, l4, l5, l6⟩, t, u⟩ := h
  refine ⟨by rw [hs]; exact s, by rw [hr]; exact e, by rw [hr]; exact o, ⟨?_, ?_, ?_, ?_, ?_, ?_⟩, ?_, by rw [hp]; exact u⟩
  · rw [hp]; exact l1
  · rw [hc]; exact l2
  · rw [hc]; exact l3
  · rw [hp, hc]; exact l4
  · rw [hp, hc]; exact l5
  · rw [hp]; exact l6
  · unfold TalliesInRange; rw [hp]; exact t

theorem AeOk.sweepsBecome {F : DayFrame} {a : Attendance} (h : AeOk F a) (l : List Sweep)
    (hl : ∀ w ∈ l, ∃ v ∈ a.sweeps, w.kind = v.kind ∧ w.point = v.point ∧ w.site = v.site) : AeOk F { a with sweeps := l } := by
  obtain ⟨s, e, o, ⟨l1, l2, l3, l4, l5, l6⟩, t, u⟩ := h
  refine ⟨fun w hw => ?_, e, o, ⟨l1, l2, l3, l4, l5, l6⟩, t, u⟩
  obtain ⟨v, hv, h1, h2, h3⟩ := hl w hw
  rw [h1, h2, h3]; exact s v hv
theorem AeOk.sweepsMap {F : DayFrame} {a : Attendance} (h : AeOk F a) (f : Sweep → Sweep)
    (hf : ∀ w, (f w).kind = w.kind ∧ (f w).point = w.point ∧ (f w).site = w.site) : AeOk F { a with sweeps := a.sweeps.map f } :=
  h.sweepsBecome _ fun w hw => by
    obtain ⟨v, hv, rfl⟩ := List.mem_map.1 hw
    exact ⟨v, hv, hf v⟩

theorem AeOk.rosterMap {F : DayFrame} {a : Attendance} (h : AeOk F a) (f : RosterEntry → RosterEntry)
    (hf : ∀ e ∈ a.roster.getD [], (f e).roll = e.roll ∧ (EntryLawful F.closed e → EntryLawful F.closed (f e))) :
    AeOk F { a with roster := a.roster.map (·.map f) } := by
  obtain ⟨s, e, o, ⟨l1, l2, l3, l4, l5, l6⟩, t, u⟩ := h
  have hr : (a.roster.map (·.map f)).getD [] = (a.roster.getD []).map f := by cases a.roster <;> rfl
  refine ⟨s, ?_, ?_, ⟨l1, l2, l3, l4, l5, l6⟩, t, u⟩
  · show ∀ x ∈ (a.roster.map (·.map f)).getD [], _
    rw [hr]
    intro x hx
    obtain ⟨y, hy, rfl⟩ := List.mem_map.1 hx
    exact (hf y hy).2 (e y hy)
  · show (((a.roster.map (·.map f)).getD []).map (·.roll)).Nodup
    rw [hr, List.map_map]
    have : (a.roster.getD []).map ((·.roll) ∘ f) = (a.roster.getD []).map (·.roll) := List.map_congr_left fun y hy => (hf y hy).1
    rw [this]; exact o
theorem AeOk.onEntry {F : DayFrame} {a : Attendance} (h : AeOk F a) (roll : Nat) (f : RosterEntry → RosterEntry)
    (hf : ∀ e ∈ a.roster.getD [], e.roll = roll → (f e).roll = e.roll ∧ (EntryLawful F.closed e → EntryLawful F.closed (f e))) :
    AeOk F (a.onEntry roll f) :=
  h.rosterMap (fun e => if e.roll == roll then f e else e) fun e he => by
    split
    · rename_i hr; exact hf e he (by simpa using hr)
    · exact ⟨rfl, id⟩
/-- The entry of a roll number is the only one of it. -/
theorem AeOk.only {F : DayFrame} {a : Attendance} (h : AeOk F a) {roll : Nat} {e : RosterEntry} (he : a.entry roll = some e) :
    EntryLawful F.closed e ∧ ∀ x ∈ a.roster.getD [], x.roll = e.roll → x = e := by
  have hm : e ∈ a.roster.getD [] := by
    unfold Attendance.entry at he
    cases hr : a.roster with
    | none => rw [hr] at he; cases he
    | some l => rw [hr] at he; exact List.mem_of_find?_eq_some he
  exact ⟨h.entries e hm, fun x hx hr => List.inj_on_of_nodup_map h.once hx hm hr⟩

/-- A pupil's record is written with the same roll number, card and slots, and lawful tallies. -/
theorem AeOk.pupilsMap {F : DayFrame} {a : Attendance} (h : AeOk F a) (f : Pupil → Pupil)
    (hf : ∀ p ∈ a.pupils, (f p).roll = p.roll ∧ (f p).slots = p.slots ∧ (f p).card = p.card ∧
      ((f p).latePoints ≤ 255 ∧ (f p).lateMinutes ≤ 65535 ∧ (f p).unexplainedDays ≤ 255)) :
    AeOk F { a with pupils := a.pupils.map f } := by
  obtain ⟨s, e, o, ⟨l1, l2, l3, l4, l5, l6⟩, t, u⟩ := h
  refine ⟨s, e, o, ⟨?_, l2, l3, ?_, ?_, ?_⟩, ?_, ?_⟩
  · intro p hp
    obtain ⟨q, hq, rfl⟩ := List.mem_map.1 hp
    rw [(hf q hq).2.1]; exact l1 q hq
  · intro p hp i hi
    obtain ⟨q, hq, rfl⟩ := List.mem_map.1 hp
    rw [(hf q hq).2.1] at hi; rw [(hf q hq).1]; exact l4 q hq i hi
  · intro c hc r hr
    obtain ⟨q, hq, h1, h2⟩ := l5 c hc r hr
    exact ⟨f q, List.mem_map_of_mem hq, by rw [(hf q hq).1]; exact h1, by rw [(hf q hq).2.1]; exact h2⟩
  · intro p hp q hq n h1 h2
    obtain ⟨p', hp', rfl⟩ := List.mem_map.1 hp
    obtain ⟨q', hq', rfl⟩ := List.mem_map.1 hq
    rw [(hf p' hp').2.2.1] at h1; rw [(hf q' hq').2.2.1] at h2
    rw [(hf p' hp').1, (hf q' hq').1]; exact l6 p' hp' q' hq' n h1 h2
  · intro p hp
    obtain ⟨q, hq, rfl⟩ := List.mem_map.1 hp
    exact (hf q hq).2.2.2
  · show ((a.pupils.map f).map (·.roll)).Nodup
    rw [List.map_map]
    have : a.pupils.map ((·.roll) ∘ f) = a.pupils.map (·.roll) := List.map_congr_left fun q hq => (hf q hq).1
    rw [this]; exact u
theorem AeOk.onPupil {F : DayFrame} {a : Attendance} (h : AeOk F a) (roll : Nat) (f : Pupil → Pupil)
    (hf : ∀ p ∈ a.pupils, p.roll = roll → (f p).roll = p.roll ∧ (f p).slots = p.slots ∧ (f p).card = p.card ∧
      ((f p).latePoints ≤ 255 ∧ (f p).lateMinutes ≤ 65535 ∧ (f p).unexplainedDays ≤ 255)) : AeOk F (a.onPupil roll f) :=
  h.pupilsMap (fun p => if p.roll == roll then f p else p) fun p hp => by
    split
    · rename_i hr; exact hf p hp (by simpa using hr)
    · exact ⟨rfl, rfl, rfl, h.tallies p hp⟩
theorem AeOk.onlyPupil {F : DayFrame} {a : Attendance} (h : AeOk F a) {p : Pupil} (hp : p ∈ a.pupils) :
    ∀ x ∈ a.pupils, x.roll = p.roll → x = p := fun _ hx hr => List.inj_on_of_nodup_map h.held hx hp hr

theorem AeOk.markExcuse {F : DayFrame} {a : Attendance} (h : AeOk F a) (roll : Nat) (r : ExcuseRef) (st : ExcuseState) :
    AeOk F (a.markExcuse roll r st) := h.of_view rfl rfl rfl rfl
theorem AeOk.excuseTaken {F : DayFrame} {a : Attendance} (h : AeOk F a) (x : Excuse) {st : RosterState} (hs : st.settled) :
    AeOk F (a.excuseTaken x st) :=
  AeOk.markExcuse (h.onEntry _ (fun e => { e with state := st, excuseRef := some x.ref }) fun _ _ _ => ⟨rfl, fun he => he.moved rfl hs⟩) _ _ _
theorem AeOk.sweepOn {F : DayFrame} {a : Attendance} (h : AeOk F a) (kind : SweepKind) (k s : Nat) : AeOk F (a.sweepOn kind k s) := by
  have hrel : ∀ w : Sweep, (w.released k s).kind = w.kind ∧ (w.released k s).point = w.point ∧ (w.released k s).site = w.site := by
    intro w; unfold Sweep.released; split <;> exact ⟨rfl, rfl, rfl⟩
  unfold Attendance.sweepOn; split
  · exact h
  · split
    · exact h.sweepsMap _ fun w => by split <;> exact ⟨rfl, rfl, rfl⟩
    · dsimp only
      refine h.sweepsBecome _ fun w hw => ?_
      split at hw
      · obtain ⟨v, hv, rfl⟩ := List.mem_map.1 hw
        exact ⟨v, List.mem_of_mem_filter hv, hrel v⟩
      · exact ⟨w, List.mem_of_mem_filter hw, rfl, rfl, rfl⟩
theorem AeOk.applyAbsences {F : DayFrame} (date : Nat) {a : Attendance} (h : AeOk F a) : AeOk F (applyAbsences date a) := by
  unfold Sys2Proof.Machine.applyAbsences
  generalize List.filter _ _ = l
  induction l generalizing a with
  | nil => exact h
  | cons x l ih =>
    rw [List.foldl_cons]
    refine ih ?_
    split
    · exact h
    · split
      · exact h.excuseTaken _ ⟨nofun, nofun, nofun⟩
      · exact h
theorem AeOk.buildAt {F : DayFrame} (school : Bool) (c roll : Nat) {a : Attendance} (h : AeOk F a)
    (hn : roll ∉ (a.roster.getD []).map RosterEntry.roll) : AeOk F (buildAt school c roll a) := by
  unfold Sys2Proof.Machine.buildAt; split
  · exact h
  · rename_i p hp
    obtain ⟨s, e, o, ⟨l1, l2, l3, l4, l5, l6⟩, t, u⟩ := h
    cases hr : a.roster with
    | none => exact ⟨s, by simp, by simp, ⟨l1, l2, l3, l4, l5, l6⟩, t, u⟩
    | some l =>
      rw [hr] at e o hn
      have hb : ∀ due, (builtEntry school due roll).roll = roll ∧ EntryLawful F.closed (builtEntry school due roll) := fun due => by
        unfold builtEntry; split
        · exact ⟨rfl, blank_lawful _ _ _ _ _ (.inl rfl)⟩
        · exact ⟨rfl, blank_lawful _ _ _ _ _ (.inr rfl)⟩
      refine ⟨s, fun x hx => ?_, ?_, ⟨l1, l2, l3, l4, l5, l6⟩, t, u⟩
      · rcases List.mem_append.1 hx with hx | hx
        · exact e x hx
        · rw [List.mem_singleton.1 hx]; exact (hb _).2
      · show ((l ++ [_]).map RosterEntry.roll).Nodup
        rw [List.map_append, List.map_singleton, (hb _).1]
        refine List.nodup_append.2 ⟨o, by simp, fun x hx y hy => ?_⟩
        rw [List.mem_singleton.1 hy]; rintro rfl; exact hn hx

theorem onAe_calm {F : DayFrame} {f : Attendance → Attendance} {d : Device} (h : Calm F d) (hf : AeOk F (f d.ae)) :
    Calm F (d.onAe f) := ⟨h.power, h.tb, h.ss, hf⟩
theorem raise_calm {F : DayFrame} (c : Cause) {d : Device} (h : Calm F d) : Calm F (d.raise c) := h.of_eq rfl rfl rfl rfl

/-! ### Sounders -/

theorem putZone_calm {F : DayFrame} (z : Nat) (v : ZoneSupervision) {d : Device} (h : Calm F d) : Calm F (d.putZone z v) := by
  unfold Device.putZone; dsimp only; split <;> exact h.of_eq rfl rfl rfl rfl
theorem checkZone_calm {F : DayFrame} (z : Nat) {d : Device} (h : Calm F d) : Calm F (d.checkZone z) := putZone_calm _ _ h
theorem settleZone_calm {F : DayFrame} (was : Bool) (z : Nat) {d : Device} (h : Calm F d) : Calm F (d.settleZone was z) := by
  unfold Device.settleZone; split
  · exact h
  · split
    · exact h.of_eq rfl rfl rfl rfl
    · exact checkZone_calm _ (h.of_eq rfl rfl rfl rfl)
theorem settling_calm {F : DayFrame} (change : Device → Device) {d : Device} (h : Calm F (change d)) : Calm F (settling change d) :=
  foldl_inv (Calm F) _ (fun _ _ hd => settleZone_calm _ _ hd) _ _ h
theorem startPattern_calm {F : DayFrame} (g i : Nat) {d : Device} (h : Calm F d) : Calm F (startPattern g i d) :=
  settling_calm _ (h.of_eq rfl rfl rfl rfl)
theorem exchangeBanks_calm {F : DayFrame} {d : Device} (h : Calm F d) : Calm F (exchangeBanks d) :=
  settling_calm _ (h.of_eq rfl rfl rfl rfl)
theorem changeAlert_calm {F : DayFrame} (f : Sounder → Sounder) {d : Device} (h : Calm F d) : Calm F (changeAlert f d) := by
  have hs : Calm F (settling (fun d => { d with su := f d.su }) d) := settling_calm _ (h.of_eq rfl rfl rfl rfl)
  unfold changeAlert; dsimp only; split
  · exact hs
  · exact raise_calm _ hs
theorem alertInputIs_calm {F : DayFrame} (active : Bool) {d : Device} (h : Calm F d) : Calm F (alertInputIs active d) := by
  unfold alertInputIs; split
  · exact h
  · dsimp only; split
    · exact changeAlert_calm _ (h.of_eq rfl rfl rfl rfl)
    · exact h.of_eq rfl rfl rfl rfl
theorem paKeyIs_calm {F : DayFrame} (held : Bool) {d : Device} (h : Calm F d) : Calm F (paKeyIs held d) :=
  settling_calm _ (h.of_eq rfl rfl rfl rfl)
theorem setZone_calm {F : DayFrame} (zs : ZoneSet) (z : Nat) {d : Device} (h : Calm F d) : Calm F (setZone zs z d) := by
  unfold setZone freeZone; split
  · exact h
  · split
    · exact h.of_eq rfl rfl rfl rfl
    · exact putZone_calm _ _ h
theorem setSupervision_calm {F : DayFrame} (zs : ZoneSet) {d : Device} (h : Calm F d) : Calm F (setSupervision zs d) :=
  foldl_inv (Calm F) _ (fun _ _ hd => setZone_calm _ _ hd) _ _ h
theorem idleCheck_calm {F : DayFrame} (z : Nat) {d : Device} (h : Calm F d) : Calm F (idleCheck z d) := by
  unfold idleCheck; dsimp only; split
  · exact checkZone_calm _ (h.of_eq rfl rfl rfl rfl)
  · exact h
theorem sampleInputs_calm {F : DayFrame} (a k : Bool) {d : Device} (h : Calm F d) : Calm F (sampleInputs a k d) := by
  have ha : Calm F (if a = true then changeAlert (Sounder.raised d.su.alertInputZones) d else d) := by
    split
    · exact changeAlert_calm _ h
    · exact h
  unfold sampleInputs; dsimp only; split
  · exact paKeyIs_calm _ ha
  · exact ha

/-! ### The queue -/

theorem leaveQueue_calm {F : DayFrame} (tag : Nat) {d : Device} (h : Calm F d) : Calm F (leaveQueue tag d) := by
  refine ⟨h.power, h.tb, h.ss, ?_⟩
  unfold leaveQueue queueFell; dsimp only; split
  · exact h.ae.sweepsMap _ fun w => by unfold Sweep.resumed; split <;> exact ⟨rfl, rfl, rfl⟩
  · exact h.ae
theorem addCall_calm {F : DayFrame} (r : CallReason) (u : Bool) (c : CallContent) {d : Device} (h : Calm F d) :
    Calm F (addCall r u c d) := by
  unfold addCall; split <;> exact h.of_eq rfl rfl rfl rfl
theorem toCalls_calm {F : DayFrame} (r : CallReason) (o : Option NoticeOutcome) (n : Notice) {d : Device} (h : Calm F d) :
    Calm F (toCalls r o n d) := addCall_calm _ _ _ h
theorem submit_calm {F : DayFrame} (n : Notice) {d : Device} (h : Calm F d) : Calm F (submit n d) := by
  unfold submit; split
  · exact h.of_eq rfl rfl rfl rfl
  · exact toCalls_calm _ _ _ h
theorem compose_calm {F : DayFrame} (b : NoticeBody) (p c k s y : Nat) {d : Device} (h : Calm F d) : Calm F (compose b p c k s y d) :=
  submit_calm _ (h.of_eq rfl rfl rfl rfl)
theorem composeNoContact_calm {F : DayFrame} (b : NoticeBody) (p : Nat) {d : Device} (h : Calm F d) : Calm F (composeNoContact b p d) :=
  toCalls_calm _ _ _ (h.of_eq rfl rfl rfl rfl)
theorem composeLeftSite_calm {F : DayFrame} (r : SignOut) (roll : Nat) {d : Device} (h : Calm F d) : Calm F (composeLeftSite r roll d) := by
  unfold composeLeftSite; split
  · exact compose_calm _ _ _ _ _ _ h
  · exact composeNoContact_calm _ _ h
theorem composeLateness_calm {F : DayFrame} (b : NoticeBody) (roll : Nat) {d : Device} (h : Calm F d) : Calm F (composeLateness b roll d) := by
  unfold composeLateness; split
  · exact compose_calm _ _ _ _ _ _ h
  · exact h
theorem closeCalled_calm {F : DayFrame} (n : Notice) (r : CalledReason) {d : Device} (h : Calm F d) : Calm F (closeCalled n r d) := by
  unfold closeCalled; split
  · exact h.of_eq rfl rfl rfl rfl
  · exact h
theorem onEntry_calm {F : DayFrame} (roll : Nat) (f : RosterEntry → RosterEntry)
    (hf : ∀ e, (f e).roll = e.roll ∧ (EntryLawful F.closed e → EntryLawful F.closed (f e))) {d : Device} (h : Calm F d) :
    Calm F (d.onAe (·.onEntry roll f)) := onAe_calm h (h.ae.onEntry _ _ fun e _ _ => hf e)
theorem takeReplyCode_calm {F : DayFrame} (n : Notice) (code : Nat) {d : Device} (h : Calm F d) : Calm F (takeReplyCode n code d) := by
  unfold takeReplyCode; split
  · split
    · split
      · split
        · exact onEntry_calm _ (fun e => { e with state := .explained }) (fun e => ⟨rfl, fun he => he.moved rfl ⟨nofun, nofun, nofun⟩⟩) h
        · exact h
      · exact h
    · split
      · exact addCall_calm _ _ _ h
      · exact h
  · exact h
theorem retag_calm {F : DayFrame} (roll old new : Nat) {d : Device} (h : Calm F d) : Calm F (retag roll old new d) :=
  onEntry_calm _ _ (fun e => by split <;> exact ⟨rfl, fun he => he.same rfl rfl rfl rfl⟩) h
theorem unreachable_calm {F : DayFrame} (n : Notice) {d : Device} (h : Calm F d) : Calm F (unreachable n d) := by
  unfold unreachable; split
  · exact h
  · split
    · exact toCalls_calm _ _ _ h
    · split
      · dsimp only; split
        · exact retag_calm _ _ _ (compose_calm _ _ _ _ _ _ h)
        · exact compose_calm _ _ _ _ _ _ h
      · exact toCalls_calm _ _ _ h
theorem outcomeActs_calm {F : DayFrame} (o : NoticeOutcome) (n : Notice) {d : Device} (h : Calm F d) : Calm F (outcomeActs o n d) := by
  cases o
  · exact closeCalled_calm _ _ h
  · exact takeReplyCode_calm _ _ (closeCalled_calm _ _ h)
  · exact unreachable_calm _ h
theorem leaveAwaiting_calm {F : DayFrame} (tag : Nat) {d : Device} (h : Calm F d) : Calm F (leaveAwaiting tag d) :=
  h.of_eq rfl rfl rfl rfl
theorem receipt_calm {F : DayFrame} (n : Notice) {d : Device} (h : Calm F d) : Calm F (receipt n d) := by
  unfold receipt; split
  · exact h
  · exact h
  · split
    · exact outcomeActs_calm _ _ h
    · split
      · exact h.of_eq rfl rfl rfl rfl
      · exact closeCalled_calm _ _ h
theorem touchCall_calm {F : DayFrame} (tag : Nat) (f : CallEntry → CallEntry) {d : Device} (h : Calm F d) :
    Calm F (touchCall tag f d) := h.of_eq rfl rfl rfl rfl
theorem ring_map_calm {F : DayFrame} (f : RingEntry → RingEntry) {d : Device} (h : Calm F d) :
    Calm F { d with rl.ring := d.rl.ring.map f } := h.of_eq rfl rfl rfl rfl
theorem takeOutcome_calm {F : DayFrame} (t v c : Nat) {d : Device} (h : Calm F d) : Calm F (takeOutcome t v c d) := by
  unfold takeOutcome; split
  · exact h
  · split
    · exact outcomeActs_calm _ _ (leaveAwaiting_calm _ h)
    · split
      · exact ring_map_calm _ h
      · split
        · exact touchCall_calm _ _ h
        · exact h
theorem outcomeTimedOut_calm {F : DayFrame} (t : Nat) {d : Device} (h : Calm F d) : Calm F (outcomeTimedOut t d) := by
  unfold outcomeTimedOut; split
  · exact h
  · dsimp only; split
    · exact leaveAwaiting_calm _ h
    · exact toCalls_calm _ _ _ (leaveAwaiting_calm _ h)
theorem fallBack_calm {F : DayFrame} (n : Notice) {d : Device} (h : Calm F d) : Calm F (fallBack n d) :=
  toCalls_calm _ _ _ (leaveQueue_calm _ h)
theorem fallBackAll_calm {F : DayFrame} {d : Device} (h : Calm F d) : Calm F (fallBackAll d) :=
  foldl_inv (Calm F) _ (fun _ _ hd => fallBack_calm _ hd) _ _ h
theorem fallbackDue_calm {F : DayFrame} (t : Nat) {d : Device} (h : Calm F d) : Calm F (fallbackDue t d) := by
  unfold fallbackDue; split
  · exact h
  · split
    · exact h
    · exact fallBack_calm _ h
theorem returnNotices_calm {F : DayFrame} (l : List Notice) (u r b : Nat) {d : Device} (h : Calm F d) :
    Calm F (returnNotices l u r b d) := by
  induction l generalizing u r b d with
  | nil => exact h
  | cons n l ih =>
    unfold returnNotices
    split
    all_goals
      split
      · exact ih _ _ _ (h.of_eq rfl rfl rfl rfl)
      · first
          | exact ih _ _ _ (toCalls_calm _ _ _ h)
          | exact ih _ _ _ h
theorem absenceRule_calm {F : DayFrame} (a : Bool) (roll t : Nat) {d : Device} (h : Calm F d) : Calm F (absenceRule a roll t d) := by
  unfold absenceRule composeArrived; split
  · exact leaveQueue_calm _ h
  · split
    · split
      · exact compose_calm _ _ _ _ _ _ h
      · exact h
    · split
      · split
        · exact compose_calm _ _ _ _ _ _ (leaveAwaiting_calm _ h)
        · exact leaveAwaiting_calm _ h
      · split
        · exact touchCall_calm _ _ h
        · split
          · split
            · exact compose_calm _ _ _ _ _ _ h
            · exact h
          · exact h
theorem absenceRuleFor_calm {F : DayFrame} (a : Bool) (roll : Nat) (t : Option Nat) {d : Device} (h : Calm F d) :
    Calm F (absenceRuleFor a roll t d) := by
  unfold absenceRuleFor; split
  · exact h
  · exact absenceRule_calm _ _ _ h

/-! ### Excuses and the roster -/

theorem recordExcuse_calm {F : DayFrame} (x : Excuse) {d : Device} (h : Calm F d) : Calm F (recordExcuse x d) := by
  have hv : AeOk F { d.ae with excuses := recordIn x d.ae.excuses } := h.ae.of_view rfl rfl rfl rfl
  refine ⟨h.power, h.tb, h.ss, hv.onEntry _ _ fun e _ _ => ?_⟩
  split
  · exact ⟨rfl, id⟩
  · split
    · exact ⟨rfl, fun he => he.same rfl rfl rfl rfl⟩
    · exact ⟨rfl, id⟩
/-- The state an excuse makes is one no law is about (Table 4-5). -/
theorem applied_settled {k : ExcuseKind} {st new : RosterState} {r : RosterResult} (h : applied k st = (some new, r)) : new.settled := by
  cases k <;> cases st <;> cases h <;> exact ⟨nofun, nofun, nofun⟩
theorem applyExcuse_calm {F : DayFrame} (x : Excuse) {d : Device} (h : Calm F d) : Calm F (applyExcuse x d).2 := by
  unfold applyExcuse; split
  · exact h
  · split
    · exact h
    · rename_i ha
      have ht := onAe_calm (f := (·.excuseTaken x _)) h (h.ae.excuseTaken x (applied_settled ha))
      dsimp only; split
      · exact absenceRuleFor_calm _ _ _ ht
      · exact ht
theorem recordAndApply_calm {F : DayFrame} (x : Excuse) {d : Device} (h : Calm F d) : Calm F (recordAndApply x d).2 :=
  applyExcuse_calm _ (recordExcuse_calm _ h)
theorem recordAll_calm {F : DayFrame} (l : List Excuse) {d : Device} (h : Calm F d) : Calm F (recordAll l d).2 := by
  induction l generalizing d with
  | nil => exact h
  | cons x l ih => exact ih (recordAndApply_calm x h)
theorem closeStep_calm {F : DayFrame} (k s : Nat) {d : Device} (h : Calm F d) : Calm F (closeStep k s d) := by
  unfold closeStep; split
  · exact h
  · rename_i w hw
    have hc : F.closed k s := by
      have hm := List.mem_of_find?_eq_some hw
      have hf : w.isFor .close k s = true := List.find?_some hw
      simp only [Sweep.isFor, Bool.and_eq_true, beq_iff_eq] at hf
      have := h.ae.sweeps w hm
      rw [hf.1.1, hf.1.2, hf.2] at this
      exact F.fits k s this
    refine onAe_calm h (AeOk.sweepOn (h.ae.onEntry _ _ fun e _ _ => ?_) _ _ _)
    split
    · rename_i hd
      simp only [Bool.and_eq_true, beq_iff_eq, RosterEntry.isDue] at hd
      exact ⟨rfl, fun he => ⟨he.prior, nofun, fun _ => ⟨he.expected hd.2, ⟨k, s⟩, hd.1, hc⟩⟩⟩
    · exact ⟨rfl, id⟩
theorem composed_ae (b : NoticeBody) (p c k s y : Nat) (d : Device) : (compose b p c k s y d).ae = d.ae := by
  unfold compose submit toCalls addCall; split
  · rfl
  · split <;> rfl
theorem noContact_ae (b : NoticeBody) (p : Nat) (d : Device) : (composeNoContact b p d).ae = d.ae := by
  unfold composeNoContact toCalls addCall; split <;> rfl
theorem confirmEntry_calm {F : DayFrame} (k s : Nat) {roll : Nat} {e : RosterEntry} {d : Device} (he : d.ae.entry roll = some e)
    (hp : e.state = .provisional) (h : Calm F d) : Calm F (confirmEntry k s e d) := by
  have on : ∀ {d : Device}, Calm F d → Calm F (d.onAe (·.sweepOn .confirm k s)) := fun h => onAe_calm h (h.ae.sweepOn _ _ _)
  have made : ∀ {g : Device} (tag : Nat), Calm F g → g.ae = d.ae → Calm F (g.onAe (·.onEntry e.roll (RosterEntry.confirmed tag))) := by
    intro g tag hg ha
    refine onAe_calm hg (hg.ae.onEntry _ _ fun x hx hr => ?_)
    rw [ha] at hx
    have := (h.ae.only he).2 x hx hr
    subst this
    exact ⟨rfl, fun hx => ⟨hx.prior, nofun, fun _ => hx.absent (.inl hp)⟩⟩
  unfold confirmEntry; dsimp only; split
  · exact on (onAe_calm h (h.ae.excuseTaken _ ⟨nofun, nofun, nofun⟩))
  · split
    · split
      · exact on (made _ (compose_calm _ _ _ _ _ _ h) (composed_ae _ _ _ _ _ _ _))
      · exact onAe_calm h (h.ae.sweepsMap _ fun w => by split <;> exact ⟨rfl, rfl, rfl⟩)
    · exact on (made _ (composeNoContact_calm _ _ h) (noContact_ae _ _ _))
theorem confirmStep_calm {F : DayFrame} (k s : Nat) {d : Device} (h : Calm F d) : Calm F (confirmStep k s d) := by
  unfold confirmStep; split
  · exact h
  · split
    · split
      · exact onAe_calm h (h.ae.sweepOn _ _ _)
      · rename_i he
        split
        · rename_i hc
          simp only [Bool.and_eq_true, beq_iff_eq] at hc
          exact confirmEntry_calm _ _ he hc.2 h
        · exact onAe_calm h (h.ae.sweepOn _ _ _)
    · exact h

/-! ### Arrivals and messages -/

theorem appendJournal_calm {F : DayFrame} (r : JournalRecord) {d : Device} (h : Calm F d) : Calm F (appendJournal r d) :=
  ⟨h.power, h.tb, h.ss, h.ae.of_view rfl rfl rfl rfl⟩
theorem askLateRecorded_calm {F : DayFrame} (e : RosterEntry) (b : Band) (m : Nat) {d : Device} (h : Calm F d) :
    Calm F (askLateRecorded e b m d) := by
  unfold askLateRecorded; split
  · exact h
  · split
    · exact composeLateness_calm _ _ h
    · exact h
theorem askLatePattern_calm {F : DayFrame} (roll : Nat) (b : Band) (o n : Nat) {d : Device} (h : Calm F d) :
    Calm F (askLatePattern roll b o n d) := by
  unfold askLatePattern; split
  · exact composeLateness_calm _ _ h
  · exact h
theorem judgedNotices_calm {F : DayFrame} (e : RosterEntry) (b : Band) (m o n : Nat) {d : Device} (h : Calm F d) :
    Calm F (judgedNotices e b m o n d) := by
  have hf : Calm F (if e.state.notified = true then absenceRuleFor true e.roll e.absenceTag d else d) := by
    split
    · exact absenceRuleFor_calm _ _ _ h
    · exact h
  unfold judgedNotices; dsimp only; split
  · exact askLatePattern_calm _ _ _ _ (askLateRecorded_calm _ _ _ hf)
  · exact hf
theorem judgedEntry_ok {F : DayFrame} (e : RosterEntry) (b : Band) (a : Nat) (x : Option Excuse) {ae : Attendance} (h : AeOk F ae) :
    AeOk F (judgedEntry e b a x ae) := by
  have moved := h.onEntry e.roll (fun e => { e with state := b.rosterState, band := some b, arrivalSecond := some a })
    fun _ _ _ => ⟨rfl, fun he => he.moved rfl (by cases b <;> exact ⟨nofun, nofun, nofun⟩)⟩
  unfold judgedEntry; dsimp only
  have marked : AeOk F (match e.overridden with
      | some r => (ae.onEntry e.roll fun e => { e with state := b.rosterState, band := some b, arrivalSecond := some a }).markExcuse
          e.roll r .overridden
      | none => ae.onEntry e.roll fun e => { e with state := b.rosterState, band := some b, arrivalSecond := some a }) := by
    split
    · exact moved.markExcuse _ _ _
    · exact moved
  split
  · split
    · exact marked
    · exact (marked.markExcuse _ _ _).onEntry _ _ fun _ _ _ => ⟨rfl, fun he => he.same rfl rfl rfl rfl⟩
  · exact marked
theorem judgedEntry_pupils (e : RosterEntry) (b : Band) (a : Nat) (x : Option Excuse) (ae : Attendance) :
    (judgedEntry e b a x ae).pupils = ae.pupils := by
  have marked : (match e.overridden with
      | some r => (ae.onEntry e.roll fun e => { e with state := b.rosterState, band := some b, arrivalSecond := some a }).markExcuse
          e.roll r .overridden
      | none => ae.onEntry e.roll fun e => { e with state := b.rosterState, band := some b, arrivalSecond := some a }).pupils =
      ae.pupils := by split <;> rfl
  unfold judgedEntry; dsimp only; split
  · split
    · exact marked
    · exact marked
  · exact marked
theorem plainArrival_calm {F : DayFrame} (a : Arrival) (v : Verdict) {e after : RosterEntry} (he : after.roll = e.roll)
    (hl : EntryLawful F.closed after) {d : Device} (h : Calm F d) : Calm F (plainArrival a v e after d).2 :=
  appendJournal_calm _ (onAe_calm h (h.ae.onEntry _ _ fun _ _ hr => ⟨he.trans hr.symm, fun _ => hl⟩))
theorem takeArrival_calm {F : DayFrame} (a : Arrival) {d : Device} (h : Calm F d) : Calm F (takeArrival a d).2 := by
  unfold takeArrival; split
  · exact appendJournal_calm _ h
  · rename_i p hp
    have hp : p ∈ d.ae.pupils := by
      unfold Device.resolve at hp
      split at hp
      · split at hp
        · exact List.mem_of_find?_eq_some hp
        · cases hp
      · exact List.mem_of_find?_eq_some hp
    split
    · exact appendJournal_calm _ h
    · rename_i e he
      have he : d.ae.entry p.roll = some e := by
        unfold Device.timedEntry at he
        split at he
        · exact he
        · cases he
      obtain ⟨hl, hu⟩ := h.ae.only he
      unfold timedArrival; split
      · split
        · refine judgedNotices_calm _ _ _ _ _ (appendJournal_calm _ (onAe_calm h ?_))
          refine (judgedEntry_ok _ _ _ _ h.ae).onPupil _ _ fun q hq hr => ?_
          rw [judgedEntry_pupils] at hq
          have := h.ae.onlyPupil hp q hq hr
          subst this
          refine ⟨rfl, rfl, rfl, Nat.min_le_left _ _, Nat.min_le_left _ _, (h.ae.tallies q hq).2.2⟩
        · refine plainArrival_calm _ _ ?_ ?_ h
          · unfold unjudgedIn; split <;> rfl
          · unfold unjudgedIn; split
            · rename_i hs
              exact hl.moved rfl (by show e.state.settled; rw [hs]; exact ⟨nofun, nofun, nofun⟩)
            · refine ⟨nofun, ?_, ?_⟩
              all_goals
                cases hq : e.prior with
                | none => intro hh; simp at hh
                | some st =>
                  intro hh
                  rcases hl.prior st hq with rfl | rfl | rfl <;> simp at hh
            · exact hl
      · split
        · rename_i hs
          have ho : AeOk F (d.ae.onEntry e.roll (RosterEntry.signedOut a.reason)) := h.ae.onEntry _ _ fun x hx hr => by
            have := hu x hx hr
            subst this
            refine ⟨rfl, fun _ => ⟨fun st hst => ?_, nofun, nofun⟩⟩
            cases hst
            cases hxs : x.state <;> rw [hxs] at hs <;> first | (cases hs; done) | simp
          unfold signOutArrival; dsimp only; split
          · exact appendJournal_calm _ (onAe_calm (onAe_calm h ho) (ho.excuseTaken _ ⟨nofun, nofun, nofun⟩))
          · exact composeLeftSite_calm _ _ (appendJournal_calm _ (onAe_calm h ho))
        · exact plainArrival_calm _ _ rfl hl h
theorem acknowledge_calm {F : DayFrame} (c : AckCode) (m : ParentMessage) (x f l : Nat) {d : Device} (h : Calm F d) :
    Calm F (acknowledge c m x f l d) := compose_calm _ _ _ _ _ _ h
theorem messageCall_calm {F : DayFrame} (r : CallReason) (u : Bool) (c : Nat) (m : ParentMessage) {d : Device} (h : Calm F d) :
    Calm F (messageCall r u c m d) := addCall_calm _ _ _ h
theorem takeFreeText_calm {F : DayFrame} (m : ParentMessage) (c : Nat) (p : Bool) {d : Device} (h : Calm F d) :
    Calm F (takeFreeText m c p d) := acknowledge_calm _ _ _ _ _ (messageCall_calm _ _ _ _ h)
theorem takeExcusing_calm {F : DayFrame} (m : ParentMessage) (c : Contact) {d : Device} (h : Calm F d) : Calm F (takeExcusing m c d) := by
  unfold takeExcusing; split
  · exact acknowledge_calm _ _ _ _ _ (messageCall_calm _ _ _ _ h)
  · exact acknowledge_calm _ _ _ _ _ (recordAll_calm _ h)
theorem takeMessage_calm {F : DayFrame} (m : ParentMessage) {d : Device} (h : Calm F d) : Calm F (takeMessage m d) := by
  unfold takeMessage; split
  · split
    · exact takeFreeText_calm _ _ _ h
    · exact acknowledge_calm _ _ _ _ _ h
  · split
    · exact takeFreeText_calm _ _ _ h
    · split
      · exact acknowledge_calm _ _ _ _ _ h
      · split
        · exact acknowledge_calm _ _ _ _ _ (messageCall_calm _ _ _ _ h)
        · exact takeExcusing_calm _ _ h
theorem takeContent_calm {F : DayFrame} (c : MsgContent) {d : Device} (h : Calm F d) : Calm F (takeContent c d) := by
  cases c
  · exact takeMessage_calm _ h
  · exact takeOutcome_calm _ _ _ h
  · exact h

/-! ### The relay line -/

theorem retireOne_calm {F : DayFrame} {d : Device} (h : Calm F d) : Calm F (retireOne d) := by
  unfold retireOne; split
  · exact h
  · exact receipt_calm _ (h.of_eq rfl rfl rfl rfl)
theorem retire_calm {F : DayFrame} (k : Nat) {d : Device} (h : Calm F d) : Calm F (retire k d) := by
  induction k generalizing d with
  | zero => exact h
  | succ k ih => exact ih (retireOne_calm h)
theorem applyMark_calm {F : DayFrame} (m : Nat) {d : Device} (h : Calm F d) : Calm F (applyMark m d) := by
  unfold applyMark; split
  · exact retire_calm _ h
  · exact h
theorem takeMark_calm {F : DayFrame} (m : Nat) {d : Device} (h : Calm F d) : Calm F (takeMark m d) := by
  unfold takeMark; split
  · exact h.of_eq rfl rfl rfl rfl
  · exact applyMark_calm _ h
theorem send_calm {F : DayFrame} (f : RelayFrame) (m : Nat) {d : Device} (h : Calm F d) : Calm F (send f m d) :=
  h.of_eq rfl rfl rfl rfl
theorem dispatch_calm {F : DayFrame} (n : Notice) {d : Device} (h : Calm F d) : Calm F (dispatch n d) :=
  send_calm _ _ (leaveQueue_calm _ (h.of_eq rfl rfl rfl rfl))
theorem endReplay_calm {F : DayFrame} {d : Device} (h : Calm F d) : Calm F (endReplay d) := by
  unfold endReplay; dsimp only; split
  · exact h.of_eq rfl rfl rfl rfl
  · exact applyMark_calm _ (h.of_eq rfl rfl rfl rfl)
theorem lineFalls_calm {F : DayFrame} {d : Device} (h : Calm F d) : Calm F (lineFalls d) := by
  have hf : Calm F { d with rl.frame := none } := h.of_eq rfl rfl rfl rfl
  unfold lineFalls; dsimp only; split
  · exact hf.of_eq rfl rfl rfl rfl
  · split
    · exact endReplay_calm hf
    · exact hf.of_eq rfl rfl rfl rfl
  · exact endReplay_calm hf
  · exact hf
  · exact hf
  · exact hf
  · exact hf
theorem chooseNew_calm {F : DayFrame} {d : Device} (h : Calm F d) : Calm F (chooseNew d) := by
  unfold chooseNew; split
  · exact send_calm _ _ (h.of_eq rfl rfl rfl rfl)
  · split
    · exact send_calm _ _ (h.of_eq rfl rfl rfl rfl)
    · split
      · exact dispatch_calm _ h
      · split
        · exact send_calm _ _ h
        · split
          · exact send_calm _ _ h
          · exact h
theorem choose_calm {F : DayFrame} {d : Device} (h : Calm F d) : Calm F (choose d) := by
  unfold choose; split
  · exact send_calm _ _ (h.of_eq rfl rfl rfl rfl)
  · split
    · exact send_calm _ _ (h.of_eq rfl rfl rfl rfl)
    · exact send_calm _ _ (h.of_eq rfl rfl rfl rfl)
    · exact send_calm _ _ (h.of_eq rfl rfl rfl rfl)
    · exact chooseNew_calm h
    · exact chooseNew_calm h
    · exact chooseNew_calm h
    · exact chooseNew_calm h
theorem lineFree_calm {F : DayFrame} {d : Device} (h : Calm F d) : Calm F (lineFree d) := by
  unfold lineFree; split
  · exact choose_calm (lineFalls_calm h)
  · exact h.of_eq rfl rfl rfl rfl
  · exact h
  · exact h
theorem enterStarting_calm {F : DayFrame} {d : Device} (h : Calm F d) : Calm F (enterStarting d) := h.of_eq rfl rfl rfl rfl
theorem emptyLink_calm {F : DayFrame} {d : Device} (h : Calm F d) : Calm F (emptyLink d) :=
  returnNotices_calm _ _ _ _ (h.of_eq rfl rfl rfl rfl)
theorem leaveUp_calm {F : DayFrame} (n : LinkState) {d : Device} (h : Calm F d) : Calm F (leaveUp n d) :=
  fallBackAll_calm ((emptyLink_calm h).of_eq rfl rfl rfl rfl)
theorem relayRestart_calm {F : DayFrame} {d : Device} (h : Calm F d) : Calm F (relayRestart d) :=
  (emptyLink_calm h).of_eq rfl rfl rfl rfl
theorem enterUp_calm {F : DayFrame} {d : Device} (h : Calm F d) : Calm F (enterUp d) := h.of_eq rfl rfl rfl rfl
theorem badFrame_calm {F : DayFrame} {d : Device} (h : Calm F d) : Calm F (badFrame d) := by
  unfold badFrame; split
  · dsimp only; split
    · exact h.of_eq rfl rfl rfl rfl
    · exact h.of_eq rfl rfl rfl rfl
  · exact h
theorem takeMsg_calm {F : DayFrame} (s p m : Nat) (c : MsgContent) {d : Device} (h : Calm F d) : Calm F (takeMsg s p m c d) := by
  have hm := takeMark_calm m h
  unfold takeMsg; dsimp only; split
  · exact hm.of_eq rfl rfl rfl rfl
  · exact takeContent_calm _ (hm.of_eq rfl rfl rfl rfl)
theorem judgeMsg_calm {F : DayFrame} (s p m : Nat) (c : MsgContent) {d : Device} (h : Calm F d) : Calm F (judgeMsg s p m c d) := by
  unfold judgeMsg; split
  · exact h.of_eq rfl rfl rfl rfl
  · split
    · exact takeMsg_calm _ _ _ _ h
    · split
      · exact takeMark_calm _ h
      · exact h.of_eq rfl rfl rfl rfl
theorem heard_calm {F : DayFrame} {d : Device} (h : Calm F d) : Calm F (heard d) := h.of_eq rfl rfl rfl rfl
theorem receiveMsg_calm {F : DayFrame} (s p m : Nat) (b : List Byte) {d : Device} (h : Calm F d) : Calm F (receiveMsg s p m b d) := by
  unfold receiveMsg; split
  · split
    · exact badFrame_calm h
    · split
      · exact heard_calm h
      · exact judgeMsg_calm _ _ _ _ (heard_calm h)
  · exact h
theorem receiveMark_calm {F : DayFrame} (m : Nat) {d : Device} (h : Calm F d) : Calm F (receiveMark m d) := by
  unfold receiveMark; split
  · split
    · exact heard_calm h
    · exact takeMark_calm _ (heard_calm h)
  · exact h
theorem rewindRequest_calm {F : DayFrame} {d : Device} (h : Calm F d) : Calm F (rewindRequest d) := by
  unfold rewindRequest; split <;> exact h.of_eq rfl rfl rfl rfl
theorem receiveRewind_calm {F : DayFrame} (m : Nat) {d : Device} (h : Calm F d) : Calm F (receiveRewind m d) := by
  unfold receiveRewind; dsimp only; split
  · exact takeMark_calm _ (rewindRequest_calm (h.of_eq rfl rfl rfl rfl))
  · split
    · exact h.of_eq rfl rfl rfl rfl
    · exact takeMark_calm _ (h.of_eq rfl rfl rfl rfl)
theorem receiveClear_calm {F : DayFrame} (m : Nat) {d : Device} (h : Calm F d) : Calm F (receiveClear m d) := by
  unfold receiveClear; dsimp only; split
  · split
    · exact takeMark_calm _ (h.of_eq rfl rfl rfl rfl)
    · exact h.of_eq rfl rfl rfl rfl
  · exact takeMark_calm _ (h.of_eq rfl rfl rfl rfl)
theorem receiveResync_calm {F : DayFrame} (f m : Nat) {d : Device} (h : Calm F d) : Calm F (receiveResync f m d) := by
  unfold receiveResync; split
  · split
    · exact receiveRewind_calm _ h
    · split
      · exact receiveClear_calm _ h
      · exact badFrame_calm h
  · exact h
theorem receiveStart_calm {F : DayFrame} {d : Device} (h : Calm F d) : Calm F (receiveStart d) := by
  unfold receiveStart; split
  · exact enterUp_calm h
  · split
    · exact h.of_eq rfl rfl rfl rfl
    · exact relayRestart_calm h
  · exact h
  · exact h
theorem resyncExpired_calm {F : DayFrame} {d : Device} (h : Calm F d) : Calm F (resyncExpired d) := by
  unfold resyncExpired; split
  · split
    · exact h.of_eq rfl rfl rfl rfl
    · exact leaveUp_calm _ h
  · exact h
theorem relayStart_calm {F : DayFrame} {d : Device} (h : Calm F d) : Calm F (relayStart d) := by
  unfold relayStart; split
  · exact enterStarting_calm h
  · exact enterStarting_calm h
  · exact h
  · exact h
theorem relayStop_calm {F : DayFrame} {d : Device} (h : Calm F d) : Calm F (relayStop d) := by
  unfold relayStop; split
  · exact h
  · exact leaveUp_calm _ h
  · exact h.of_eq rfl rfl rfl rfl
  · exact h.of_eq rfl rfl rfl rfl
theorem writeSettings_calm {F : DayFrame} (s : RelaySettings) {d : Device} (h : Calm F d) : Calm F (writeSettings s d) := by
  unfold writeSettings; dsimp only; split
  · exact enterStarting_calm (h.of_eq rfl rfl rfl rfl)
  · exact h.of_eq rfl rfl rfl rfl
theorem relayWarm_calm {F : DayFrame} {d : Device} (h : Calm F d) : Calm F (relayWarm d) := by
  have he := emptyLink_calm h
  have hl : Calm F (if d.rl.link = .up then fallBackAll (emptyLink d) else emptyLink d) := by
    split
    · exact fallBackAll_calm he
    · exact he
  unfold relayWarm; dsimp only; split
  · exact enterStarting_calm (hl.of_eq rfl rfl rfl rfl)
  · exact hl.of_eq rfl rfl rfl rfl

/-! ### The gate bus and the bulletin -/

theorem moveStation_calm {F : DayFrame} (a : Nat) (st : Station) {d : Device} (h : Calm F d) : Calm F (moveStation a st d) := by
  unfold moveStation; dsimp only; split <;> exact h.of_eq rfl rfl rfl rfl
theorem settleRound_calm {F : DayFrame} {d : Device} (h : Calm F d) : Calm F (settleRound d) := h.of_eq rfl rfl rfl rfl
theorem dropReply_calm {F : DayFrame} {d : Device} (h : Calm F d) : Calm F (dropReply d) := settleRound_calm (h.of_eq rfl rfl rfl rfl)
theorem receiveReply_calm {F : DayFrame} (c l : Bool) (a f : Nat) (rs : List GateRecord) {d : Device} (h : Calm F d) :
    Calm F (receiveReply c l a f rs d) := by
  unfold receiveReply takeReply missedReply; split
  · exact h
  · split
    · exact dropReply_calm h
    · split
      · exact settleRound_calm (moveStation_calm _ _ (h.of_eq rfl rfl rfl rfl))
      · exact settleRound_calm (moveStation_calm _ _ (h.of_eq rfl rfl rfl rfl))
theorem replyTimedOut_calm {F : DayFrame} {d : Device} (h : Calm F d) : Calm F (replyTimedOut d) := by
  unfold replyTimedOut missedReply; split
  · exact h
  · split
    · exact dropReply_calm h
    · exact settleRound_calm (moveStation_calm _ _ (h.of_eq rfl rfl rfl rfl))
theorem takeRecord_calm {F : DayFrame} (a : Nat) (r : GateRecord) {d : Device} (h : Calm F d) : Calm F (takeRecord a r d) := by
  unfold takeRecord; dsimp only; split
  · exact h.of_eq rfl rfl rfl rfl
  · exact (takeArrival_calm _ h).of_eq rfl rfl rfl rfl
theorem takeNextRecord_calm {F : DayFrame} {d : Device} (h : Calm F d) : Calm F (takeNextRecord d) := by
  unfold takeNextRecord; split
  · exact h
  · exact takeRecord_calm _ _ (h.of_eq rfl rfl rfl rfl)
theorem takeWaiting_calm {F : DayFrame} {d : Device} (h : Calm F d) : Calm F (takeWaiting d) :=
  repeated_inv (Calm F) _ (fun _ hd => takeNextRecord_calm hd) _ _ h
theorem setStation_calm {F : DayFrame} (a : Nat) (en : Bool) (site : Nat) {d : Device} (h : Calm F d) : Calm F (setStation a en site d) := by
  unfold setStation; dsimp only
  refine settleRound_calm ?_
  split <;> exact (takeWaiting_calm h).of_eq rfl rfl rfl rfl
theorem fanoutOn_calm {F : DayFrame} {d : Device} (h : Calm F d) : Calm F (fanoutOn d) := by
  unfold fanoutOn; split <;> exact h.of_eq rfl rfl rfl rfl
theorem bulletinFor_calm {F : DayFrame} (p : Pupil) {d : Device} (h : Calm F d) : Calm F (bulletinFor p d) := by
  unfold bulletinFor; split
  · exact fanoutOn_calm (h.of_eq rfl rfl rfl rfl)
  · split
    · exact h.of_eq rfl rfl rfl rfl
    · exact fanoutOn_calm ((compose_calm _ _ _ _ _ _ h).of_eq rfl rfl rfl rfl)
theorem fanoutStep_calm {F : DayFrame} {d : Device} (h : Calm F d) : Calm F (fanoutStep d) := by
  unfold fanoutStep; split
  · split
    · exact fanoutOn_calm h
    · split
      · exact bulletinFor_calm _ h
      · exact fanoutOn_calm h
  · exact h
theorem secondPassed_calm {F : DayFrame} {d : Device} (h : Calm F d) : Calm F (secondPassed d) := h.of_eq rfl rfl rfl rfl

/-! ### The requests -/

theorem clearTallies_calm {F : DayFrame} (chosen : Pupil → Bool) (choice : BitVec 3) {d : Device} (h : Calm F d) :
    Calm F (d.onAe fun ae => { ae with pupils := ae.pupils.map fun p => if chosen p then p.tallyCleared choice else p }) := by
  refine onAe_calm h (h.ae.pupilsMap _ fun p hp => ?_)
  have ht := h.ae.tallies p hp
  have cleared : ∀ {b : Bool} {n m : Nat}, n ≤ m → (if b = true then 0 else n) ≤ m := fun hn => by split <;> omega
  split
  · exact ⟨rfl, rfl, rfl, cleared ht.1, cleared ht.2.1, cleared ht.2.2⟩
  · exact ⟨rfl, rfl, rfl, ht⟩
theorem takeMarkFor_calm {F : DayFrame} {n : Nat} {m : RosterState} (hm : markCode n = some m) (e : RosterEntry) {d : Device}
    (h : Calm F d) : Calm F (takeMarkFor m e d) := by
  have hs : m.settled := by
    unfold markCode at hm; split at hm <;> cases hm <;> exact ⟨nofun, nofun, nofun⟩
  have hk : Calm F (d.onAe (·.onEntry e.roll (RosterEntry.marked m d.tb.second))) :=
    onEntry_calm _ _ (fun e => by
      unfold RosterEntry.marked; split
      · exact ⟨rfl, fun he => he.moved rfl ⟨nofun, nofun, nofun⟩⟩
      · exact ⟨rfl, fun he => he.moved rfl hs⟩) h
  unfold takeMarkFor; dsimp only; split
  · exact absenceRuleFor_calm _ _ _ hk
  · exact hk
theorem removeExcuse_calm {F : DayFrame} (x : Excuse) {d : Device} (h : Calm F d) : Calm F (d.onAe (·.removeExcuse x)) := by
  refine onAe_calm h ?_
  have hv : AeOk F { d.ae with excuses := d.ae.excuses.filter fun y => !(y.pupil == x.pupil && y.kind == x.kind && y.first == x.first) } :=
    h.ae.of_view rfl rfl rfl rfl
  exact hv.onEntry x.pupil (fun e => if e.excuseRef = some x.ref then { e with excuseRef := none } else e) fun e _ _ => by
    split
    · exact ⟨rfl, fun he => he.same rfl rfl rfl rfl⟩
    · exact ⟨rfl, id⟩
theorem beginRound_calm {F : DayFrame} {d : Device} (h : Calm F d) : Calm F (beginRound d) := by
  unfold beginRound; split
  · exact h.of_eq rfl rfl rfl rfl
  · exact h
theorem pollNext_calm {F : DayFrame} {d : Device} (h : Calm F d) : Calm F (pollNext d) := by
  unfold pollNext; split
  · split <;> exact h.of_eq rfl rfl rfl rfl
  · exact h

end Sys2Proof.Machine
end

