-- ==== Sys2Proof/Laws/Links.lean ====
section
/-! SUPPORT. The requests of the roll and the contact table keep the two in agreement (R41 to R49), each said once. -/
namespace Sys2Proof.Machine

theorem contactOf_key {ae : Attendance} {key : Nat} {c : Contact} (h : ae.contactOf key = some c) : c ∈ ae.contacts ∧ c.key = key :=
  ⟨List.mem_of_find?_eq_some h, by have := List.find?_some h; simpa using this⟩
theorem LinksAgree.byKey {ae : Attendance} (h : LinksAgree ae) {c d : Contact} (hc : c ∈ ae.contacts) (hd : d ∈ ae.contacts)
    (hk : c.key = d.key) : c = d := List.inj_on_of_nodup_map (h.contacts.1.imp Nat.ne_of_lt) hc hd hk
theorem LinksAgree.byIndex {ae : Attendance} (h : LinksAgree ae) {c d : Contact} (hc : c ∈ ae.contacts) (hd : d ∈ ae.contacts)
    (hk : c.index = d.index) : c = d := List.inj_on_of_nodup_map h.contacts.2.1 hc hd hk

theorem linked_same (roll : Nat) (b : Bool) (c : Contact) : (c.linked roll b).key = c.key ∧ (c.linked roll b).index = c.index := by
  unfold Contact.linked; split
  · split <;> exact ⟨rfl, rfl⟩
  · exact ⟨rfl, rfl⟩
theorem linked_pupils (roll : Nat) (b : Bool) (c : Contact) (r : Nat) :
    r ∈ (c.linked roll b).pupils ↔ if r = roll then b = true ∧ r = roll else r ∈ c.pupils := by
  unfold Contact.linked
  cases b
  · simp only [Bool.false_eq_true, if_false, List.mem_filter, bne_iff_ne, ne_eq, false_and]
    split
    · rename_i h; simp [h]
    · rename_i h; simp [h]
  · simp only [if_true]
    split
    · rename_i hc
      have hc : roll ∈ c.pupils := by simpa using hc
      split
      · rename_i h; subst h; simp [hc]
      · rfl
    · simp only [List.mem_append, List.mem_singleton]
      split
      · rename_i h; simp [h]
      · rename_i h; simp [h]
theorem linked_nodup (roll : Nat) (b : Bool) {c : Contact} (h : c.pupils.Nodup) : (c.linked roll b).pupils.Nodup := by
  unfold Contact.linked; split
  · split
    · exact h
    · rename_i hc
      have hc : roll ∉ c.pupils := by simpa using hc
      refine List.nodup_append.2 ⟨h, by simp, fun x hx y hy => ?_⟩
      rw [List.mem_singleton.1 hy]; rintro rfl; exact hc hx
  · exact h.filter _

/-- A pupil is written with slots that the contacts then list (R42, R43). -/
theorem linkPupil_links {ae : Attendance} (h : LinksAgree ae) {p : Pupil} (hs : p.slots.length = 3)
    (hn : (p.slots.filterMap id).Nodup) (hk : ∀ i ∈ p.slots.filterMap id, ∃ c ∈ ae.contacts, c.index = i)
    (hf : ∀ c ∈ ae.contacts, c.index ∈ p.slots.filterMap id → c.pupils.length < 6 ∨ p.roll ∈ c.pupils)
    (hc : ∀ q ∈ ae.pupils, ∀ n, p.card = some n → q.card = some n → q.roll = p.roll) :
    LinksAgree (({ ae with pupils := putPupil p ae.pupils } : Attendance).linkContacts p.roll (p.slots.filterMap id)) := by
  have mem : ∀ i, some i ∈ p.slots ↔ i ∈ p.slots.filterMap id := fun i => by simp
  have named : ∀ i, (p.slots.filterMap id).contains i = true ↔ some i ∈ p.slots := fun i => by
    rw [mem]; exact List.contains_iff_mem
  constructor
  · intro q hq
    rcases (mem_putPupil _ _ _).1 hq with rfl | ⟨hq, _⟩
    · exact ⟨hs, hn⟩
    · exact h.slots q hq
  · intro c hc'
    obtain ⟨d, hd, rfl⟩ := List.mem_map.1 hc'
    refine ⟨?_, linked_nodup _ _ (h.lists d hd).2⟩
    have hl := (h.lists d hd).1
    unfold Contact.linked; split
    · rename_i hnm
      split
      · exact hl
      · rename_i hnc
        have hnc : p.roll ∉ d.pupils := by simpa using hnc
        have := (hf d hd ((mem _).1 ((named _).1 hnm))).resolve_right hnc
        simp only [List.length_append, List.length_singleton]; omega
    · exact Nat.le_trans (List.length_filter_le _ _) hl
  · show (((ae.contacts.map _).map _).Pairwise (· < ·) ∧ ((ae.contacts.map _).map _).Nodup ∧ (ae.contacts.map _).length ≤ 4096)
    rw [List.map_map, List.map_map, List.length_map]
    have e1 : ae.contacts.map ((·.key) ∘ fun c => c.linked p.roll ((p.slots.filterMap id).contains c.index)) =
      ae.contacts.map (·.key) := List.map_congr_left fun c _ => (linked_same _ _ c).1
    have e2 : ae.contacts.map ((·.index) ∘ fun c => c.linked p.roll ((p.slots.filterMap id).contains c.index)) =
      ae.contacts.map (·.index) := List.map_congr_left fun c _ => (linked_same _ _ c).2
    rw [e1, e2]; exact h.contacts
  · intro q hq i hi
    have put : ∀ c ∈ ae.contacts, c.index = i → (q.roll = p.roll ∧ some i ∈ p.slots ∨ q.roll ≠ p.roll ∧ q.roll ∈ c.pupils) →
        ∃ c ∈ ae.contacts.map (fun c => c.linked p.roll ((p.slots.filterMap id).contains c.index)), c.index = i ∧ q.roll ∈ c.pupils := by
      intro c hc' he hr
      refine ⟨_, List.mem_map_of_mem hc', by rw [(linked_same _ _ c).2]; exact he, ?_⟩
      rw [linked_pupils]
      rcases hr with ⟨hr, hi⟩ | ⟨hr, hm⟩
      · rw [if_pos hr]; exact ⟨(named _).2 (by rw [he]; exact hi), hr⟩
      · rw [if_neg hr]; exact hm
    rcases (mem_putPupil _ _ _).1 hq with rfl | ⟨hq, hne⟩
    · obtain ⟨c, hc', he⟩ := hk i ((mem i).1 hi)
      exact put c hc' he (.inl ⟨rfl, hi⟩)
    · obtain ⟨c, hc', he, hm⟩ := h.named q hq i hi
      exact put c hc' he (.inr ⟨hne, hm⟩)
  · intro c hc' r hr
    obtain ⟨d, hd, rfl⟩ := List.mem_map.1 hc'
    rw [linked_pupils] at hr
    rw [(linked_same _ _ d).2]
    split at hr
    · exact ⟨p, (mem_putPupil _ _ _).2 (.inl rfl), hr.2.symm, (named _).1 hr.1⟩
    · rename_i hne
      obtain ⟨q, hq, hqr, hqs⟩ := h.listed d hd r hr
      exact ⟨q, (mem_putPupil _ _ _).2 (.inr ⟨hq, by rw [hqr]; exact hne⟩), hqr, hqs⟩
  · intro q hq x hx n h1 h2
    rcases (mem_putPupil _ _ _).1 hq with e1 | ⟨hq, _⟩ <;> rcases (mem_putPupil _ _ _).1 hx with e2 | ⟨hx, _⟩
    · rw [e1, e2]
    · rw [e1] at h1 ⊢; exact (hc x hx n h1 h2).symm
    · rw [e2] at h2 ⊢; exact hc q hq n h2 h1
    · exact h.cards q hq x hx n h1 h2

theorem slotIndices (ae : Attendance) (slots : List (Option Nat)) :
    (slots.map ae.slotIndex).filterMap id = (slots.filterMap id).filterMap fun k => (ae.contactOf k).map (·.index) := by
  induction slots with
  | nil => rfl
  | cons s slots ih =>
    cases s with
    | none => exact ih
    | some k =>
      simp only [List.map_cons, List.filterMap_cons, id, Attendance.slotIndex, Option.bind_some] at ih ⊢
      rw [ih]

/-- What LOAD_PUPIL's checks leave (R41). -/
structure PupilLoads (ae : Attendance) (roll : Nat) (card : Option Nat) (slots : List (Option Nat)) : Prop where
  three : slots.length = 3
  known : ∀ k ∈ slots.filterMap id, ∃ c, ae.contactOf k = some c
  once : (slots.filterMap id).Nodup
  card : ∀ q ∈ ae.pupils, ∀ n, card = some n → q.card = some n → q.roll = roll
  room : ∀ k ∈ slots.filterMap id, ∀ c, ae.contactOf k = some c → c.pupils.length < 6 ∨ roll ∈ c.pupils

theorem loadedPupil_fields (ae : Attendance) (roll : Nat) (card : Option Nat) (cohort group grace : Nat) (slots : List (Option Nat)) :
    (ae.loadedPupil roll card cohort group grace slots).roll = roll ∧
    (ae.loadedPupil roll card cohort group grace slots).card = card ∧
    (ae.loadedPupil roll card cohort group grace slots).slots = slots.map ae.slotIndex := by
  unfold Attendance.loadedPupil; dsimp only; split <;> exact ⟨rfl, rfl, rfl⟩

theorem loadPupil_links {ae : Attendance} (h : LinksAgree ae) {roll : Nat} {card : Option Nat} {slots : List (Option Nat)}
    (hl : PupilLoads ae roll card slots) (cohort group grace : Nat) :
    LinksAgree (ae.loadPupil (ae.loadedPupil roll card cohort group grace slots)) := by
  obtain ⟨f1, f2, f3⟩ := loadedPupil_fields ae roll card cohort group grace slots
  generalize ae.loadedPupil roll card cohort group grace slots = p at f1 f2 f3
  have idx : ∀ i, i ∈ p.slots.filterMap id ↔ ∃ k ∈ slots.filterMap id, ∃ c, ae.contactOf k = some c ∧ c.index = i := fun i => by
    rw [f3, slotIndices, List.mem_filterMap]; simp
  have hk := linkPupil_links h (p := p) (by rw [f3, List.length_map]; exact hl.three) ?_ ?_ ?_ ?_
  · unfold Attendance.loadPupil; dsimp only
    generalize ({ ae with pupils := putPupil p ae.pupils } : Attendance).linkContacts p.roll (p.slots.filterMap id) = w at hk
    split
    · exact hk
    · exact ⟨hk.slots, hk.lists, hk.contacts, hk.named, hk.listed, hk.cards⟩
  · rw [f3, slotIndices]
    refine List.Nodup.filterMap (fun a b i ha hb => ?_) hl.once
    simp only [Option.mem_def, Option.map_eq_some_iff] at ha hb
    obtain ⟨c, hc, rfl⟩ := ha
    obtain ⟨e, he, hi⟩ := hb
    have := h.byIndex (contactOf_key he).1 (contactOf_key hc).1 hi
    subst this
    exact (contactOf_key hc).2.symm.trans (contactOf_key he).2
  · intro i hi
    obtain ⟨k, _, c, hc, hi⟩ := (idx i).1 hi
    exact ⟨c, (contactOf_key hc).1, hi⟩
  · intro c hc hi
    obtain ⟨k, hkm, e, he, hi⟩ := (idx _).1 hi
    have := h.byIndex (contactOf_key he).1 hc hi
    subst this
    rw [f1]; exact hl.room k hkm e he
  · intro q hq n h1 h2
    rw [f2] at h1; rw [f1]; exact hl.card q hq n h1 h2

theorem loadPupil_tallies {ae : Attendance} (h : TalliesInRange ae) (roll : Nat) (card : Option Nat) (cohort group grace : Nat)
    (slots : List (Option Nat)) : TalliesInRange (ae.loadPupil (ae.loadedPupil roll card cohort group grace slots)) := by
  have hp : (ae.loadPupil (ae.loadedPupil roll card cohort group grace slots)).pupils =
      putPupil (ae.loadedPupil roll card cohort group grace slots) ae.pupils := by
    unfold Attendance.loadPupil; dsimp only; split <;> rfl
  intro q hq
  rw [hp] at hq
  rcases (mem_putPupil _ _ _).1 hq with rfl | ⟨hq, _⟩
  · unfold Attendance.loadedPupil; dsimp only; split
    · exact ⟨Nat.zero_le _, Nat.zero_le _, Nat.zero_le _⟩
    · rename_i old hf; exact h old (List.mem_of_find?_eq_some hf)
  · exact h q hq
theorem loadPupil_entries {closed : Nat → Nat → Prop} {ae : Attendance} (p : Pupil)
    (h : ∀ e ∈ ae.roster.getD [], EntryLawful closed e) : ∀ e ∈ (ae.loadPupil p).roster.getD [], EntryLawful closed e := by
  unfold Attendance.loadPupil; dsimp only; split
  · exact h
  · unfold Attendance.addEntry Attendance.linkContacts
    cases hr : ae.roster with
    | none => intro e he; simp at he
    | some l =>
      rw [hr] at h
      intro e he
      have he : e ∈ insertBefore (fun a b : RosterEntry => a.roll < b.roll) (.blank p.roll none .notDue false) l := he
      rcases (mem_insertBefore _ _ _ _).1 he with rfl | he
      · exact blank_lawful _ _ _ _ _ (.inr rfl)
      · exact h e he

theorem dropPupil_links {ae : Attendance} (h : LinksAgree ae) (roll : Nat) : LinksAgree (ae.dropPupil roll) := by
  have mem : ∀ q, q ∈ (ae.dropPupil roll).pupils ↔ q ∈ ae.pupils ∧ q.roll ≠ roll := fun q => by
    show q ∈ ae.pupils.filter (·.roll != roll) ↔ _
    simp
  have hcon : (ae.dropPupil roll).contacts = ae.contacts.map fun c => c.linked roll false := rfl
  constructor
  · intro q hq; exact h.slots q ((mem q).1 hq).1
  · intro c hc
    rw [hcon] at hc
    obtain ⟨d, hd, rfl⟩ := List.mem_map.1 hc
    exact ⟨Nat.le_trans (List.length_filter_le _ _) (h.lists d hd).1, linked_nodup _ _ (h.lists d hd).2⟩
  · rw [hcon, List.map_map, List.map_map, List.length_map]; exact h.contacts
  · intro q hq i hi
    obtain ⟨hq, hne⟩ := (mem q).1 hq
    obtain ⟨c, hc, he, hm⟩ := h.named q hq i hi
    refine ⟨c.linked roll false, by rw [hcon]; exact List.mem_map_of_mem hc, he, ?_⟩
    rw [linked_pupils, if_neg hne]; exact hm
  · intro c hc r hr
    rw [hcon] at hc
    obtain ⟨d, hd, rfl⟩ := List.mem_map.1 hc
    rw [linked_pupils] at hr
    split at hr
    · cases hr.1
    · rename_i hne
      obtain ⟨q, hq, hqr, hqs⟩ := h.listed d hd r hr
      exact ⟨q, (mem q).2 ⟨hq, by rw [hqr]; exact hne⟩, hqr, hqs⟩
  · intro q hq x hx n h1 h2
    exact h.cards q ((mem q).1 hq).1 x ((mem x).1 hx).1 n h1 h2

theorem relinked_same (i : Nat) (b : Bool) (p : Pupil) : (p.relinked i b).roll = p.roll ∧ (p.relinked i b).card = p.card ∧
    (p.relinked i b).latePoints = p.latePoints ∧ (p.relinked i b).lateMinutes = p.lateMinutes ∧
    (p.relinked i b).unexplainedDays = p.unexplainedDays ∧ (p.relinked i b).slots.length = p.slots.length := by
  unfold Pupil.relinked; split
  · split
    · exact ⟨rfl, rfl, rfl, rfl, rfl, rfl⟩
    · exact ⟨rfl, rfl, rfl, rfl, rfl, List.length_set⟩
  · exact ⟨rfl, rfl, rfl, rfl, rfl, List.length_map _⟩
/-- The slot a newly listed pupil's contact takes was absent (R48). -/
theorem set_absent {l : List (Option Nat)} (h : none ∈ l) (i : Nat) :
    ∃ a b, l = a ++ none :: b ∧ l.set (l.findIdx (· == none)) (some i) = a ++ some i :: b := by
  induction l with
  | nil => cases h
  | cons x l ih =>
    cases x with
    | none => exact ⟨[], l, rfl, rfl⟩
    | some y =>
      obtain ⟨a, b, h1, h2⟩ := ih (by simpa using h)
      refine ⟨some y :: a, b, by rw [h1]; rfl, ?_⟩
      have : (some y :: l).findIdx (· == none) = l.findIdx (· == none) + 1 := by simp [List.findIdx_cons]
      rw [this, List.set_cons_succ, h2]; rfl
theorem relinked_nodup (i : Nat) (b : Bool) {p : Pupil} (h : (p.slots.filterMap id).Nodup) :
    ((p.relinked i b).slots.filterMap id).Nodup := by
  unfold Pupil.relinked; split
  · split
    · exact h
    · rename_i hc
      have hc : some i ∉ p.slots := by simpa using hc
      by_cases hn : none ∈ p.slots
      · obtain ⟨x, y, h1, h2⟩ := set_absent hn i
        show ((p.slots.set _ _).filterMap id).Nodup
        rw [h2]
        rw [h1] at h hc
        simp only [List.filterMap_append, List.filterMap_cons, id] at h ⊢
        refine (List.perm_middle.nodup_iff).2 (List.nodup_cons.2 ⟨?_, h⟩)
        simpa using hc
      · have : p.slots.findIdx (· == none) = p.slots.length := List.findIdx_eq_length.2 fun x hx => by
          cases x with
          | none => exact absurd hx hn
          | some y => rfl
        show ((p.slots.set _ _).filterMap id).Nodup
        rw [this, List.set_eq_of_length_le (Nat.le_refl _)]; exact h
  · have : (p.slots.map fun s => if s = some i then none else s).filterMap id = (p.slots.filterMap id).filter (· != i) := by
      generalize p.slots = l
      induction l with
      | nil => rfl
      | cons s l ih =>
        cases s with
        | none => simpa using ih
        | some j =>
          by_cases hj : j = i
          · subst hj; simpa using ih
          · simpa [hj] using ih
    show ((p.slots.map fun s => if s = some i then none else s).filterMap id).Nodup
    rw [this]; exact h.filter _
/-- A pupil's slots after a contact's list changes: the contact's index is in if the pupil is listed, and every other index stands. -/
theorem relinked_slots (i : Nat) (b : Bool) (p : Pupil) (hr : b = true → none ∈ p.slots ∨ some i ∈ p.slots) (j : Nat) :
    some j ∈ (p.relinked i b).slots ↔ if j = i then b = true else some j ∈ p.slots := by
  unfold Pupil.relinked; split
  · rename_i hb
    subst hb
    split
    · rename_i hc
      have hc : some i ∈ p.slots := by simpa using hc
      split
      · rename_i hj; subst hj; simp [hc]
      · rfl
    · rename_i hc
      have hc : some i ∉ p.slots := by simpa using hc
      obtain ⟨x, y, h1, h2⟩ := set_absent ((hr rfl).resolve_right hc) i
      show some j ∈ p.slots.set _ _ ↔ _
      rw [h2, h1]
      by_cases hj : j = i
      · subst hj; simp
      · simp [hj]
  · rename_i hb
    show some j ∈ p.slots.map _ ↔ _
    simp only [List.mem_map]
    by_cases hj : j = i
    · subst hj
      rw [if_pos rfl]
      refine ⟨fun ⟨x, _, he⟩ => ?_, fun hh => absurd hh hb⟩
      split at he
      · cases he
      · rename_i hx; exact absurd he hx
    · rw [if_neg hj]
      constructor
      · rintro ⟨x, hx, he⟩
        split at he
        · cases he
        · rw [← he]; exact hx
      · intro hm; exact ⟨_, hm, by rw [if_neg]; intro hh; cases hh; exact hj rfl⟩

/-- What LOAD_CONTACT's checks leave (R47). -/
structure ContactLoads (ae : Attendance) (key : Nat) (pupils : List Nat) : Prop where
  few : pupils.length ≤ 6
  held : ∀ r ∈ pupils, r ∈ ae.pupils.map (·.roll)
  once : pupils.Nodup
  room : ae.contactOf key = none → ae.contacts.length < 4096
  names : ∀ r ∈ pupils, ae.canName key r = true

theorem indexFor_free {ae : Attendance} (h : LinksAgree ae) {key : Nat} (hr : ae.contactOf key = none → ae.contacts.length < 4096)
    {d : Contact} (hd : d ∈ ae.contacts) (hk : d.key ≠ key) : d.index ≠ ae.indexFor key := by
  unfold Attendance.indexFor; split
  · rename_i c hc
    intro he
    have := h.byIndex hd (contactOf_key hc).1 he
    subst this
    exact hk (contactOf_key hc).2
  · rename_i hc
    obtain ⟨k, _, h1, h2, _⟩ := firstFree_free (limit := Config.maxContacts) (ae.contacts.map (·.index)) 1
      (by rw [List.length_map]; exact hr hc)
    rw [List.length_map] at h1
    intro he
    rw [h1] at he
    exact h2 (he ▸ List.mem_map_of_mem hd)

theorem loadContact_links {ae : Attendance} (h : LinksAgree ae) (once : (ae.pupils.map (·.roll)).Nodup) {key : Nat} {pupils : List Nat}
    (hl : ContactLoads ae key pupils) (e n : Bool) : LinksAgree (ae.loadContact ⟨ae.indexFor key, key, e, n, pupils⟩) := by
  have hmap : (ae.loadContact ⟨ae.indexFor key, key, e, n, pupils⟩).pupils =
      ae.pupils.map fun p => p.relinked (ae.indexFor key) (pupils.contains p.roll) := rfl
  have hcon : (ae.loadContact ⟨ae.indexFor key, key, e, n, pupils⟩).contacts =
      putContact ⟨ae.indexFor key, key, e, n, pupils⟩ ae.contacts := rfl
  have free : ∀ d ∈ ae.contacts, d.key ≠ key → d.index ≠ ae.indexFor key := fun d hd hk => indexFor_free h hl.room hd hk
  have listed : ∀ r, pupils.contains r = true ↔ r ∈ pupils := fun r => List.contains_iff_mem
  have names : ∀ p ∈ ae.pupils, pupils.contains p.roll = true → none ∈ p.slots ∨ some (ae.indexFor key) ∈ p.slots := by
    intro p hp hc
    have := hl.names _ ((listed _).1 hc)
    unfold Attendance.canName at this
    cases hf : ae.pupil p.roll with
    | none => rw [hf] at this; cases this
    | some q =>
      have hq : q = p := List.inj_on_of_nodup_map once (List.mem_of_find?_eq_some hf) hp (by simpa using List.find?_some hf)
      subst hq
      rw [hf] at this
      simp only [Bool.or_eq_true, List.contains_iff_mem, Option.any_eq_true] at this
      rcases this with hn | ⟨c, hc1, hc2⟩
      · exact .inl hn
      · refine .inr ?_
        unfold Attendance.indexFor; rw [hc1]; exact hc2
  have slots : ∀ p ∈ ae.pupils, ∀ j, some j ∈ (p.relinked (ae.indexFor key) (pupils.contains p.roll)).slots ↔
      if j = ae.indexFor key then pupils.contains p.roll = true else some j ∈ p.slots :=
    fun p hp j => relinked_slots _ _ p (names p hp) j
  constructor
  · intro q hq
    rw [hmap] at hq
    obtain ⟨p, hp, rfl⟩ := List.mem_map.1 hq
    exact ⟨(relinked_same _ _ p).2.2.2.2.2.trans (h.slots p hp).1, relinked_nodup _ _ (h.slots p hp).2⟩
  · intro c hc
    rw [hcon] at hc
    rcases (mem_putContact _ _ _).1 hc with rfl | ⟨hc, _⟩
    · exact ⟨hl.few, hl.once⟩
    · exact h.lists c hc
  · rw [hcon]
    have hperm : (putContact ⟨ae.indexFor key, key, e, n, pupils⟩ ae.contacts).Perm
        (⟨ae.indexFor key, key, e, n, pupils⟩ :: ae.contacts.filter (·.key != key)) := insertBefore_perm _ _ _
    have hsub := List.filter_sublist (l := ae.contacts) (p := fun c => c.key != key)
    refine ⟨ascending_insert (h.contacts.1.sublist (hsub.map _)) ?_,
      (hperm.map _).nodup_iff.2 (List.nodup_cons.2 ⟨?_, h.contacts.2.1.sublist (hsub.map _)⟩), ?_⟩
    · intro hm
      obtain ⟨d, hd, he⟩ := List.mem_map.1 hm
      have := (List.mem_filter.1 hd).2
      rw [he] at this; simp at this
    · intro hm
      obtain ⟨d, hd, he⟩ := List.mem_map.1 hm
      obtain ⟨hd, hk⟩ := List.mem_filter.1 hd
      exact free d hd (by simpa using hk) he
    · rw [hperm.length_eq, List.length_cons]
      cases hc : ae.contactOf key with
      | none => have := hl.room hc; have := hsub.length_le; omega
      | some c =>
        have hlt : (ae.contacts.filter (·.key != key)).length < ae.contacts.length := by
          refine List.length_filter_lt_length_iff_exists.2 ⟨c, (contactOf_key hc).1, ?_⟩
          simp [(contactOf_key hc).2]
        have := h.contacts.2.2
        omega
  · intro q hq i hi
    rw [hmap] at hq
    obtain ⟨p, hp, rfl⟩ := List.mem_map.1 hq
    rw [slots p hp] at hi
    rw [(relinked_same _ _ p).1, hcon]
    split at hi
    · rename_i he
      exact ⟨_, (mem_putContact _ _ _).2 (.inl rfl), he.symm, (listed _).1 hi⟩
    · rename_i hne
      obtain ⟨d, hd, he, hm⟩ := h.named p hp i hi
      refine ⟨d, (mem_putContact _ _ _).2 (.inr ⟨hd, fun hk => hne ?_⟩), he, hm⟩
      have hf : ae.contactOf key = some d := by
        cases hc : ae.contactOf key with
        | none =>
          have := List.find?_eq_none.1 hc d hd
          exact absurd (by simpa using hk) this
        | some c => rw [h.byKey hd (contactOf_key hc).1 (hk.trans (contactOf_key hc).2.symm)]
      rw [← he]; unfold Attendance.indexFor; rw [hf]
  · intro c hc r hr
    rw [hcon] at hc
    rw [hmap]
    rcases (mem_putContact _ _ _).1 hc with rfl | ⟨hc, hk⟩
    · obtain ⟨p, hp, rfl⟩ := List.mem_map.1 (hl.held r hr)
      exact ⟨_, List.mem_map_of_mem hp, (relinked_same _ _ p).1, by rw [slots p hp, if_pos rfl]; exact (listed _).2 hr⟩
    · obtain ⟨p, hp, rfl, hs⟩ := h.listed c hc r hr
      exact ⟨_, List.mem_map_of_mem hp, (relinked_same _ _ p).1, by rw [slots p hp, if_neg (free c hc hk)]; exact hs⟩
  · intro q hq x hx m h1 h2
    rw [hmap] at hq hx
    obtain ⟨p, hp, rfl⟩ := List.mem_map.1 hq
    obtain ⟨y, hy, rfl⟩ := List.mem_map.1 hx
    rw [(relinked_same _ _ p).2.1] at h1
    rw [(relinked_same _ _ y).2.1] at h2
    rw [(relinked_same _ _ p).1, (relinked_same _ _ y).1]
    exact h.cards p hp y hy m h1 h2

theorem dropContact_links {ae : Attendance} (h : LinksAgree ae) {key : Nat} {c : Contact} (hc : ae.contactOf key = some c) :
    LinksAgree (ae.dropContact c) := by
  obtain ⟨hcm, _⟩ := contactOf_key hc
  have hmap : (ae.dropContact c).pupils = ae.pupils.map (Pupil.relinked c.index false) := rfl
  have mem : ∀ d, d ∈ (ae.dropContact c).contacts ↔ d ∈ ae.contacts ∧ d.key ≠ c.key := fun d => by
    show d ∈ ae.contacts.filter (·.key != c.key) ↔ _
    simp
  have hsub : (ae.dropContact c).contacts.Sublist ae.contacts := List.filter_sublist
  have slots : ∀ (p : Pupil) (j : Nat), some j ∈ (p.relinked c.index false).slots ↔ if j = c.index then false = true else some j ∈ p.slots :=
    fun p j => relinked_slots _ _ p (by simp) j
  constructor
  · intro q hq
    rw [hmap] at hq
    obtain ⟨p, hp, rfl⟩ := List.mem_map.1 hq
    exact ⟨(relinked_same _ _ p).2.2.2.2.2.trans (h.slots p hp).1, relinked_nodup _ _ (h.slots p hp).2⟩
  · intro d hd; exact h.lists d ((mem d).1 hd).1
  · exact ⟨h.contacts.1.sublist (hsub.map _), h.contacts.2.1.sublist (hsub.map _), Nat.le_trans hsub.length_le h.contacts.2.2⟩
  · intro q hq i hi
    rw [hmap] at hq
    obtain ⟨p, hp, rfl⟩ := List.mem_map.1 hq
    rw [slots] at hi
    split at hi
    · cases hi
    · rename_i hne
      obtain ⟨d, hd, he, hm⟩ := h.named p hp i hi
      refine ⟨d, (mem d).2 ⟨hd, fun hk => hne ?_⟩, he, by rw [(relinked_same _ _ p).1]; exact hm⟩
      rw [← he, h.byKey hd hcm hk]
  · intro d hd r hr
    obtain ⟨hd, hk⟩ := (mem d).1 hd
    obtain ⟨p, hp, rfl, hs⟩ := h.listed d hd r hr
    refine ⟨_, by rw [hmap]; exact List.mem_map_of_mem hp, (relinked_same _ _ p).1, ?_⟩
    rw [slots, if_neg]
    · exact hs
    · intro he; exact hk (by rw [h.byIndex hd hcm he])
  · intro q hq x hx m h1 h2
    rw [hmap] at hq hx
    obtain ⟨p, hp, rfl⟩ := List.mem_map.1 hq
    obtain ⟨y, hy, rfl⟩ := List.mem_map.1 hx
    rw [(relinked_same _ _ p).2.1] at h1
    rw [(relinked_same _ _ y).2.1] at h2
    rw [(relinked_same _ _ p).1, (relinked_same _ _ y).1]
    exact h.cards p hp y hy m h1 h2

end Sys2Proof.Machine
end

