-- ==== Sys2Proof/Laws/Sounders.lean ====
section
/-! SUPPORT. What settling the zones can do (R161, R162): it moves zone supervision, the causes and the changed zones, and
nothing at all where no zone is supervised. -/
namespace Sys2Proof.Machine

/-- The device with the parts that settling moves taken from another. -/
def Device.settledAs (d e : Device) : Device :=
  { d with su.zones := e.su.zones, op.causes := e.op.causes, op.changedZones := e.op.changedZones }

theorem settledAs_trans {a b c : Device} (h1 : b = a.settledAs b) (h2 : c = b.settledAs c) : c = a.settledAs c := by
  rw [h2, h1]; rfl

theorem putZone_frame (z : Nat) (v : ZoneSupervision) (d : Device) : d.putZone z v = d.settledAs (d.putZone z v) := by
  unfold Device.putZone; dsimp only; split <;> rfl

theorem settleZone_frame (was : Bool) (z : Nat) (d : Device) : d.settleZone was z = d.settledAs (d.settleZone was z) := by
  unfold Device.settleZone; split
  · rfl
  · split
    · rfl
    · exact settledAs_trans rfl (putZone_frame _ _ _)

/-- Settling keeps everything but zone supervision, the causes and the changed zones. -/
theorem settling_frame (change : Device → Device) (d : Device) : settling change d = (change d).settledAs (settling change d) := by
  unfold settling
  generalize allZones = l
  have : ∀ e : Device, l.foldl (fun acc z => acc.settleZone (d.engaged z) z) e =
      e.settledAs (l.foldl (fun acc z => acc.settleZone (d.engaged z) z) e) := by
    induction l with
    | nil => intro e; rfl
    | cons z l ih => intro e; exact settledAs_trans (settleZone_frame _ _ _) (ih _)
  exact this _

theorem settleZone_unsupervised {was : Bool} {z : Nat} {d : Device} (h : (d.su.zone z).supervised = false) :
    d.settleZone was z = d := by
  unfold Device.settleZone; rw [h]; rfl

theorem zone_unsupervised {su : Sounder} (h : ∀ v ∈ su.zones, v.supervised = false) (z : Nat) : (su.zone z).supervised = false := by
  unfold Sounder.zone nth
  rw [List.getD_eq_getElem?_getD]
  cases hg : su.zones[z - 1]? with
  | none => rfl
  | some v => exact h v (List.mem_of_getElem? hg)

/-- Where no zone is supervised, settling changes nothing beyond the change. -/
theorem settling_unsupervised {change : Device → Device} {d : Device} (h : ∀ v ∈ (change d).su.zones, v.supervised = false) :
    settling change d = change d := by
  unfold settling
  generalize allZones = l
  induction l with
  | nil => rfl
  | cons z l ih => rw [List.foldl_cons, settleZone_unsupervised (zone_unsupervised h z)]; exact ih

end Sys2Proof.Machine
end

