-- ==== Sys2Proof/Laws/Scanner.lean ====
section
/-! SUPPORT. The scanner's walks said once (R30, R31, R33): a walk marks each slot of today's active copy by the slot and the site
settings alone, adds sweeps at the end of their list, and moves the Sounder Unit; the rest of the device stands. -/
namespace Sys2Proof.Machine

/-! ### Plans and flags -/

theorem siteBit_getLsbD (s t : Nat) : (siteBit s).getLsbD t = (decide (t = s) && decide (s < 3)) := by
  unfold siteBit
  rcases Nat.lt_or_ge s 3 with h | h
  · rcases Nat.lt_or_ge t 3 with ht | ht
    · have hs : s = 0 ∨ s = 1 ∨ s = 2 := by omega
      have htt : t = 0 ∨ t = 1 ∨ t = 2 := by omega
      rcases hs with rfl | rfl | rfl <;> rcases htt with rfl | rfl | rfl <;> decide
    · rw [BitVec.getLsbD_of_ge _ _ ht]; simp; omega
  · have : (1#3 <<< s) = 0#3 := by rw [BitVec.shiftLeft_eq_zero h]
    rw [this]; simp; omega

/-- The flags a set of sites adds. -/
theorem withSites_getLsbD (set : SiteSet) (l : List Nat) (t : Nat) :
    (withSites set l).getLsbD t = (set.getLsbD t || (l.contains t && decide (t < 3))) := by
  unfold withSites
  induction l generalizing set with
  | nil => simp
  | cons s l ih =>
    rw [List.foldl_cons, ih, BitVec.getLsbD_or, siteBit_getLsbD]
    by_cases h : t = s
    · subst h; cases set.getLsbD t <;> simp
    · have : (t == s) = false := by simpa using h
      rw [List.contains_cons, this]; simp [h]

theorem names_site {sl : PlanSlot} {s : Nat} (h : sl.names s = true) : s < 3 := by
  by_contra hs
  unfold PlanSlot.names at h
  rw [BitVec.getLsbD_of_ge _ _ (by omega)] at h; cases h

theorem site_cases {s : Nat} (h : s < 3) : s = 0 ∨ s = 1 ∨ s = 2 := by omega

theorem mem_allSites {s : Nat} (h : s < 3) : s ∈ allSites := by
  rcases site_cases h with rfl | rfl | rfl <;> decide

/-- A plan written in place of itself reads as it was written, where the plan exists. -/
theorem plan_set (ss : Scanner) {p : Nat} (hp : 1 ≤ p) (f : DayPlan → DayPlan) (h0 : f ⟨[], [], false⟩ = ⟨[], [], false⟩) :
    nth (setNth ss.plans p (f (ss.plan p))) p ⟨[], [], false⟩ = f (ss.plan p) := by
  rcases Nat.lt_or_ge ss.plans.length p with h | h
  · have : ss.plan p = ⟨[], [], false⟩ := by
      unfold Scanner.plan nth; rw [List.getD_eq_getElem?_getD, List.getElem?_eq_none (by omega)]; rfl
    rw [this, h0]
    unfold nth; rw [List.getD_eq_getElem?_getD, List.getElem?_eq_none (by rw [length_setNth]; omega)]; rfl
  · exact nth_setNth_same _ _ _ _ hp h

/-- e is d but for the scanner's plans and confirm points, the sweeps and the Sounder Unit, with its causes. -/
structure ScanMove (p : Nat) (d e : Device) : Prop where
  frame : e = { d with ss := e.ss, ae.sweeps := e.ae.sweeps, su := e.su, op := e.op }
  sites : e.ss.sites = d.ss.sites
  plans : e.ss.plans = setNth d.ss.plans p { d.ss.plan p with active := (e.ss.plan p).active }

theorem setNth_setNth {α : Type} (l : List α) (i : Nat) (a b : α) : setNth (setNth l i a) i b = setNth l i b := by
  unfold setNth; split
  · rfl
  · rw [List.set_set]

theorem setNth_self {α : Type} (l : List α) (i : Nat) (dflt : α) : setNth l i (nth l i dflt) = l := by
  unfold setNth nth; split
  · rfl
  · refine List.ext_getElem? fun j => ?_
    rw [List.getElem?_set]
    split
    · rename_i h
      subst h
      split
      · rename_i h; rw [List.getD_eq_getElem?_getD, List.getElem?_eq_getElem h]; rfl
      · rename_i h; rw [List.getElem?_eq_none (by omega)]
    · rfl

theorem ScanMove.refl (p : Nat) (d : Device) : ScanMove p d d := ⟨rfl, rfl, by
  show d.ss.plans = setNth d.ss.plans p (nth d.ss.plans p ⟨[], [], false⟩)
  rw [setNth_self]⟩

/-- What a scan move leaves of the plan it walks. -/
theorem ScanMove.plan {p : Nat} {d e : Device} (h : ScanMove p d e) (hp : 1 ≤ p) :
    e.ss.plan p = { d.ss.plan p with active := (e.ss.plan p).active } := by
  have h1 : e.ss.plan p = nth (setNth d.ss.plans p { d.ss.plan p with active := (e.ss.plan p).active }) p ⟨[], [], false⟩ :=
    congrArg (fun l => nth l p (⟨[], [], false⟩ : DayPlan)) h.plans
  rcases Nat.lt_or_ge d.ss.plans.length p with hl | hl
  · have h0 : d.ss.plan p = ⟨[], [], false⟩ := by
      unfold Scanner.plan nth; rw [List.getD_eq_getElem?_getD, List.getElem?_eq_none (by omega)]; rfl
    have h2 : e.ss.plan p = ⟨[], [], false⟩ := by
      rw [h1]; unfold nth; rw [List.getD_eq_getElem?_getD, List.getElem?_eq_none (by rw [length_setNth]; omega)]; rfl
    rw [h2, h0]
  · exact h1.trans (nth_setNth_same _ _ _ _ hp hl)

theorem ScanMove.trans {p : Nat} (hp : 1 ≤ p) {a b c : Device} (h1 : ScanMove p a b) (h2 : ScanMove p b c) : ScanMove p a c where
  frame := by rw [h2.frame, h1.frame]
  sites := h2.sites.trans h1.sites
  plans := by rw [h2.plans, h1.plans, setNth_setNth, h1.plan hp]

theorem ScanMove.tb {p : Nat} {d e : Device} (h : ScanMove p d e) : e.tb = d.tb := by rw [h.frame]
theorem ScanMove.power {p : Nat} {d e : Device} (h : ScanMove p d e) : e.mainPower = d.mainPower := by rw [h.frame]
theorem ScanMove.effective {p : Nat} {d e : Device} (h : ScanMove p d e) (m s : Nat) : e.ss.effective m s = d.ss.effective m s := by
  unfold Scanner.effective Scanner.site; rw [h.sites]
theorem ScanMove.slots {p : Nat} {d e : Device} (h : ScanMove p d e) (ht : d.tb.today = .plan p) : e.slots = (e.ss.plan p).active := by
  unfold Device.slots; rw [h.tb, ht]
/-- The plans but for the one walked stand. -/
theorem ScanMove.other {p : Nat} (hp : 1 ≤ p) {d e : Device} (h : ScanMove p d e) {q : Nat} (hq : 1 ≤ q) (hne : p ≠ q) :
    e.ss.plan q = d.ss.plan q := by
  unfold Scanner.plan; rw [h.plans, nth_setNth_other _ _ _ _ _ hp hq hne]

/-! ### Single moves -/

theorem startPattern_frame (g i : Nat) (d : Device) :
    startPattern g i d = { d with su := (startPattern g i d).su, op := (startPattern g i d).op } := by
  have h : startPattern g i d = _ := settling_frame _ _
  rw [h]; rfl
theorem exchangeBanks_frame (d : Device) :
    exchangeBanks d = { d with su := (exchangeBanks d).su, op := (exchangeBanks d).op } := by
  have h : exchangeBanks d = _ := settling_frame _ _
  rw [h]; rfl

/-- A move of confirm points and sweeps alone. -/
theorem points_move (p : Nat) (d e : Device)
    (h : e = { d with ss.confirm := e.ss.confirm, ae.sweeps := e.ae.sweeps, su := e.su, op := e.op }) : ScanMove p d e := by
  have hs : e.ss = { d.ss with confirm := e.ss.confirm } := by rw [h]
  refine ⟨by rw [h], by rw [hs], ?_⟩
  have hp : e.ss.plans = d.ss.plans := by rw [hs]
  show e.ss.plans = setNth d.ss.plans p { d.ss.plan p with active := (nth e.ss.plans p ⟨[], [], false⟩).active }
  rw [hp]
  exact (setNth_self d.ss.plans p ⟨[], [], false⟩).symm

/-- A move of the confirm points and sweeps, the Sounder Unit standing too. -/
theorem quiet_move (p : Nat) {d e : Device} (h : e = { d with ss.confirm := e.ss.confirm, ae.sweeps := e.ae.sweeps }) :
    ScanMove p d e := by
  have h2 : e.su = d.su ∧ e.op = d.op := by constructor <;> rw [h]
  refine points_move p d e (h.trans ?_)
  rw [h2.1, h2.2]

theorem quiet_plan (p : Nat) {d e : Device} (h : e = { d with ss.confirm := e.ss.confirm, ae.sweeps := e.ae.sweeps }) :
    e.ss.plan p = d.ss.plan p := by rw [h]; rfl

/-- What confirm points and closes leave: the plans, and a list of sweeps that has grown at its end, by CLOSE sweeps of a point and
sites only. -/
def Sweeps (closes : Sweep → Prop) (d e : Device) : Prop :=
  ∃ new : List Sweep, e.ae.sweeps = d.ae.sweeps ++ new ∧ ∀ w ∈ new, w.kind = .close → closes w

theorem Sweeps.refl (closes : Sweep → Prop) (d : Device) : Sweeps closes d d := ⟨[], by simp, by simp⟩
theorem Sweeps.trans {closes : Sweep → Prop} {a b c : Device} (h1 : Sweeps closes a b) (h2 : Sweeps closes b c) : Sweeps closes a c := by
  obtain ⟨n1, e1, c1⟩ := h1
  obtain ⟨n2, e2, c2⟩ := h2
  refine ⟨n1 ++ n2, by rw [e2, e1, List.append_assoc], fun w hw => ?_⟩
  rcases List.mem_append.1 hw with hw | hw
  · exact c1 w hw
  · exact c2 w hw
theorem Sweeps.mono {c1 c2 : Sweep → Prop} (hc : ∀ w, c1 w → c2 w) {d e : Device} (h : Sweeps c1 d e) : Sweeps c2 d e := by
  obtain ⟨n, e1, h1⟩ := h
  exact ⟨n, e1, fun w hw hk => hc w (h1 w hw hk)⟩
theorem Sweeps.of_eq {closes : Sweep → Prop} {d e : Device} (h : e.ae.sweeps = d.ae.sweeps) : Sweeps closes d e := ⟨[], by simp [h], by simp⟩

theorem firePoint_points (k s : Nat) (d : Device) : firePoint k s d =
    { d with ss.confirm := (firePoint k s d).ss.confirm, ae.sweeps := (firePoint k s d).ae.sweeps } := rfl
theorem firePoint_sweeps (closes : Sweep → Prop) (k s : Nat) (d : Device) : Sweeps closes d (firePoint k s d) :=
  ⟨_, rfl, fun w hw hk => by rw [List.mem_singleton.1 hw] at hk; cases hk⟩
theorem handClose_points (n k s m : Nat) (d : Device) : handClose n k s m d =
    { d with ss.confirm := (handClose n k s m d).ss.confirm, ae.sweeps := (handClose n k s m d).ae.sweeps } := by
  unfold handClose; dsimp only; split <;> rfl
theorem handClose_sweeps (n k s m : Nat) (d : Device) : Sweeps (fun w => w.point = k ∧ w.site = s) d (handClose n k s m d) := by
  have h1 : Sweeps (fun w => w.point = k ∧ w.site = s) d (registrationClose k s d) :=
    ⟨_, rfl, fun w hw _ => by rw [List.mem_singleton.1 hw]; exact ⟨rfl, rfl⟩⟩
  unfold handClose; dsimp only; split
  · exact h1.trans (firePoint_sweeps _ _ _ _)
  · exact h1.trans (.of_eq rfl)

/-- A fold of moves that each keep the points' frame keeps it. -/
theorem points_fold {α : Type} (f : Device → α → Device) (closes : Sweep → Prop) (l : List α)
    (hf : ∀ d a, a ∈ l → f d a = { d with ss.confirm := (f d a).ss.confirm, ae.sweeps := (f d a).ae.sweeps } ∧ Sweeps closes d (f d a))
    (d : Device) : l.foldl f d = { d with ss.confirm := (l.foldl f d).ss.confirm, ae.sweeps := (l.foldl f d).ae.sweeps } ∧
      Sweeps closes d (l.foldl f d) := by
  induction l generalizing d with
  | nil => exact ⟨rfl, .refl _ _⟩
  | cons a l ih =>
    obtain ⟨h1, h2⟩ := hf d a List.mem_cons_self
    obtain ⟨i1, i2⟩ := ih (fun d b hb => hf d b (List.mem_cons_of_mem _ hb)) (f d a)
    refine ⟨?_, h2.trans i2⟩
    rw [List.foldl_cons]
    have i1' := i1
    rw [h1] at i1'
    exact i1.trans (by rw [h1])

theorem firePointsAt_points (sites : List Nat) (n : Nat) (closes : Sweep → Prop) (d : Device) :
    firePointsAt sites n d = { d with
      ss.confirm := (firePointsAt sites n d).ss.confirm, ae.sweeps := (firePointsAt sites n d).ae.sweeps } ∧
      Sweeps closes d (firePointsAt sites n d) :=
  points_fold _ _ _ (fun d q _ => by
    dsimp only; split
    · exact ⟨firePoint_points _ _ _, firePoint_sweeps _ _ _ _⟩
    · exact ⟨rfl, .refl _ _⟩) d

/-! ### A slot -/

/-- A slot marked as fired for some sites. -/
def PlanSlot.firedOn (sites : List Nat) (sl : PlanSlot) : PlanSlot := { sl with fired := withSites sl.fired sites }
/-- A slot marked as passed for some sites. -/
def PlanSlot.passedOn (sites : List Nat) (sl : PlanSlot) : PlanSlot := { sl with passed := withSites sl.passed sites }

theorem onSlot_move {p : Nat} (hp : 1 ≤ p) (i : Nat) (f : PlanSlot → PlanSlot) {d : Device} (ht : d.tb.today = .plan p) :
    ScanMove p d (d.onSlot i f) ∧ ((d.onSlot i f).ss.plan p).active = (d.ss.plan p).active.modify i f ∧
      (d.onSlot i f).ae = d.ae := by
  have he : d.onSlot i f = { d with
      ss.plans := setNth d.ss.plans p { d.ss.plan p with active := (d.ss.plan p).active.modify i f } } := by
    unfold Device.onSlot; rw [ht]
  have hr : (d.onSlot i f).ss.plan p = { d.ss.plan p with active := (d.ss.plan p).active.modify i f } := by
    rw [he]
    exact plan_set d.ss hp (fun q => { q with active := q.active.modify i f }) (by simp)
  refine ⟨⟨by rw [he], by rw [he], ?_⟩, by rw [hr], by rw [he]⟩
  rw [hr, he]

/-- The firing of an entry's pairs marks the entry's slot and adds CLOSE sweeps only for the sites fired. -/
theorem fireSlot_move {p : Nat} (hp : 1 ≤ p) (n i : Nat) (sl : PlanSlot) (sites : List Nat) {d : Device} (ht : d.tb.today = .plan p) :
    ScanMove p d (fireSlot n i sl sites d) ∧
      ((fireSlot n i sl sites d).ss.plan p).active = (d.ss.plan p).active.modify i (PlanSlot.firedOn sites) ∧
      Sweeps (fun w => sl.entry.action = .regClose w.point ∧ w.site ∈ sites) d (fireSlot n i sl sites d) := by
  obtain ⟨hm, hs, ha⟩ := onSlot_move hp i (PlanSlot.firedOn sites) ht
  have hsw : Sweeps (fun w => sl.entry.action = .regClose w.point ∧ w.site ∈ sites) d (d.onSlot i (PlanSlot.firedOn sites)) :=
    .of_eq (by rw [ha])
  have still : ∀ e : Device, e = { d.onSlot i (PlanSlot.firedOn sites) with su := e.su, op := e.op } →
      ScanMove p d e ∧ (e.ss.plan p).active = (d.ss.plan p).active.modify i (PlanSlot.firedOn sites) ∧
      Sweeps (fun w => sl.entry.action = .regClose w.point ∧ w.site ∈ sites) d e := by
    intro e he
    have hse : e.ss = (d.onSlot i (PlanSlot.firedOn sites)).ss := by rw [he]
    refine ⟨hm.trans hp (points_move p _ _ (by rw [he])), by rw [hse, hs], hsw.trans (.of_eq (by rw [he]))⟩
  unfold fireSlot; dsimp only; split
  · exact still _ (startPattern_frame _ _ _)
  · exact still _ (exchangeBanks_frame _)
  · exact still _ rfl
  · rename_i k hk
    obtain ⟨h1, h2⟩ := points_fold (fun acc s => handClose n k s sl.entry.minute acc)
      (fun w => PlanAction.regClose k = .regClose w.point ∧ w.site ∈ sites) sites
      (fun e s hs => ⟨handClose_points _ _ _ _ _, (handClose_sweeps _ _ _ _ _).mono fun w hw => ⟨by rw [hw.1], by rw [hw.2]; exact hs⟩⟩)
      (d.onSlot i (PlanSlot.firedOn sites))
    have h3 := quiet_move p h1
    refine ⟨hm.trans hp h3, (congrArg DayPlan.active (quiet_plan p h1)).trans hs, ?_⟩
    rw [← hk] at h2
    exact hsw.trans h2

/-! ### A walk -/

theorem modify_at {α : Type} (f : α → α) (l : List α) (a : α) (m : List α) :
    (l ++ a :: m).modify l.length f = l ++ f a :: m := by
  induction l with
  | nil => rfl
  | cons b l ih => simp [ih]

/-- A walk of today's active copy that marks each slot by the slot alone, and does no more than a scan move. -/
theorem overSlots_move {p : Nat} (hp : 1 ≤ p) (mark : PlanSlot → PlanSlot) (closes : PlanSlot → Sweep → Prop)
    (f : Nat → PlanSlot → Device → Device) {d : Device} (ht : d.tb.today = .plan p)
    (hf : ∀ i sl e, ScanMove p d e → (e.ss.plan p).active[i]? = some sl →
      ScanMove p e (f i sl e) ∧ ((f i sl e).ss.plan p).active = (e.ss.plan p).active.modify i (fun _ => mark sl) ∧
      Sweeps (closes sl) e (f i sl e)) :
    ScanMove p d (overSlots f d) ∧ ((overSlots f d).ss.plan p).active = (d.ss.plan p).active.map mark ∧
      Sweeps (fun w => ∃ sl ∈ (d.ss.plan p).active, closes sl w) d (overSlots f d) := by
  have hsl : d.slots = (d.ss.plan p).active := by unfold Device.slots; rw [ht]
  have key : ∀ m, m ≤ (d.ss.plan p).active.length →
      let e := (List.range m).foldl (fun acc i => match acc.slots[i]? with
        | none => acc
        | some sl => f i sl acc) d
      ScanMove p d e ∧ (e.ss.plan p).active = ((d.ss.plan p).active.take m).map mark ++ (d.ss.plan p).active.drop m ∧
        Sweeps (fun w => ∃ sl ∈ (d.ss.plan p).active, closes sl w) d e := by
    intro m
    induction m with
    | zero => intro _; exact ⟨.refl _ _, by simp, .refl _ _⟩
    | succ m ih =>
      intro hm
      obtain ⟨h1, h2, h3⟩ := ih (by omega)
      rw [List.range_succ, List.foldl_append]
      dsimp only [List.foldl_cons, List.foldl_nil]
      generalize (List.range m).foldl _ d = e at h1 h2 h3
      have hlen : (((d.ss.plan p).active.take m).map mark).length = m := by simp; omega
      have hat : (e.ss.plan p).active[m]? = (d.ss.plan p).active[m]? := by
        rw [h2, List.getElem?_append_right (by omega), hlen]; simp
      obtain ⟨sl, hsl'⟩ : ∃ sl, (d.ss.plan p).active[m]? = some sl := ⟨_, List.getElem?_eq_getElem (by omega)⟩
      rw [h1.slots ht, hat, hsl']
      dsimp only
      obtain ⟨g1, g2, g3⟩ := hf m sl e h1 (by rw [hat, hsl'])
      refine ⟨h1.trans hp g1, ?_, h3.trans (g3.mono fun w hw => ⟨sl, List.mem_of_getElem? hsl', hw⟩)⟩
      have hlt : m < (d.ss.plan p).active.length := by omega
      have hget : (d.ss.plan p).active[m] = sl := by
        rw [List.getElem?_eq_getElem hlt] at hsl'; exact Option.some.inj hsl'
      rw [g2, h2, List.drop_eq_getElem_cons hlt, hget, List.take_succ_eq_append_getElem hlt, hget]
      rw [List.map_append, List.map_singleton, List.append_assoc]
      have := modify_at (fun _ => mark sl) (((d.ss.plan p).active.take m).map mark) sl ((d.ss.plan p).active.drop (m + 1))
      rwa [hlen] at this
  have := key (d.ss.plan p).active.length (Nat.le_refl _)
  dsimp only at this
  rw [List.take_length, List.drop_length, List.append_nil] at this
  unfold overSlots
  rw [hsl]
  exact this

theorem modify_get {α : Type} {l : List α} {i : Nat} {a : α} (h : l[i]? = some a) (f : α → α) :
    l.modify i (fun _ => f a) = l.modify i f := by
  refine List.ext_getElem? fun j => ?_
  rw [List.getElem?_modify, List.getElem?_modify]
  split
  · rename_i hj; subst hj; rw [h]; rfl
  · rfl

theorem modify_same {α : Type} {l : List α} {i : Nat} {a : α} (h : l[i]? = some a) : l.modify i (fun _ => a) = l := by
  have := modify_get h id
  simpa using this

/-- The sites at which a pair of the slot is open and due at minute n (R30). -/
def dueSites (sites : List Nat) (n : Nat) (ss : Scanner) (sl : PlanSlot) : List Nat :=
  sites.filter fun s => sl.isOpen s && ss.effective sl.entry.minute s == n
/-- The sites at which a pair of the slot is open and behind minute n (R33, part 2). -/
def behindSites (sites : List Nat) (n : Nat) (ss : Scanner) (sl : PlanSlot) : List Nat :=
  sites.filter fun s => sl.isOpen s && ss.effective sl.entry.minute s < n

/-- The mark a slot gets where its pairs are due. -/
def dueMark (sites : List Nat) (n : Nat) (ss : Scanner) (sl : PlanSlot) : PlanSlot := sl.firedOn (dueSites sites n ss sl)
/-- The mark a slot gets where its pairs are behind. -/
def behindMark (sites : List Nat) (n : Nat) (ss : Scanner) (sl : PlanSlot) : PlanSlot :=
  match sl.entry.action with
  | .ring _ _ => sl.passedOn (behindSites sites n ss sl)
  | .routeSwap => sl.firedOn (behindSites sites n ss sl)
  | .regStart _ => sl.firedOn (behindSites sites n ss sl)
  | .regClose _ => sl.firedOn (behindSites sites n ss sl)

/-- A CLOSE sweep comes of a REG_CLOSE entry fired for its site. -/
def closedBy (fired : PlanSlot → List Nat) (sl : PlanSlot) (w : Sweep) : Prop :=
  sl.entry.action = .regClose w.point ∧ w.site ∈ fired sl

theorem fireDue_move {p : Nat} (hp : 1 ≤ p) (sites : List Nat) (n : Nat) {d : Device} (ht : d.tb.today = .plan p) :
    ScanMove p d (fireDue sites n d) ∧
      ((fireDue sites n d).ss.plan p).active = (d.ss.plan p).active.map (dueMark sites n d.ss) ∧
      Sweeps (fun w => ∃ sl ∈ (d.ss.plan p).active, closedBy (dueSites sites n d.ss) sl w) d (fireDue sites n d) := by
  refine overSlots_move hp (dueMark sites n d.ss) (closedBy (dueSites sites n d.ss)) _ ht fun i sl e hm hsl => ?_
  have hdue : (sites.filter fun s => sl.isOpen s && e.ss.effective sl.entry.minute s == n) = dueSites sites n d.ss sl := by
    unfold dueSites; simp only [hm.effective]
  rw [hdue]
  split
  · rename_i h0
    refine ⟨.refl _ _, ?_, .refl _ _⟩
    unfold dueMark; rw [h0]; exact (modify_same hsl).symm
  · obtain ⟨h1, h2, h3⟩ := fireSlot_move hp n i sl (dueSites sites n d.ss sl) (d := e) (by rw [hm.tb]; exact ht)
    exact ⟨h1, h2.trans (modify_get hsl _).symm, h3⟩

theorem catchUp_move {p : Nat} (hp : 1 ≤ p) (sites : List Nat) (n : Nat) {d : Device} (ht : d.tb.today = .plan p) :
    ScanMove p d (catchUp sites n d) ∧
      ((catchUp sites n d).ss.plan p).active = (d.ss.plan p).active.map (behindMark sites n d.ss) ∧
      Sweeps (fun w => ∃ sl ∈ (d.ss.plan p).active, closedBy (behindSites sites n d.ss) sl w) d (catchUp sites n d) := by
  refine overSlots_move hp (behindMark sites n d.ss) (closedBy (behindSites sites n d.ss)) _ ht fun i sl e hm hsl => ?_
  have hbehind : (sites.filter fun s => sl.isOpen s && decide (e.ss.effective sl.entry.minute s < n)) =
      behindSites sites n d.ss sl := by
    unfold behindSites; simp only [hm.effective]
  have hte : e.tb.today = .plan p := by rw [hm.tb]; exact ht
  rw [hbehind]
  split
  · rename_i h0
    refine ⟨.refl _ _, ?_, .refl _ _⟩
    have : behindMark sites n d.ss sl = sl := by unfold behindMark; rw [h0]; split <;> rfl
    rw [this]; exact (modify_same hsl).symm
  · have fires : behindMark sites n d.ss sl = sl.firedOn (behindSites sites n d.ss sl) →
        ScanMove p e (fireSlot n i sl (behindSites sites n d.ss sl) e) ∧
        ((fireSlot n i sl (behindSites sites n d.ss sl) e).ss.plan p).active =
          (e.ss.plan p).active.modify i (fun _ => behindMark sites n d.ss sl) ∧
        Sweeps (closedBy (behindSites sites n d.ss) sl) e (fireSlot n i sl (behindSites sites n d.ss sl) e) := fun hk => by
      obtain ⟨h1, h2, h3⟩ := fireSlot_move hp n i sl (behindSites sites n d.ss sl) hte
      exact ⟨h1, h2.trans (by rw [hk]; exact (modify_get hsl _).symm), h3⟩
    split
    · rename_i g k hk
      obtain ⟨h1, h2, h3⟩ := onSlot_move hp i (PlanSlot.passedOn (behindSites sites n d.ss sl)) hte
      refine ⟨h1, h2.trans ?_, .of_eq (congrArg Attendance.sweeps h3)⟩
      have : behindMark sites n d.ss sl = sl.passedOn (behindSites sites n d.ss sl) := by unfold behindMark; rw [hk]
      rw [this]; exact (modify_get hsl _).symm
    · rename_i hk; exact fires (by unfold behindMark; rw [hk])
    · rename_i hk; exact fires (by unfold behindMark; rw [hk])
    · rename_i hk; exact fires (by unfold behindMark; rw [hk])

/-! ### What the walks leave of a slot -/

/-- A slot after marks: the same entry, with no flag gone. -/
structure Marked (a b : PlanSlot) : Prop where
  entry : b.entry = a.entry
  fired : ∀ s, a.fired.getLsbD s = true → b.fired.getLsbD s = true
  passed : ∀ s, a.passed.getLsbD s = true → b.passed.getLsbD s = true

theorem Marked.refl (a : PlanSlot) : Marked a a := ⟨rfl, fun _ h => h, fun _ h => h⟩
theorem Marked.trans {a b c : PlanSlot} (h1 : Marked a b) (h2 : Marked b c) : Marked a c :=
  ⟨h2.entry.trans h1.entry, fun s h => h2.fired s (h1.fired s h), fun s h => h2.passed s (h1.passed s h)⟩

theorem firedOn_fired (l : List Nat) (sl : PlanSlot) (s : Nat) :
    (sl.firedOn l).fired.getLsbD s = true ↔ sl.fired.getLsbD s = true ∨ s ∈ l ∧ s < 3 := by
  unfold PlanSlot.firedOn; rw [withSites_getLsbD]; simp
theorem passedOn_passed (l : List Nat) (sl : PlanSlot) (s : Nat) :
    (sl.passedOn l).passed.getLsbD s = true ↔ sl.passed.getLsbD s = true ∨ s ∈ l ∧ s < 3 := by
  unfold PlanSlot.passedOn; rw [withSites_getLsbD]; simp

theorem firedOn_marked (l : List Nat) (sl : PlanSlot) : Marked sl (sl.firedOn l) :=
  ⟨rfl, fun s h => (firedOn_fired l sl s).2 (.inl h), fun _ h => h⟩
theorem passedOn_marked (l : List Nat) (sl : PlanSlot) : Marked sl (sl.passedOn l) :=
  ⟨rfl, fun _ h => h, fun s h => (passedOn_passed l sl s).2 (.inl h)⟩
theorem dueMark_marked (sites : List Nat) (n : Nat) (ss : Scanner) (sl : PlanSlot) : Marked sl (dueMark sites n ss sl) := firedOn_marked _ _
theorem behindMark_marked (sites : List Nat) (n : Nat) (ss : Scanner) (sl : PlanSlot) : Marked sl (behindMark sites n ss sl) := by
  unfold behindMark; split
  · exact passedOn_marked _ _
  · exact firedOn_marked _ _
  · exact firedOn_marked _ _
  · exact firedOn_marked _ _

/-- The flags of a slot as R29 has them. -/
structure SlotLawful (sl : PlanSlot) : Prop where
  fired : ∀ s, sl.fired.getLsbD s = true → sl.names s = true ∧ sl.passed.getLsbD s = false
  passed : ∀ s, sl.passed.getLsbD s = true → sl.names s = true ∧ ∃ g i, sl.entry.action = .ring g i

theorem isOpen_iff (sl : PlanSlot) (s : Nat) :
    sl.isOpen s = true ↔ sl.names s = true ∧ sl.fired.getLsbD s = false ∧ sl.passed.getLsbD s = false := by
  simp [PlanSlot.isOpen, and_assoc]

theorem firedOn_lawful {l : List Nat} {sl : PlanSlot} (h : SlotLawful sl) (hl : ∀ s ∈ l, sl.isOpen s = true) :
    SlotLawful (sl.firedOn l) := by
  refine ⟨fun s hs => ?_, h.passed⟩
  rcases (firedOn_fired l sl s).1 hs with hs | ⟨hs, _⟩
  · exact h.fired s hs
  · exact ⟨((isOpen_iff sl s).1 (hl s hs)).1, ((isOpen_iff sl s).1 (hl s hs)).2.2⟩
theorem passedOn_lawful {l : List Nat} {sl : PlanSlot} (h : SlotLawful sl) (hl : ∀ s ∈ l, sl.isOpen s = true)
    (hr : ∃ g i, sl.entry.action = .ring g i) : SlotLawful (sl.passedOn l) := by
  have hp : ∀ s, (sl.passedOn l).passed.getLsbD s = true → sl.passed.getLsbD s = true ∨ s ∈ l := fun s hs =>
    ((passedOn_passed l sl s).1 hs).imp id (·.1)
  refine ⟨fun s hs => ⟨(h.fired s hs).1, ?_⟩, fun s hs => ?_⟩
  · have hs : sl.fired.getLsbD s = true := hs
    rcases hq : (sl.passedOn l).passed.getLsbD s with _ | _
    · rfl
    · rcases hp s hq with hq | hq
      · rw [(h.fired s hs).2] at hq; cases hq
      · rw [((isOpen_iff sl s).1 (hl s hq)).2.1] at hs; cases hs
  · rcases hp s hs with hs | hs
    · exact h.passed s hs
    · exact ⟨((isOpen_iff sl s).1 (hl s hs)).1, hr⟩
theorem dueSites_open {sites : List Nat} {n : Nat} {ss : Scanner} {sl : PlanSlot} {s : Nat} (h : s ∈ dueSites sites n ss sl) :
    s ∈ sites ∧ sl.isOpen s = true ∧ ss.effective sl.entry.minute s = n := by
  simpa [dueSites] using h
theorem behindSites_open {sites : List Nat} {n : Nat} {ss : Scanner} {sl : PlanSlot} {s : Nat} (h : s ∈ behindSites sites n ss sl) :
    s ∈ sites ∧ sl.isOpen s = true ∧ ss.effective sl.entry.minute s < n := by
  simpa [behindSites] using h
theorem dueMark_lawful (sites : List Nat) (n : Nat) (ss : Scanner) {sl : PlanSlot} (h : SlotLawful sl) :
    SlotLawful (dueMark sites n ss sl) := firedOn_lawful h fun _ hs => (dueSites_open hs).2.1
theorem behindMark_lawful (sites : List Nat) (n : Nat) (ss : Scanner) {sl : PlanSlot} (h : SlotLawful sl) :
    SlotLawful (behindMark sites n ss sl) := by
  have hl : ∀ s ∈ behindSites sites n ss sl, sl.isOpen s = true := fun _ hs => (behindSites_open hs).2.1
  unfold behindMark; split
  · rename_i g i hk; exact passedOn_lawful h hl ⟨g, i, hk⟩
  · exact firedOn_lawful h hl
  · exact firedOn_lawful h hl
  · exact firedOn_lawful h hl

/-- Newly fired pairs are due. -/
theorem dueMark_fired {sites : List Nat} {n : Nat} {ss : Scanner} {sl : PlanSlot} {s : Nat}
    (h : (dueMark sites n ss sl).fired.getLsbD s = true) :
    sl.fired.getLsbD s = true ∨ s ∈ sites ∧ sl.names s = true ∧ ss.effective sl.entry.minute s = n := by
  rcases (firedOn_fired _ _ _).1 h with h | ⟨h, _⟩
  · exact .inl h
  · obtain ⟨h1, h2, h3⟩ := dueSites_open h
    exact .inr ⟨h1, ((isOpen_iff _ _).1 h2).1, h3⟩
theorem behindMark_fired {sites : List Nat} {n : Nat} {ss : Scanner} {sl : PlanSlot} {s : Nat}
    (h : (behindMark sites n ss sl).fired.getLsbD s = true) :
    sl.fired.getLsbD s = true ∨ s ∈ sites ∧ sl.names s = true ∧ ss.effective sl.entry.minute s < n := by
  have key : (sl.firedOn (behindSites sites n ss sl)).fired.getLsbD s = true →
      sl.fired.getLsbD s = true ∨ s ∈ sites ∧ sl.names s = true ∧ ss.effective sl.entry.minute s < n := fun h => by
    rcases (firedOn_fired _ _ _).1 h with h | ⟨h, _⟩
    · exact .inl h
    · obtain ⟨h1, h2, h3⟩ := behindSites_open h
      exact .inr ⟨h1, ((isOpen_iff _ _).1 h2).1, h3⟩
  unfold behindMark at h
  split at h
  · exact .inl h
  · exact key h
  · exact key h
  · exact key h
/-- A due pair is not left open. -/
theorem dueMark_done {sites : List Nat} {n : Nat} {ss : Scanner} {sl : PlanSlot} {s : Nat} (hs : s ∈ sites) (hn : sl.names s = true)
    (he : ss.effective sl.entry.minute s = n) :
    (dueMark sites n ss sl).fired.getLsbD s = true ∨ (dueMark sites n ss sl).passed.getLsbD s = true := by
  by_cases ho : sl.isOpen s = true
  · exact .inl ((firedOn_fired _ _ _).2 (.inr ⟨by simp [dueSites, hs, ho, he], names_site hn⟩))
  · rw [isOpen_iff] at ho
    have hm := dueMark_marked sites n ss sl
    by_cases hf : sl.fired.getLsbD s = true
    · exact .inl (hm.fired s hf)
    · by_cases hp : sl.passed.getLsbD s = true
      · exact .inr (hm.passed s hp)
      · exact absurd ⟨hn, by simpa using hf, by simpa using hp⟩ ho
/-- A pair behind is not left open. -/
theorem behindMark_done {sites : List Nat} {n : Nat} {ss : Scanner} {sl : PlanSlot} {s : Nat} (hs : s ∈ sites)
    (hn : sl.names s = true) (he : ss.effective sl.entry.minute s < n) :
    (behindMark sites n ss sl).fired.getLsbD s = true ∨ (behindMark sites n ss sl).passed.getLsbD s = true := by
  by_cases ho : sl.isOpen s = true
  · have hb : s ∈ behindSites sites n ss sl := by simp [behindSites, hs, ho, he]
    have hf := (firedOn_fired (behindSites sites n ss sl) sl s).2 (.inr ⟨hb, names_site hn⟩)
    unfold behindMark; split
    · exact .inr ((passedOn_passed _ _ _).2 (.inr ⟨hb, names_site hn⟩))
    · exact .inl hf
    · exact .inl hf
    · exact .inl hf
  · rw [isOpen_iff] at ho
    have hm := behindMark_marked sites n ss sl
    by_cases hf : sl.fired.getLsbD s = true
    · exact .inl (hm.fired s hf)
    · by_cases hp : sl.passed.getLsbD s = true
      · exact .inr (hm.passed s hp)
      · exact absurd ⟨hn, by simpa using hf, by simpa using hp⟩ ho

/-! ### What a walk leaves of the day -/

theorem FlagsStand.refl (ss : Scanner) : FlagsStand ss ss := fun _ _ sl _ h _ => ⟨sl, h, rfl, fun _ => ⟨id, id⟩⟩
theorem flag_set {set : SiteSet} (h : set ≠ 0) : ∃ s, set.getLsbD s = true := by
  by_contra hn
  refine h (BitVec.eq_of_getLsbD_eq fun i _ => ?_)
  rcases hb : set.getLsbD i with _ | _
  · simp
  · exact absurd ⟨i, hb⟩ hn
theorem flag_some {set : SiteSet} {s : Nat} (h : set.getLsbD s = true) : set ≠ 0 := by
  rintro rfl; simp at h
theorem FlagsStand.trans {a b c : Scanner} (h1 : FlagsStand a b) (h2 : FlagsStand b c) : FlagsStand a c := by
  intro p i sl hp hi hf
  obtain ⟨s1, g1, e1, k1⟩ := h1 p i sl hp hi hf
  have hf1 : s1.fired ≠ 0 ∨ s1.passed ≠ 0 := by
    rcases hf with hf | hf
    · obtain ⟨s, hs⟩ := flag_set hf; exact .inl (flag_some ((k1 s).1 hs))
    · obtain ⟨s, hs⟩ := flag_set hf; exact .inr (flag_some ((k1 s).2 hs))
  obtain ⟨s2, g2, e2, k2⟩ := h2 p i s1 hp g1 hf1
  exact ⟨s2, g2, e2.trans e1, fun s => ⟨fun h => (k2 s).1 ((k1 s).1 h), fun h => (k2 s).2 ((k1 s).2 h)⟩⟩
theorem FlagsStand.of_plans {a b : Scanner} (h : b.plans = a.plans) : FlagsStand a b := by
  have hp : ∀ p, b.plan p = a.plan p := fun p => by unfold Scanner.plan; rw [h]
  intro p i sl _ hi _
  exact ⟨sl, by rw [hp]; exact hi, rfl, fun _ => ⟨id, id⟩⟩

theorem mem_setNth {α : Type} {l : List α} {p : Nat} {a x : α} (h : x ∈ setNth l p a) : x ∈ l ∨ x = a := by
  unfold setNth at h; split at h
  · exact .inl h
  · exact List.mem_or_eq_of_mem_set h
theorem mem_of_setNth {α : Type} {l : List α} {p : Nat} (hp : 1 ≤ p) {a x : α} (dflt : α) (h : x ∈ l) :
    x ∈ setNth l p a ∨ x = nth l p dflt ∧ a ∈ setNth l p a := by
  unfold setNth nth
  rw [if_neg (by omega)]
  obtain ⟨i, hi, rfl⟩ := List.getElem_of_mem h
  by_cases hip : i = p - 1
  · subst hip
    exact .inr ⟨by rw [List.getD_eq_getElem?_getD, List.getElem?_eq_getElem hi]; rfl, List.mem_set hi _⟩
  · refine .inl (List.mem_iff_getElem.2 ⟨i, by simpa using hi, ?_⟩)
    rw [List.getElem_set_ne (by omega)]
theorem plan_mem_or (ss : Scanner) (p : Nat) : ss.plan p ∈ ss.plans ∨ ss.plan p = ⟨[], [], false⟩ := by
  unfold Scanner.plan nth
  rw [List.getD_eq_getElem?_getD]
  rcases Nat.lt_or_ge (p - 1) ss.plans.length with h | h
  · rw [List.getElem?_eq_getElem h]; exact .inl (List.getElem_mem h)
  · rw [List.getElem?_eq_none h]; exact .inr rfl

/-- A scan move that marks each slot of the plan it walks. -/
structure MarkMove (p : Nat) (mark : PlanSlot → PlanSlot) (d e : Device) : Prop where
  move : ScanMove p d e
  slots : (e.ss.plan p).active = (d.ss.plan p).active.map mark
  marked : ∀ sl, Marked sl (mark sl)
  swept : Sweeps (fun w => ∃ sl ∈ (e.ss.plan p).active, sl.entry.action = .regClose w.point ∧ sl.fired.getLsbD w.site = true) d e

theorem MarkMove.trans {p : Nat} (hp : 1 ≤ p) {m1 m2 : PlanSlot → PlanSlot} {a b c : Device} (h1 : MarkMove p m1 a b)
    (h2 : MarkMove p m2 b c) : MarkMove p (fun sl => m2 (m1 sl)) a c where
  move := h1.move.trans hp h2.move
  slots := by rw [h2.slots, h1.slots, List.map_map]; rfl
  marked := fun sl => (h1.marked sl).trans (h2.marked _)
  swept := by
    refine (h1.swept.mono fun w hw => ?_).trans h2.swept
    obtain ⟨sl, hsl, ha, hf⟩ := hw
    exact ⟨m2 sl, by rw [h2.slots]; exact List.mem_map_of_mem hsl, by rw [(h2.marked sl).entry]; exact ha, (h2.marked sl).fired _ hf⟩

theorem MarkMove.flags {p : Nat} (hp : 1 ≤ p) {mark : PlanSlot → PlanSlot} {d e : Device} (h : MarkMove p mark d e) :
    FlagsStand d.ss e.ss := by
  intro q i sl hq hi _
  by_cases hpq : p = q
  · subst hpq
    refine ⟨mark sl, by rw [h.slots, List.getElem?_map, hi]; rfl, (h.marked sl).entry, fun s => ⟨(h.marked sl).fired s, (h.marked sl).passed s⟩⟩
  · exact ⟨sl, by rw [h.move.other hp hq hpq]; exact hi, rfl, fun _ => ⟨id, id⟩⟩

/-- A close that has fired in a plan in the list has fired. -/
theorem closeFired_of_plan {ss : Scanner} {p k s : Nat}
    (h : ∃ sl ∈ (ss.plan p).active, sl.entry.action = .regClose k ∧ sl.fired.getLsbD s = true) : CloseFired ss k s := by
  obtain ⟨sl, hsl, ha, hf⟩ := h
  rcases plan_mem_or ss p with hm | hm
  · exact ⟨_, hm, sl, hsl, ha, hf⟩
  · rw [hm] at hsl; cases hsl

theorem MarkMove.closes {p : Nat} (hp : 1 ≤ p) {mark : PlanSlot → PlanSlot} {d e : Device} (h : MarkMove p mark d e) {k s : Nat}
    (hc : CloseFired d.ss k s) : CloseFired e.ss k s := by
  obtain ⟨q, hq, sl, hsl, ha, hf⟩ := hc
  rcases mem_of_setNth hp (a := { d.ss.plan p with active := (e.ss.plan p).active }) ⟨[], [], false⟩ hq with hm | ⟨hm, _⟩
  · rw [← h.move.plans] at hm; exact ⟨q, hm, sl, hsl, ha, hf⟩
  · have hm : q = d.ss.plan p := hm
    subst hm
    exact closeFired_of_plan (p := p) ⟨mark sl, by rw [h.slots]; exact List.mem_map_of_mem hsl, by rw [(h.marked sl).entry]; exact ha,
      (h.marked sl).fired _ hf⟩

/-- The walks of R30 and R33 as mark moves. -/
theorem fireDue_marks {p : Nat} (hp : 1 ≤ p) (sites : List Nat) (hs : ∀ s ∈ sites, s < 3) (n : Nat) {d : Device}
    (ht : d.tb.today = .plan p) : MarkMove p (dueMark sites n d.ss) d (fireDue sites n d) := by
  obtain ⟨h1, h2, h3⟩ := fireDue_move hp sites n ht
  refine ⟨h1, h2, dueMark_marked _ _ _, h3.mono fun w hw => ?_⟩
  obtain ⟨sl, hsl, ha, hm⟩ := hw
  exact ⟨dueMark sites n d.ss sl, by rw [h2]; exact List.mem_map_of_mem hsl, ha,
    (firedOn_fired _ _ _).2 (.inr ⟨hm, hs _ (dueSites_open hm).1⟩)⟩
theorem catchUp_marks {p : Nat} (hp : 1 ≤ p) (sites : List Nat) (hs : ∀ s ∈ sites, s < 3) (n : Nat) {d : Device}
    (ht : d.tb.today = .plan p) : MarkMove p (behindMark sites n d.ss) d (catchUp sites n d) := by
  obtain ⟨h1, h2, h3⟩ := catchUp_move hp sites n ht
  refine ⟨h1, h2, behindMark_marked _ _ _, h3.mono fun w hw => ?_⟩
  obtain ⟨sl, hsl, ha, hm⟩ := hw
  refine ⟨behindMark sites n d.ss sl, by rw [h2]; exact List.mem_map_of_mem hsl, by rw [(behindMark_marked _ _ _ _).entry]; exact ha, ?_⟩
  have : behindMark sites n d.ss sl = sl.firedOn (behindSites sites n d.ss sl) := by unfold behindMark; rw [ha]
  rw [this]
  exact (firedOn_fired _ _ _).2 (.inr ⟨hm, hs _ (behindSites_open hm).1⟩)
/-- Confirm points mark no slot. -/
theorem points_marks (p : Nat) {d e : Device} (closes : Sweep → Prop) (hc : ∀ w, ¬ closes w)
    (h : e = { d with ss.confirm := e.ss.confirm, ae.sweeps := e.ae.sweeps } ∧ Sweeps closes d e) : MarkMove p id d e where
  move := quiet_move p h.1
  slots := by rw [quiet_plan p h.1]; simp
  marked := fun sl => .refl sl
  swept := h.2.mono fun w hw => absurd hw (hc w)

end Sys2Proof.Machine
end

