-- ==== Sys2Proof/Laws/Warm.lean ====
section
/-! SUPPORT. What a warm reset keeps beside the values of its tables: the supply, the strap and the sense lines are the pins', and no
block's reset touches them (R22, R165, R182); and where it leaves the notices of the ring (R113, R119). -/
namespace Sys2Proof.Machine

/-- e has d's pins: the supply, the strap and the sense lines. -/
def SamePins (d e : Device) : Prop := e.mainPower = d.mainPower ∧ e.fastBaud = d.fastBaud ∧ e.sense = d.sense

theorem SamePins.trans {a b c : Device} (h1 : SamePins a b) (h2 : SamePins b c) : SamePins a c :=
  ⟨h2.1.trans h1.1, h2.2.1.trans h1.2.1, h2.2.2.trans h1.2.2⟩
theorem NoticeMove.pins {d e : Device} (h : NoticeMove d e) : SamePins d e := by rw [h]; exact ⟨rfl, rfl, rfl⟩
theorem RecordMove.pins {d e : Device} (h : RecordMove d e) : SamePins d e := by rw [h]; exact ⟨rfl, rfl, rfl⟩
theorem settling_pins (f : Sounder → Sounder) (d : Device) : SamePins d (settling (fun d => { d with su := f d.su }) d) := by
  have h := settling_frame (fun d => { d with su := f d.su }) d
  generalize settling (fun d => { d with su := f d.su }) d = e at *
  rw [h]; exact ⟨rfl, rfl, rfl⟩

theorem changeAlert_pins (f : Sounder → Sounder) (d : Device) : SamePins d (changeAlert f d) := by
  have h := settling_pins f d
  unfold changeAlert
  generalize settling (fun d => { d with su := f d.su }) d = e at *
  dsimp only; split
  · exact h
  · exact h.trans ⟨rfl, rfl, rfl⟩

theorem sampleInputs_pins (a k : Bool) (d : Device) : SamePins d (sampleInputs a k d) := by
  have ha : SamePins d (if a then changeAlert (Sounder.raised d.su.alertInputZones) d else d) := by
    split
    · exact changeAlert_pins _ _
    · exact ⟨rfl, rfl, rfl⟩
  unfold sampleInputs
  generalize (if a then changeAlert (Sounder.raised d.su.alertInputZones) d else d) = e at *
  dsimp only; split
  · exact ha.trans (settling_pins (fun su => { su with paKeyHeld := true }) e)
  · exact ha

/-- The Notice Unit after a warm reset: the ring's notices go back to it, and old URGENT ones fall back if the link was UP (R113, R119). -/
theorem relayWarm_nu {d e : Device} (h : SameNotices d e) (hr : e.rl = d.rl) :
    (relayWarm e).nu = (if d.rl.link = .up then fallBackAll (returnNotices (d.rl.ring.map (·.notice)) 0 0 0 d)
      else returnNotices (d.rl.ring.map (·.notice)) 0 0 0 d).nu := by
  have he : SameNotices (returnNotices (d.rl.ring.map (·.notice)) 0 0 0 d) (emptyLink e) := by
    unfold emptyLink
    rw [hr]
    exact returnNotices_same _ 0 0 0 ⟨h.1, h.2⟩
  have hl := fallBackAll_same he
  unfold relayWarm
  rw [hr]
  dsimp only
  split <;> split
  · exact hl.1
  · exact he.1
  · exact hl.1
  · exact he.1

theorem relayWarm_pins (d : Device) : SamePins d (relayWarm d) := by
  have he : SamePins d (emptyLink d) := SamePins.trans (b := { d with rl := d.rl.emptied }) ⟨rfl, rfl, rfl⟩ (emptyLink_move d).pins
  have hl : SamePins d (if d.rl.link = .up then fallBackAll (emptyLink d) else emptyLink d) := by
    split
    · exact he.trans (fallBackAll_move _).pins
    · exact he
  unfold relayWarm; dsimp only; split
  · exact hl.trans ⟨rfl, rfl, rfl⟩
  · exact hl.trans ⟨rfl, rfl, rfl⟩

theorem valuesWarm_pins (d : Device) : SamePins d (valuesWarm d) := by
  have h : SamePins d (relayWarm { d with tb := d.tb.warm, ae := d.ae.warm, gb := d.gb.warm }) :=
    SamePins.trans ⟨rfl, rfl, rfl⟩ (relayWarm_pins _)
  unfold valuesWarm
  generalize relayWarm _ = e at *
  have h2 : SamePins d { ({ e with su := e.su.warm } : Device).zonesWarm with op := e.op.warm } := h
  exact h2.trans (sampleInputs_pins d.su.alertLevel d.su.paKeyHeld _)

theorem blocksWarm_pins (d : Device) : SamePins d (blocksWarm d) := (takeWaiting_move d).pins.trans (valuesWarm_pins _)

end Sys2Proof.Machine
end

