-- ==== Sys2Proof/Laws/KeepDay.lean ====
section
/-! SUPPORT. Every operation keeps the day's laws of Safety.lean and, but for the rollover's steps 7 and 8 and a retention loss, leaves the
flags that have fired or passed standing (R29, R30, R33), each said once. -/
namespace Sys2Proof.Machine

/-! ### The laws as operations keep them -/

/-- What the sweeps and the absences of the roster may be for. -/
def frameOf (power : Bool) (tb : TimeBase) (ss : Scanner) : DayFrame where
  power := power
  tb := tb
  ss := ss
  swept := fun kind k s => (∀ r, tb.rollover = some r → r.step < 2) ∧ (kind = .close → CloseFired ss k s)
  closed := fun k s => CloseFired ss k s ∧ ∀ r, tb.rollover = some r → r.step < 4
  fits := fun _ _ h => ⟨h.2 rfl, fun r hr => Nat.lt_trans (h.1 r hr) (by decide)⟩

/-- The day's laws but for the pairs left behind. -/
structure DayTables (d : Device) : Prop where
  plans : ∀ p ∈ d.ss.plans, PlanLawful p
  ae : AeOk (frameOf d.mainPower d.tb d.ss) d.ae
  dated : ∀ p, d.tb.today = .plan p → 1 ≤ p

/-- No pair of today's plan of an effective minute and site that P takes in stays open behind the current minute, while the scanner
runs. -/
def NoneOpen (P : Nat → Nat → Prop) (d : Device) : Prop :=
  d.mainPower = true → d.tb.validity = .valid → d.tb.rollover = none → ∀ p, d.tb.today = .plan p →
    ∀ sl ∈ (d.ss.plan p).active, ∀ s, sl.names s = true → P (d.ss.effective sl.entry.minute s) s →
      d.ss.effective sl.entry.minute s ≤ d.minute → sl.fired.getLsbD s = true ∨ sl.passed.getLsbD s = true

/-- The day's laws, and the flags of an earlier scanner standing. -/
structure Day (from_ : Scanner) (d : Device) : Prop where
  tables : DayTables d
  behind : NoneOpen (fun _ _ => True) d
  flags : FlagsStand from_ d.ss

theorem day_iff (d : Device) : Day d.ss d ↔ (LinksAgree d.ae ∧ TalliesInRange d.ae ∧ DayInOrder d) ∧
    ((d.ae.roster.getD []).map (·.roll)).Nodup ∧ (d.ae.pupils.map (·.roll)).Nodup ∧ ∀ p, d.tb.today = .plan p → 1 ≤ p := by
  constructor
  · rintro ⟨⟨p, ⟨s, e, o, l, t, u⟩, dt⟩, b, -⟩
    exact ⟨⟨l, t, p, fun h1 h2 h3 q h4 sl h5 s h6 h7 => b h1 h2 h3 q h4 sl h5 s h6 trivial h7, s, e⟩, o, u, dt⟩
  · rintro ⟨⟨l, t, p, b, s, e⟩, o, u, dt⟩
    exact ⟨⟨p, ⟨s, e, o, l, t, u⟩, dt⟩, fun h1 h2 h3 q h4 sl h5 s h6 _ h7 => b h1 h2 h3 q h4 sl h5 s h6 h7, .refl _⟩

theorem AeOk.mono {F G : DayFrame} {a : Attendance} (h : AeOk F a) (hs : ∀ kind k s, F.swept kind k s → G.swept kind k s)
    (hc : ∀ k s, F.closed k s → G.closed k s) : AeOk G a :=
  ⟨fun w hw => hs _ _ _ (h.sweeps w hw), fun e he => (h.entries e he).mono hc, h.once, h.links, h.tallies, h.held⟩

/-- The rollover's step stays below a step that it was below. -/
def StepsFall (before after : TimeBase) : Prop :=
  ∀ n, n = 2 ∨ n = 4 → (∀ r, before.rollover = some r → r.step < n) → ∀ r, after.rollover = some r → r.step < n

theorem StepsFall.of_eq {a b : TimeBase} (h : b.rollover = a.rollover) : StepsFall a b := fun _ _ hn r hr => hn r (h ▸ hr)
theorem StepsFall.start {a b : TimeBase} (h : ∀ r, b.rollover = some r → r.step < 2) : StepsFall a b := fun _ hn _ r hr => by
  have := h r hr; omega
/-- A step later than the second, from the fourth on or not past the fourth. -/
theorem StepsFall.on {a b : TimeBase} {r : Rollover} (h : a.rollover = some r)
    (hb : ∀ q, b.rollover = some q → q.step = r.step ∨ 2 ≤ r.step ∧ (4 ≤ r.step ∨ q.step < 4)) : StepsFall a b := by
  intro n hn hr q hq
  have := hr r h
  rcases hb q hq with he | ⟨h2, he⟩ <;> omega

theorem DayTables.clock {d e : Device} (h : DayTables d) (ha : e.ae = d.ae) (hs : e.ss = d.ss)
    (ht : ∀ p, e.tb.today = .plan p → 1 ≤ p) (hr : StepsFall d.tb e.tb) : DayTables e := by
  refine ⟨by rw [hs]; exact h.plans, ?_, ht⟩
  rw [ha, hs]
  exact h.ae.mono (fun _ _ _ hk => ⟨hr 2 (.inl rfl) hk.1, hk.2⟩) fun _ _ hk => ⟨hk.1, hr 4 (.inr rfl) hk.2⟩

theorem NoneOpen.of_view {P : Nat → Nat → Prop} {d e : Device} (h : NoneOpen P d) (hs : e.ss = d.ss)
    (hp : e.mainPower = true → d.mainPower = true) (hv : e.tb.validity = d.tb.validity) (ht : e.tb.today = d.tb.today)
    (hr : e.tb.rollover = d.tb.rollover) (hm : e.minute ≤ d.minute) : NoneOpen P e := by
  intro h1 h2 h3 p h4 sl h5 s h6 h7 h8
  rw [hs] at h5 h7 h8
  exact h (hp h1) (hv ▸ h2) (hr ▸ h3) p (ht ▸ h4) sl h5 s h6 h7 (Nat.le_trans h8 hm)
theorem NoneOpen.mono {P Q : Nat → Nat → Prop} {d : Device} (h : NoneOpen P d) (hq : ∀ m s, Q m s → P m s) : NoneOpen Q d :=
  fun h1 h2 h3 p h4 sl h5 s h6 h7 h8 => h h1 h2 h3 p h4 sl h5 s h6 (hq _ _ h7) h8
theorem NoneOpen.off {P : Nat → Nat → Prop} {d : Device} (h : ¬ (d.mainPower = true ∧ d.tb.validity = .valid ∧ d.tb.rollover = none)) :
    NoneOpen P d := fun h1 h2 h3 => absurd ⟨h1, h2, h3⟩ h
theorem NoneOpen.rolls {P : Nat → Nat → Prop} {d : Device} {r : Rollover} (h : d.tb.rollover = some r) : NoneOpen P d :=
  .off fun hh => by rw [h] at hh; cases hh.2.2

/-- Nothing of the day changes but the clock, which does not move on. -/
theorem Day.of_view {f : Scanner} {d e : Device} (h : Day f d) (ha : e.ae = d.ae) (hs : e.ss = d.ss)
    (hp : e.mainPower = d.mainPower) (hv : e.tb.validity = d.tb.validity) (ht : e.tb.today = d.tb.today)
    (hr : e.tb.rollover = d.tb.rollover) (hm : e.minute ≤ d.minute) : Day f e :=
  ⟨h.tables.clock ha hs (by rw [ht]; exact h.tables.dated) (.of_eq hr),
   h.behind.of_view hs (fun hh => hp ▸ hh) hv ht hr hm, by rw [hs]; exact h.flags⟩
/-- A rollover is ACTIVE. -/
theorem Day.rolls {f : Scanner} {d e : Device} {r : Rollover} (h : Day f d) (ha : e.ae = d.ae) (hs : e.ss = d.ss)
    (ht : e.tb.today = d.tb.today) (hr : e.tb.rollover = some r) (hf : StepsFall d.tb e.tb) : Day f e :=
  ⟨h.tables.clock ha hs (by rw [ht]; exact h.tables.dated) hf, .rolls hr, by rw [hs]; exact h.flags⟩
/-- The clock and the scanner stand. -/
theorem DayTables.calm {d e : Device} (h : DayTables d)
    (he : Calm (frameOf d.mainPower d.tb d.ss) d → Calm (frameOf d.mainPower d.tb d.ss) e) :
    DayTables e ∧ e.ss = d.ss ∧ e.tb = d.tb ∧ e.mainPower = d.mainPower := by
  obtain ⟨hp, ht, hs, ha⟩ := he ⟨rfl, rfl, rfl, h.ae⟩
  have hp : e.mainPower = d.mainPower := hp
  have ht : e.tb = d.tb := ht
  have hs : e.ss = d.ss := hs
  exact ⟨⟨by rw [hs]; exact h.plans, by rw [hp, ht, hs]; exact ha, by rw [ht]; exact h.dated⟩, hs, ht, hp⟩
theorem Day.calm {f : Scanner} {d e : Device} (h : Day f d)
    (he : Calm (frameOf d.mainPower d.tb d.ss) d → Calm (frameOf d.mainPower d.tb d.ss) e) : Day f e := by
  obtain ⟨ht, hs, hb, hp⟩ := h.tables.calm he
  refine ⟨ht, ?_, by rw [hs]; exact h.flags⟩
  exact h.behind.of_view hs (fun hh => hp ▸ hh) (by rw [hb]) (by rw [hb]) (by rw [hb]) (by unfold Device.minute; rw [hb])

/-! ### The scanner -/

theorem planLawful_nil : PlanLawful ⟨[], [], false⟩ :=
  ⟨by simp, by simp, ⟨by simp [ClosesFollow], by simp [ClosesFollow]⟩, by simp⟩
theorem DayTables.plan {d : Device} (h : DayTables d) (p : Nat) : PlanLawful (d.ss.plan p) := by
  rcases plan_mem_or d.ss p with hm | hm
  · exact h.plans _ hm
  · rw [hm]; exact planLawful_nil
theorem PlanLawful.slot {p : DayPlan} (h : PlanLawful p) {sl : PlanSlot} (hs : sl ∈ p.active) : SlotLawful sl :=
  ⟨h.fired sl hs, h.passed sl hs⟩

theorem effective_mono (ss : Scanner) {m n : Nat} (h : m ≤ n) (s : Nat) : ss.effective m s ≤ ss.effective n s := by
  unfold Scanner.effective clampInt; omega

/-- A walk that passes no close by its start keeps the day's laws. -/
theorem MarkMove.tables {p : Nat} {mark : PlanSlot → PlanSlot} {d e : Device} (hp : 1 ≤ p) (h : MarkMove p mark d e) (hd : DayTables d)
    (idle : d.tb.rollover = none) (hl : ∀ sl, SlotLawful sl → SlotLawful (mark sl))
    (ho : ∀ sl ∈ (d.ss.plan p).active, ∀ k s, sl.entry.action = .regClose k → (mark sl).fired.getLsbD s = true →
      sl.fired.getLsbD s = true ∨ ∀ o ∈ (d.ss.plan p).active, o.entry.action = .regStart k → o.names s = true →
        o.entry.minute ≤ sl.entry.minute → (mark o).fired.getLsbD s = true) : DayTables e := by
  have hpl := hd.plan p
  have walked : PlanLawful { d.ss.plan p with active := (d.ss.plan p).active.map mark } := by
    have hent : ((d.ss.plan p).active.map mark).map (·.entry) = (d.ss.plan p).active.map (·.entry) := by
      rw [List.map_map]; exact List.map_congr_left fun sl _ => (h.marked sl).entry
    refine ⟨fun sl hsl => ?_, fun sl hsl => ?_, ⟨?_, hpl.closes.2⟩, fun sl hsl k s ha hf => ?_⟩
    · obtain ⟨o, ho, rfl⟩ := List.mem_map.1 hsl; exact (hl o (hpl.slot ho)).fired
    · obtain ⟨o, ho, rfl⟩ := List.mem_map.1 hsl; exact (hl o (hpl.slot ho)).passed
    · show ClosesFollow (((d.ss.plan p).active.map mark).map (·.entry)); rw [hent]; exact hpl.closes.1
    · obtain ⟨o, hoa, rfl⟩ := List.mem_map.1 hsl
      rw [(h.marked o).entry] at ha
      rcases ho o hoa k s ha hf with hf' | hs
      · obtain ⟨x, hx, hxa, hxf⟩ := hpl.opened o hoa k s ha hf'
        exact ⟨mark x, List.mem_map_of_mem hx, by rw [(h.marked x).entry]; exact hxa, (h.marked x).fired s hxf⟩
      · have hn := ((hl o (hpl.slot hoa)).fired s hf).1
        have hn : o.entry.sites.getLsbD s = true := by
          unfold PlanSlot.names at hn; rw [(h.marked o).entry] at hn; exact hn
        obtain ⟨y, hy, hya, hyn, hym⟩ := hpl.closes.1 o.entry (List.mem_map_of_mem hoa) k s ha hn
        obtain ⟨x, hx, rfl⟩ := List.mem_map.1 hy
        exact ⟨mark x, List.mem_map_of_mem hx, by rw [(h.marked x).entry]; exact hya, hs x hx hya hyn hym⟩
  have hae : e.ae = { d.ae with sweeps := e.ae.sweeps } := by rw [h.move.frame]
  have hclosed : ∀ k s, CloseFired d.ss k s → CloseFired e.ss k s := fun k s => h.closes hp
  refine ⟨fun q hq => ?_, ?_, by rw [h.move.tb]; exact hd.dated⟩
  · rw [h.move.plans, h.slots] at hq
    rcases mem_setNth hq with hq | hq
    · exact hd.plans q hq
    · rw [hq]; exact walked
  · rw [h.move.tb, h.move.power, hae]
    have hm := hd.ae.mono (G := frameOf d.mainPower d.tb e.ss) (fun _ _ _ hk => ⟨hk.1, fun hh => hclosed _ _ (hk.2 hh)⟩)
      fun _ _ hk => ⟨hclosed _ _ hk.1, hk.2⟩
    obtain ⟨s, en, o, ⟨l1, l2, l3, l4, l5, l6⟩, t, u⟩ := hm
    refine ⟨fun w hw => ?_, en, o, ⟨l1, l2, l3, l4, l5, l6⟩, t, u⟩
    obtain ⟨new, hnew, hcl⟩ := h.swept
    have hw : w ∈ e.ae.sweeps := hw
    rw [hnew] at hw
    rcases List.mem_append.1 hw with hw | hw
    · exact s w hw
    · exact ⟨fun r hr => (by rw [idle] at hr; cases hr), fun hk => closeFired_of_plan (hcl w hw hk)⟩

theorem dueMark_same {a b : Scanner} (h : ∀ m s, b.effective m s = a.effective m s) (sites : List Nat) (n : Nat) :
    dueMark sites n b = dueMark sites n a := by
  funext sl; unfold dueMark dueSites; simp only [h]
theorem behindMark_same {a b : Scanner} (h : ∀ m s, b.effective m s = a.effective m s) (sites : List Nat) (n : Nat) :
    behindMark sites n b = behindMark sites n a := by
  funext sl; unfold behindMark behindSites; simp only [h]

theorem mem_sites {s : Nat} (h : s ∈ allSites) : s < 3 := by
  simp only [allSites, List.mem_cons, List.not_mem_nil, or_false] at h; omega

theorem scanning_plan {d : Device} (h : d.scanning = true) : ∃ p, d.tb.today = .plan p := by
  unfold Device.scanning at h
  cases ht : d.tb.today with
  | plan p => exact ⟨p, rfl⟩
  | closed => simp [ht] at h
theorem NoneOpen.still {P : Nat → Nat → Prop} {d : Device} (h : d.scanning = false) : NoneOpen P d := by
  intro _ h2 _ p h4
  simp [Device.scanning, Device.clockValid, h2, h4] at h

/-- The top of a minute: the pairs due fire (R30). -/
theorem topOfMinute_day {f : Scanner} {d : Device} (hd : DayTables d) (hf : FlagsStand f d.ss) (power : d.mainPower = true)
    (idle : d.tb.rollover = none) (hb : NoneOpen (fun m _ => m < d.minute) d) : Day f (topOfMinute d) := by
  unfold topOfMinute
  cases hsc : d.scanning with
  | false => exact ⟨hd, .still hsc, hf⟩
  | true =>
    rw [if_pos rfl]
    have hv : d.tb.validity = .valid := by
      unfold Device.scanning Device.clockValid at hsc
      simp only [Bool.and_eq_true, beq_iff_eq] at hsc; exact hsc.1
    obtain ⟨p, ht⟩ := scanning_plan hsc
    have hp := hd.dated p ht
    have hm1 := fireDue_marks hp allSites (fun s hs => mem_sites hs) d.minute ht
    have hm2 := points_marks p (fun _ => False) (fun _ => id) (firePointsAt_points allSites d.minute _ (fireDue allSites d.minute d))
    have hm : MarkMove p (dueMark allSites d.minute d.ss) d (firePointsAt allSites d.minute (fireDue allSites d.minute d)) :=
      hm1.trans hp hm2
    generalize firePointsAt allSites d.minute (fireDue allSites d.minute d) = e at hm
    have hmin : e.minute = d.minute := by unfold Device.minute; rw [hm.move.tb]
    have hl : ∀ sl, SlotLawful sl → SlotLawful (dueMark allSites d.minute d.ss sl) := fun sl h => dueMark_lawful _ _ _ h
    have done : ∀ sl ∈ (d.ss.plan p).active, ∀ s, sl.names s = true → d.ss.effective sl.entry.minute s ≤ d.minute →
        (dueMark allSites d.minute d.ss sl).fired.getLsbD s = true ∨ (dueMark allSites d.minute d.ss sl).passed.getLsbD s = true := by
      intro sl hsl s hn he
      rcases Nat.lt_or_eq_of_le he with he | he
      · exact (hb power hv idle p ht sl hsl s hn he (Nat.le_of_lt he)).imp ((dueMark_marked _ _ _ sl).fired s)
          ((dueMark_marked _ _ _ sl).passed s)
      · exact dueMark_done (mem_allSites (names_site hn)) hn he
    refine ⟨hm.tables hp hd idle hl fun sl hsl k s ha hfd => ?_, ?_, hf.trans (hm.flags hp)⟩
    · rcases dueMark_fired hfd with h | ⟨_, _, he⟩
      · exact .inl h
      · refine .inr fun o hoa hoact hon hom => ?_
        rcases done o hoa s hon (Nat.le_trans (effective_mono _ hom s) (Nat.le_of_eq he)) with h | h
        · exact h
        · obtain ⟨_, g, i, hg⟩ := (hl o ((hd.plan p).slot hoa)).passed s h
          rw [(dueMark_marked _ _ _ o).entry, hoact] at hg; cases hg
    · intro _ _ _ q hq sl hsl s hn _ he
      rw [hm.move.tb, ht] at hq; cases hq
      rw [hm.slots] at hsl
      obtain ⟨o, ho, rfl⟩ := List.mem_map.1 hsl
      unfold PlanSlot.names at hn
      rw [hm.move.effective, hmin] at he
      rw [(dueMark_marked _ _ _ o).entry] at hn he
      exact done o ho s hn he

/-- A reassessment of sites: their pairs at the current minute or behind it are fired or passed (R33). -/
theorem reassess_day {f : Scanner} {sites : List Nat} (hs : ∀ s ∈ sites, s < 3) {d : Device} (hd : DayTables d) (hf : FlagsStand f d.ss)
    (idle : d.tb.rollover = none) (hb : NoneOpen (fun _ s => s ∉ sites) d) : Day f (reassess sites d) := by
  unfold reassess
  cases hsc : d.scanning with
  | false => exact ⟨hd, .still hsc, hf⟩
  | true =>
    rw [if_pos rfl]; dsimp only
    obtain ⟨p, ht⟩ := scanning_plan hsc
    have hp := hd.dated p ht
    have h1 := points_marks p (fun _ => False) (fun _ => id) (points_fold (fun acc (q : Nat × Nat × Nat) => firePoint q.2.1 q.2.2 acc)
      (fun _ => False) (pointsBehind sites d.minute d.ss)
      (fun e q _ => ⟨firePoint_points q.2.1 q.2.2 e, firePoint_sweeps _ q.2.1 q.2.2 e⟩) d)
    generalize (pointsBehind sites d.minute d.ss).foldl (fun acc q => firePoint q.2.1 q.2.2 acc) d = d1 at h1
    have h2 := catchUp_marks hp sites hs d.minute (d := d1) (by rw [h1.move.tb]; exact ht)
    rw [behindMark_same h1.move.effective] at h2
    have h12 := h1.trans hp h2
    have h3 := fireDue_marks hp sites hs d.minute (d := catchUp sites d.minute d1) (by rw [h12.move.tb]; exact ht)
    rw [dueMark_same h12.move.effective] at h3
    have hm : MarkMove p (fun sl => dueMark sites d.minute d.ss (behindMark sites d.minute d.ss sl)) d
        (firePointsAt sites d.minute (fireDue sites d.minute (catchUp sites d.minute d1))) :=
      (h12.trans hp h3).trans hp (points_marks p (fun _ => False) (fun _ => id)
        (firePointsAt_points sites d.minute _ (fireDue sites d.minute (catchUp sites d.minute d1))))
    generalize firePointsAt sites d.minute (fireDue sites d.minute (catchUp sites d.minute d1)) = e at hm
    have hmin : e.minute = d.minute := by unfold Device.minute; rw [hm.move.tb]
    have hl : ∀ sl, SlotLawful sl → SlotLawful (dueMark sites d.minute d.ss (behindMark sites d.minute d.ss sl)) :=
      fun sl h => dueMark_lawful _ _ _ (behindMark_lawful _ _ _ h)
    have hmk : ∀ sl, Marked sl (dueMark sites d.minute d.ss (behindMark sites d.minute d.ss sl)) := hm.marked
    have done : ∀ (sl : PlanSlot) (s : Nat), s ∈ sites → sl.names s = true → d.ss.effective sl.entry.minute s ≤ d.minute →
        (dueMark sites d.minute d.ss (behindMark sites d.minute d.ss sl)).fired.getLsbD s = true ∨
        (dueMark sites d.minute d.ss (behindMark sites d.minute d.ss sl)).passed.getLsbD s = true := by
      intro sl s hss hn he
      rcases Nat.lt_or_eq_of_le he with he | he
      · exact (behindMark_done hss hn he).imp ((dueMark_marked _ _ _ _).fired s) ((dueMark_marked _ _ _ _).passed s)
      · refine dueMark_done hss ?_ ?_
        · unfold PlanSlot.names; rw [(behindMark_marked _ _ _ sl).entry]; exact hn
        · rw [(behindMark_marked _ _ _ sl).entry]; exact he
    refine ⟨hm.tables hp hd idle hl fun sl hsl k s ha hfd => ?_, ?_, hf.trans (hm.flags hp)⟩
    · have key : sl.fired.getLsbD s = true ∨ s ∈ sites ∧ d.ss.effective sl.entry.minute s ≤ d.minute := by
        rcases dueMark_fired hfd with h | ⟨h1, _, h3⟩
        · rcases behindMark_fired h with h | ⟨h1, _, h3⟩
          · exact .inl h
          · exact .inr ⟨h1, Nat.le_of_lt h3⟩
        · rw [(behindMark_marked _ _ _ sl).entry] at h3
          exact .inr ⟨h1, Nat.le_of_eq h3⟩
      rcases key with h | ⟨hss, he⟩
      · exact .inl h
      · refine .inr fun o hoa hoact hon hom => ?_
        rcases done o s hss hon (Nat.le_trans (effective_mono _ hom s) he) with h | h
        · exact h
        · obtain ⟨_, g, i, hg⟩ := (hl o ((hd.plan p).slot hoa)).passed s h
          rw [(hmk o).entry, hoact] at hg; cases hg
    · intro q1 q2 q3 q hq sl hsl s hn _ he
      rw [hm.move.tb, ht] at hq; cases hq
      rw [hm.slots] at hsl
      obtain ⟨o, ho, rfl⟩ := List.mem_map.1 hsl
      unfold PlanSlot.names at hn
      rw [hm.move.effective, hmin] at he
      rw [(hmk o).entry] at hn he
      by_cases hss : s ∈ sites
      · exact done o s hss hn he
      · exact (hb (by rw [← hm.move.power]; exact q1) (by rw [← hm.move.tb]; exact q2) idle p ht o ho s hn hss he).imp
          ((hmk o).fired s) ((hmk o).passed s)

theorem reassessAll_day {f : Scanner} {d : Device} (hd : DayTables d) (hf : FlagsStand f d.ss) (idle : d.tb.rollover = none) :
    Day f (reassess allSites d) :=
  reassess_day (fun _ => mem_sites) hd hf idle fun _ _ _ _ _ _ _ _ hn hs => absurd (mem_allSites (names_site hn)) hs

/-! ### The clock -/

theorem startRollover_day {f : Scanner} (kind : RolloverKind) {d : Device} (h : DayTables d) (hf : FlagsStand f d.ss) :
    Day f (startRollover kind d) :=
  ⟨h.clock rfl rfl h.dated (.start fun r hr => by cases hr; exact (by decide : 1 < 2)), .rolls rfl, hf⟩
theorem takeWaiting_day {f : Scanner} {d : Device} (h : Day f d) : Day f (takeWaiting d) := h.calm takeWaiting_calm
theorem crossMidnight_day {f : Scanner} (kind : RolloverKind) {d : Device} (h : Day f d) : Day f (crossMidnight kind d) := by
  have early : ∀ {e : Device}, Day f e → Day f { e with tb.second := 0 } := fun he =>
    he.of_view rfl rfl rfl rfl rfl rfl (by show 0 / 60 ≤ _; omega)
  unfold crossMidnight; split
  · split
    · exact (early h).of_view rfl rfl rfl rfl rfl rfl (Nat.le_refl _)
    · have hw := early (takeWaiting_day h)
      exact startRollover_day _ hw.tables hw.flags
  · exact early h
theorem handMinute_day {f : Scanner} {d : Device} (h : DayTables d) (hf : FlagsStand f d.ss)
    (hb : NoneOpen (fun m _ => m < d.minute) d) : Day f (handMinute d) := by
  unfold handMinute
  cases hr : d.tb.rollover with
  | some r => simp only [Device.rolling, hr]; exact ⟨h, .rolls hr, hf⟩
  | none =>
    cases hp : d.mainPower with
    | false => simp only [Device.rolling, hr]; exact ⟨h, .off fun hh => (by simp [hp] at hh), hf⟩
    | true => simp only [Device.rolling, hr]; exact topOfMinute_day h hf hp hr hb
theorem Day.hand {f : Scanner} {d : Device} (h : Day f d) : Day f (handMinute d) :=
  handMinute_day h.tables h.flags (h.behind.mono fun _ _ _ => trivial)
theorem advanceSecond_day {f : Scanner} {d : Device} (h : Day f d) : Day f (advanceSecond d) := by
  unfold advanceSecond; split
  · dsimp only; split
    · rename_i hm
      refine handMinute_day (h.tables.clock rfl rfl h.tables.dated (.of_eq rfl)) h.flags ?_
      intro h1 h2 h3 p h4 sl h5 s h6 h7 _
      refine h.behind h1 h2 h3 p h4 sl h5 s h6 trivial ?_
      unfold Device.minute at h7 ⊢
      have h7 : d.ss.effective sl.entry.minute s < (d.tb.second + 1) / 60 := h7
      have hm : (d.tb.second + 1) % 60 = 0 := hm
      omega
    · rename_i hm
      refine h.of_view rfl rfl rfl rfl rfl rfl ?_
      have hm : ¬ (d.tb.second + 1) % 60 = 0 := hm
      show (d.tb.second + 1) / 60 ≤ d.tb.second / 60
      omega
  · exact (crossMidnight_day _ h).hand
theorem advanceTick_day {f : Scanner} {d : Device} (h : Day f d) : Day f (advanceTick d) := by
  unfold advanceTick; split
  · exact h.of_view rfl rfl rfl rfl rfl rfl (Nat.le_refl _)
  · exact advanceSecond_day (h.of_view rfl rfl rfl rfl rfl rfl (Nat.le_refl _))
theorem slewedAdvance_day {f : Scanner} {d : Device} (h : Day f d) : Day f (slewedAdvance d) := by
  unfold slewedAdvance; split
  · exact advanceTick_day (h.of_view rfl rfl rfl rfl rfl rfl (Nat.le_refl _))
  · dsimp only; split
    · exact h.of_view rfl rfl rfl rfl rfl rfl (Nat.le_refl _)
    · split
      · exact advanceTick_day (advanceTick_day (h.of_view rfl rfl rfl rfl rfl rfl (Nat.le_refl _)))
      · exact advanceTick_day (h.of_view rfl rfl rfl rfl rfl rfl (Nat.le_refl _))
theorem runningTick_day {f : Scanner} {d : Device} (h : Day f d) : Day f (runningTick d) := by
  unfold runningTick; split <;> exact h.of_view rfl rfl rfl rfl rfl rfl (Nat.le_refl _)
theorem oscillatorTick_day {f : Scanner} (sense : ZoneSet) {d : Device} (h : Day f d) : Day f (oscillatorTick sense d) := by
  unfold oscillatorTick; dsimp only
  refine slewedAdvance_day ?_
  split
  · exact runningTick_day (h.of_view rfl rfl rfl rfl rfl rfl (Nat.le_refl _))
  · exact h.of_view rfl rfl rfl rfl rfl rfl (Nat.le_refl _)
theorem setDiscipline_day {f : Scanner} (st : DisciplineState) {d : Device} (h : Day f d) : Day f (setDiscipline st d) := by
  unfold setDiscipline; dsimp only; split <;> exact h.of_view rfl rfl rfl rfl rfl rfl (Nat.le_refl _)
theorem lockRule_day {f : Scanner} (e : Int) {d : Device} (h : Day f d) : Day f (lockRule e d) := by
  unfold lockRule; split
  · split
    · exact h.of_view rfl rfl rfl rfl rfl rfl (Nat.le_refl _)
    · exact setDiscipline_day _ h
  · split
    · split
      · exact h.of_view rfl rfl rfl rfl rfl rfl (Nat.le_refl _)
      · exact setDiscipline_day _ h
    · exact h.of_view rfl rfl rfl rfl rfl rfl (Nat.le_refl _)
theorem jumpNotice_day {f : Scanner} (old : Nat) {d : Device} (h : DayTables d) (hf : FlagsStand f d.ss) (idle : d.tb.rollover = none)
    (hb : d.minute ≤ old → NoneOpen (fun _ _ => True) d) : Day f (jumpNotice old d) := by
  unfold jumpNotice; split
  · exact reassessAll_day h hf idle
  · rename_i hl; exact ⟨h, hb (by omega), hf⟩
/-- The clock is set within its day, with the jump notice that follows (R4). -/
theorem Day.jump {f : Scanner} {d e : Device} (h : Day f d) (ha : e.ae = d.ae) (hs : e.ss = d.ss)
    (hp : e.mainPower = d.mainPower) (hv : e.tb.validity = d.tb.validity) (ht : e.tb.today = d.tb.today)
    (hr : e.tb.rollover = d.tb.rollover) (idle : d.tb.rollover = none) : Day f (jumpNotice d.minute e) :=
  jumpNotice_day _ (h.tables.clock ha hs (by rw [ht]; exact h.tables.dated) (.of_eq hr)) (by rw [hs]; exact h.flags) (hr.trans idle)
    fun hm => h.behind.of_view hs (fun hh => hp ▸ hh) hv ht hr hm
theorem stepClock_day {f : Scanner} (e : Int) {d : Device} (h : Day f d) : Day f (stepClock e d) := by
  unfold stepClock; dsimp only; split
  · split
    · rename_i hr
      obtain ⟨r, hr⟩ := Option.isSome_iff_exists.1 hr
      exact h.rolls rfl rfl rfl hr (.of_eq rfl)
    · rename_i hr
      exact Day.hand (h.jump rfl rfl rfl rfl rfl rfl (by simpa [Device.rolling] using hr))
  · exact crossMidnight_day _ (h.of_view rfl rfl rfl rfl rfl rfl (Nat.le_refl _))
theorem masterMark_day {f : Scanner} {d : Device} (h : Day f d) : Day f (masterMark d) := by
  unfold masterMark; split
  · unfold takeMasterMark; dsimp only
    generalize d.tb.markError = e
    have hl := lockRule_day e (h.of_view (e := { d with
      tb.lastError := some e, tb.markSilence := some 0, tb.markSeen := true, tb.slewPhase := 0 }) rfl rfl rfl rfl rfl rfl (Nat.le_refl _))
    unfold correct; split
    · exact hl.of_view rfl rfl rfl rfl rfl rfl (Nat.le_refl _)
    · split
      · exact hl.of_view rfl rfl rfl rfl rfl rfl (Nat.le_refl _)
      · split
        · exact stepClock_day _ hl
        · exact hl.of_view rfl rfl rfl rfl rfl rfl (Nat.le_refl _)
  · exact h
theorem markSilenceExpired_day {f : Scanner} {d : Device} (h : Day f d) : Day f (markSilenceExpired d) := by
  unfold markSilenceExpired; split
  · exact h
  · exact setDiscipline_day _ (h.of_view rfl rfl rfl rfl rfl rfl (Nat.le_refl _))
theorem setValidity_tables (v : Validity) {d : Device} (h : DayTables d) :
    DayTables (setValidity v d) ∧ (setValidity v d).ss = d.ss := by
  have hf : (setValidity v d).ae = d.ae ∧ (setValidity v d).ss = d.ss := by
    unfold setValidity; split
    · exact ⟨rfl, rfl⟩
    · rw [settling_frame]; exact ⟨rfl, rfl⟩
  exact ⟨h.clock hf.1 hf.2 (by rw [setValidity_tb]; exact h.dated) (.of_eq (by rw [setValidity_tb])), hf.2⟩
theorem takeSetTime_day {f : Scanner} (day second tick : Nat) {d : Device} (h : Day f d) (idle : d.tb.rollover = none) :
    Day f (takeSetTime day second tick d) := by
  have hw := takeWaiting_day h
  have hc : DayTables (clockSet second tick (takeWaiting d)) := hw.tables.clock rfl rfl hw.tables.dated (.of_eq rfl)
  have hf : FlagsStand f (clockSet second tick (takeWaiting d)).ss := hw.flags
  unfold takeSetTime; split
  · obtain ⟨h1, h2⟩ := setValidity_tables .valid hc
    exact startRollover_day _ h1 (by rw [h2]; exact hf)
  · split
    · exact startRollover_day _ hc hf
    · exact h.jump rfl rfl rfl rfl rfl rfl idle

/-! ### The scanner's requests -/

theorem putSite_tables {d : Device} (h : DayTables d) (site : Nat) (v : SiteSettings) : DayTables (d.putSite site v) :=
  ⟨h.plans, h.ae.mono (fun _ _ _ hk => hk) fun _ _ hk => hk, h.dated⟩
theorem site_put (site : Nat) (v : SiteSettings) (d : Device) (s : Nat) :
    (d.putSite site v).ss.site s = d.ss.site s ∨ s = site ∧ (d.putSite site v).ss.site s = v := by
  unfold Device.putSite Scanner.site
  simp only [List.getD_eq_getElem?_getD, List.getElem?_set]
  split
  · rename_i hs
    split
    · exact .inr ⟨hs.symm, rfl⟩
    · rename_i hl
      exact .inl (by rw [← hs, List.getElem?_eq_none (by omega)])
  · exact .inl rfl
theorem putSite_open {P : Nat → Nat → Prop} {d : Device} (h : NoneOpen P d) (site : Nat) (v : SiteSettings)
    (he : ∀ m s, P ((d.putSite site v).ss.effective m s) s →
      (d.putSite site v).ss.effective m s = d.ss.effective m s ∧ P (d.ss.effective m s) s) : NoneOpen P (d.putSite site v) := by
  intro h1 h2 h3 p h4 sl h5 s h6 h7 h8
  obtain ⟨e1, e2⟩ := he _ _ h7
  rw [e1] at h8
  exact h h1 h2 h3 p h4 sl h5 s h6 e2 h8
theorem effective_of_site {a b : Scanner} {s : Nat} (ho : (b.site s).offset = (a.site s).offset)
    (hs : (b.site s).shift = (a.site s).shift) (m : Nat) : b.effective m s = a.effective m s := by
  unfold Scanner.effective; rw [ho, hs]
theorem reassessSite_day {f : Scanner} {d : Device} (h : Day f d) (site : Nat) (v : SiteSettings) (hs : site < 3)
    (idle : d.tb.rollover = none) : Day f (reassess [site] (d.putSite site v)) := by
  refine reassess_day (fun s hm => by rw [List.mem_singleton.1 hm]; exact hs) (putSite_tables h.tables _ _)
    (h.flags.trans (.of_plans rfl)) idle (putSite_open (h.behind.mono fun _ _ _ => trivial) _ _ fun m s hn => ?_)
  rcases site_put site v d s with he | ⟨he, _⟩
  · exact ⟨effective_of_site (by rw [he]) (by rw [he]) m, hn⟩
  · exact absurd (by rw [he]; exact List.mem_singleton_self _) hn
/-- A site's settings written with the offset and the shift it has. -/
theorem putSite_day {f : Scanner} {d : Device} (h : Day f d) (site : Nat) (v : SiteSettings) (ho : v.offset = (d.ss.site site).offset)
    (hs : v.shift = (d.ss.site site).shift) : Day f (d.putSite site v) := by
  refine ⟨putSite_tables h.tables _ _, putSite_open h.behind _ _ fun m s _ => ⟨?_, trivial⟩, h.flags.trans (.of_plans rfl)⟩
  rcases site_put site v d s with he | ⟨he, hv⟩
  · exact effective_of_site (by rw [he]) (by rw [he]) m
  · subst he; exact effective_of_site (by rw [hv, ho]) (by rw [hv, hs]) m

/-- While no REG_START has fired, no REG_CLOSE has (R24, R33). -/
theorem noneClosed {d : Device} (h : DayTables d) (hs : allSites.any d.ss.regStarted = false) (k s : Nat) : ¬ CloseFired d.ss k s := by
  rintro ⟨p, hp, sl, hsl, ha, hf⟩
  obtain ⟨o, ho, hoa, hof⟩ := (h.plans p hp).opened sl hsl k s ha hf
  have hn := names_site (((h.plans p hp).fired o ho s hof).1)
  have : d.ss.regStarted s = true := by
    unfold Scanner.regStarted
    refine List.any_eq_true.2 ⟨p, hp, List.any_eq_true.2 ⟨o, ho, ?_⟩⟩
    rw [hoa, hof]; rfl
  have := List.any_eq_true.2 ⟨s, mem_allSites hn, this⟩
  rw [hs] at this; cases this
/-- With none closed, no entry is absent. -/
theorem EntryLawful.notAbsent {closed : Nat → Nat → Prop} (hn : ∀ k s, ¬ closed k s) {e : RosterEntry} (h : EntryLawful closed e) :
    e.state ≠ .provisional ∧ e.state ≠ .unexplained := by
  constructor
  · intro hs; obtain ⟨_, q, _, hq⟩ := h.absent (.inl hs); exact hn _ _ hq
  · intro hs; obtain ⟨_, q, _, hq⟩ := h.absent (.inr hs); exact hn _ _ hq
/-- An entry that stays OUT. -/
theorem outside {closed : Nat → Nat → Prop} {e : RosterEntry} (hs : e.state = .out)
    (hp : ∀ st, e.prior = some st → st = .present ∨ st = .late ∨ st = .notDue) : EntryLawful closed e :=
  ⟨hp, fun hh => (by rw [hs] at hh; cases hh), fun hh => by rw [hs] at hh; rcases hh with hh | hh <;> cases hh⟩
theorem toClosedDay_lawful {closed : Nat → Nat → Prop} (hn : ∀ k s, ¬ closed k s) {e : RosterEntry} (h : EntryLawful closed e) :
    e.toClosedDay.roll = e.roll ∧ EntryLawful closed e.toClosedDay := by
  have ha := h.notAbsent hn
  unfold RosterEntry.toClosedDay; split
  · exact ⟨rfl, h.moved rfl ⟨nofun, nofun, nofun⟩⟩
  · exact ⟨rfl, h.moved rfl ⟨nofun, nofun, nofun⟩⟩
  · exact ⟨rfl, h.moved rfl ⟨nofun, nofun, nofun⟩⟩
  · exact ⟨rfl, h.moved rfl ⟨nofun, nofun, nofun⟩⟩
  · rename_i hs
    exact ⟨rfl, outside hs (by simp)⟩
  · rename_i hs; exact ⟨rfl, h.moved rfl (by show e.state.settled; rw [hs]; exact ⟨nofun, nofun, nofun⟩)⟩
  · rename_i hs; exact absurd hs ha.1
  · rename_i hs; exact absurd hs ha.2
  · rename_i hs; exact ⟨rfl, h.moved rfl (by show e.state.settled; rw [hs]; exact ⟨nofun, nofun, nofun⟩)⟩
theorem toSchoolDay_lawful {closed : Nat → Nat → Prop} (hn : ∀ k s, ¬ closed k s) (q : DuePoint) {e : RosterEntry}
    (h : EntryLawful closed e) : (e.toSchoolDay q).roll = e.roll ∧ EntryLawful closed (e.toSchoolDay q) := by
  have ha := h.notAbsent hn
  have stays : ∀ {g : RosterEntry}, g.prior = e.prior → g.state = e.state → e.state.settled → EntryLawful closed g :=
    fun hp hs he => h.moved hp (by rw [hs]; exact he)
  unfold RosterEntry.toSchoolDay; split
  · split
    · rename_i hs _ hv
      exact ⟨rfl, h.prior, fun _ => hv, fun hh => by rcases hh with hh | hh <;> cases hh⟩
    · exact ⟨rfl, h.moved rfl ⟨nofun, nofun, nofun⟩⟩
  · rename_i hs
    exact ⟨rfl, outside hs (by simp)⟩
  · rename_i hs
    exact ⟨rfl, h.prior, h.expected, fun hh => by rw [hs] at hh; rcases hh with hh | hh <;> cases hh⟩
  · rename_i hs; exact ⟨rfl, stays rfl rfl (by rw [hs]; exact ⟨nofun, nofun, nofun⟩)⟩
  · rename_i hs; exact ⟨rfl, stays rfl rfl (by rw [hs]; exact ⟨nofun, nofun, nofun⟩)⟩
  · rename_i hs; exact ⟨rfl, stays rfl rfl (by rw [hs]; exact ⟨nofun, nofun, nofun⟩)⟩
  · rename_i hs; exact absurd hs ha.1
  · rename_i hs; exact absurd hs ha.2
  · rename_i hs; exact ⟨rfl, stays rfl rfl (by rw [hs]; exact ⟨nofun, nofun, nofun⟩)⟩
theorem changeDayKind_ok {F : DayFrame} (hn : ∀ k s, ¬ F.closed k s) (toClosed : Bool) {d : Device} (h : Calm F d) :
    Calm F (changeDayKind toClosed d) := by
  unfold changeDayKind; split
  · exact onAe_calm h (h.ae.rosterMap _ fun e he =>
      ⟨(toClosedDay_lawful hn (h.ae.entries e he)).1, fun hl => (toClosedDay_lawful hn hl).2⟩)
  · refine onAe_calm h (AeOk.applyAbsences _ (h.ae.rosterMap _ fun e he => ?_))
    unfold Attendance.openedEntry; split
    · split
      · exact ⟨rfl, id⟩
      · exact ⟨(toSchoolDay_lawful hn _ (h.ae.entries e he)).1, fun hl => (toSchoolDay_lawful hn _ hl).2⟩
    · exact ⟨rfl, id⟩
theorem selectPlan_day {f : Scanner} {c : DayPlanChoice} (hc : ∀ p, c = .plan p → 1 ≤ p) {d : Device} (h : Day f d)
    (idle : d.tb.rollover = none) (hs : allSites.any d.ss.regStarted = false) : Day f (selectPlan c d) := by
  have h1 : DayTables { d with tb.today := c } := h.tables.clock rfl rfl hc (.of_eq rfl)
  unfold selectPlan; dsimp only; split
  · exact reassessAll_day h1 h.flags idle
  · obtain ⟨t, e1, e2, _⟩ := h1.calm (e := changeDayKind (c == .closed) { d with tb.today := c })
      (changeDayKind_ok (F := frameOf d.mainPower { d.tb with today := c } d.ss) (fun k s hk => noneClosed h.tables hs k s hk.1) _)
    exact reassessAll_day t (by rw [e1]; exact h.flags) (by rw [e2]; exact idle)

/-- A loaded list's closes follow its starts, in plan order too (R24, R25). -/
theorem closesFollow_loaded {l : List PlanEntry} (h : l.any (closesEarly l) = false) : ClosesFollow (inPlanOrder l) := by
  have hm : ∀ e, e ∈ inPlanOrder l ↔ e ∈ l := fun e => (sortBy_perm planBefore l).mem_iff
  intro e he k s ha hs
  have hc : closesEarly l e = false := by
    have := List.any_eq_false.1 h e ((hm e).1 he)
    simpa using this
  unfold closesEarly at hc
  rw [ha] at hc
  have hs3 : s < 3 := by
    by_contra hh
    rw [BitVec.getLsbD_of_ge _ _ (by omega)] at hs; cases hs
  have hc := List.any_eq_false.1 hc s (mem_allSites hs3)
  simp only [hs, Bool.true_and, Bool.not_eq_true, Bool.not_eq_false'] at hc
  obtain ⟨o, ho, hp⟩ := List.any_eq_true.1 hc
  simp only [Bool.and_eq_true, beq_iff_eq, decide_eq_true_eq] at hp
  exact ⟨o, (hm o).2 ho, hp.1.1, hp.1.2, hp.2⟩

/-- A plan's standing: its flags are all clear while it is not in use (R26). -/
theorem notInUse {p : Nat} {d : Device} (h : d.planInUse p = false) :
    d.tb.today ≠ .plan p ∧ ∀ sl ∈ (d.ss.plan p).active, sl.fired = 0 ∧ sl.passed = 0 := by
  simp only [Device.planInUse, Bool.or_eq_false_iff, beq_eq_false_iff_ne] at h
  refine ⟨h.1, fun sl hsl => ?_⟩
  have := List.any_eq_false.1 h.2 sl hsl
  simpa using this

theorem loadPlan_day {f : Scanner} {n : Nat} (hn : 1 ≤ n) {l : List PlanEntry} (hl : l.any (closesEarly l) = false) {d : Device}
    (h : Day f d) :
    Day f { d with ss.plans := setNth d.ss.plans n ((d.ss.plan n).loaded (d.planInUse n) (inPlanOrder l)) } := by
  have hlaw : PlanLawful ((d.ss.plan n).loaded (d.planInUse n) (inPlanOrder l)) := by
    have hp := h.tables.plan n
    have hc := closesFollow_loaded hl
    unfold DayPlan.loaded; split
    · exact ⟨hp.fired, hp.passed, ⟨hp.closes.1, hc⟩, hp.opened⟩
    · have clear : ∀ sl ∈ (inPlanOrder l).map (fun e => (⟨e, 0, 0⟩ : PlanSlot)), sl.fired = 0 ∧ sl.passed = 0 := fun sl hsl => by
        obtain ⟨e, _, rfl⟩ := List.mem_map.1 hsl; exact ⟨rfl, rfl⟩
      refine ⟨fun sl hsl s hs => ?_, fun sl hsl s hs => ?_, ⟨?_, hc⟩, fun sl hsl k s _ hs => ?_⟩
      · rw [(clear sl hsl).1] at hs; simp at hs
      · rw [(clear sl hsl).2] at hs; simp at hs
      · show ClosesFollow (((inPlanOrder l).map fun e => (⟨e, 0, 0⟩ : PlanSlot)).map (·.entry))
        rw [List.map_map]
        have : (PlanSlot.entry ∘ fun e => (⟨e, 0, 0⟩ : PlanSlot)) = id := rfl
        rw [this, List.map_id]; exact hc
      · rw [(clear sl hsl).1] at hs; simp at hs
  have hact : d.planInUse n = true → ((d.ss.plan n).loaded (d.planInUse n) (inPlanOrder l)).active = (d.ss.plan n).active := by
    intro hu; rw [hu]; rfl
  generalize (d.ss.plan n).loaded (d.planInUse n) (inPlanOrder l) = np at hlaw hact
  rcases Nat.lt_or_ge d.ss.plans.length n with hlen | hlen
  · have hss : setNth d.ss.plans n np = d.ss.plans := by
      unfold setNth; split
      · rfl
      · exact List.set_eq_of_length_le (by omega)
    rw [hss]; exact h
  have same : ({ d.ss with plans := setNth d.ss.plans n np } : Scanner).plan n = np := nth_setNth_same _ _ _ _ hn hlen
  have other : ∀ q, 1 ≤ q → n ≠ q → ({ d.ss with plans := setNth d.ss.plans n np } : Scanner).plan q = d.ss.plan q :=
    fun q hq hne => nth_setNth_other _ _ _ _ _ hn hq hne
  have hclosed : ∀ k s, CloseFired d.ss k s → CloseFired { d.ss with plans := setNth d.ss.plans n np } k s := by
    rintro k s ⟨q, hq, sl, hsl, ha, hf⟩
    rcases mem_of_setNth hn (a := np) ⟨[], [], false⟩ hq with hm | ⟨hm, hnew⟩
    · exact ⟨q, hm, sl, hsl, ha, hf⟩
    · have hm : q = d.ss.plan n := hm
      subst hm
      cases hu : d.planInUse n with
      | true => exact ⟨np, hnew, sl, by rw [hact hu]; exact hsl, ha, hf⟩
      | false => rw [((notInUse hu).2 sl hsl).1] at hf; simp at hf
  refine ⟨⟨fun q hq => ?_, ?_, h.tables.dated⟩, ?_, h.flags.trans ?_⟩
  · rcases mem_setNth hq with hq | rfl
    · exact h.tables.plans q hq
    · exact hlaw
  · exact h.tables.ae.mono (fun _ _ _ hk => ⟨hk.1, fun hh => hclosed _ _ (hk.2 hh)⟩) fun _ _ hk => ⟨hclosed _ _ hk.1, hk.2⟩
  · intro h1 h2 h3 p h4 sl h5 s h6 _ h8
    have h4 : d.tb.today = .plan p := h4
    refine h.behind h1 h2 h3 p h4 sl ?_ s h6 trivial h8
    by_cases hp : n = p
    · subst hp
      rw [same] at h5
      have hu : d.planInUse n = true := by simp [Device.planInUse, h4]
      rw [hact hu] at h5; exact h5
    · rw [other p (h.tables.dated p h4) hp] at h5; exact h5
  · intro p i sl hp hi hfl
    by_cases hpn : n = p
    · subst hpn
      cases hu : d.planInUse n with
      | true => exact ⟨sl, by rw [same, hact hu]; exact hi, rfl, fun _ => ⟨id, id⟩⟩
      | false =>
        have := (notInUse hu).2 sl (List.mem_of_getElem? hi)
        rw [this.1, this.2] at hfl
        rcases hfl with hfl | hfl <;> exact absurd rfl hfl
    · exact ⟨sl, by rw [other p hp hpn]; exact hi, rfl, fun _ => ⟨id, id⟩⟩

/-! ### The rollover -/

theorem toStep_day {f : Scanner} {n : Nat} {r : Rollover} {d : Device} (h : Day f d) (hr : d.tb.rollover = some r)
    (hn : 2 ≤ r.step ∧ (4 ≤ r.step ∨ n < 4)) : Day f (toStep n r d) :=
  h.rolls rfl rfl rfl rfl (.on hr fun q hq => by cases hq; exact .inr hn)
theorem cursorOn_day {f : Scanner} {r : Rollover} {d : Device} (h : Day f d) (hr : d.tb.rollover = some r) : Day f (cursorOn r d) :=
  h.rolls rfl rfl rfl rfl (.on hr fun q hq => by cases hq; exact .inl rfl)
theorem walkOn_day {f : Scanner} (size : Nat) {n : Nat} {r : Rollover} {d : Device} (h : Day f d) (hr : d.tb.rollover = some r)
    (hn : 2 ≤ r.step ∧ (4 ≤ r.step ∨ n < 4)) : Day f (walkOn size n r d) := by
  unfold walkOn; split
  · exact cursorOn_day h hr
  · exact toStep_day h hr hn

/-- From step 4 on nothing is swept and nobody absent: the plans may change. -/
theorem DayTables.late {d e : Device} {r : Rollover} (h : DayTables d) (hr : d.tb.rollover = some r) (h4 : 4 ≤ r.step) (ha : e.ae = d.ae)
    (hp : ∀ p ∈ e.ss.plans, PlanLawful p) (ht : e.tb.today = d.tb.today) : DayTables e := by
  refine ⟨hp, ?_, by rw [ht]; exact h.dated⟩
  rw [ha]
  exact h.ae.mono (fun _ _ _ hk => by have := hk.1 r hr; omega) fun _ _ hk => by have := hk.2 r hr; omega
theorem Day.late {d e : Device} {r q : Rollover} (h : DayTables d) (hr : d.tb.rollover = some r) (h4 : 4 ≤ r.step) (ha : e.ae = d.ae)
    (hp : ∀ p ∈ e.ss.plans, PlanLawful p) (ht : e.tb.today = d.tb.today) (hq : e.tb.rollover = some q) : Day e.ss e :=
  ⟨h.late hr h4 ha hp ht, .rolls hq, .refl _⟩

theorem clear_flags {l : List PlanEntry} {sl : PlanSlot} (h : sl ∈ l.map PlanEntry.clear) : sl.fired = 0 ∧ sl.passed = 0 := by
  obtain ⟨e, _, rfl⟩ := List.mem_map.1 h; exact ⟨rfl, rfl⟩
theorem clear_entries (l : List PlanEntry) : (l.map PlanEntry.clear).map (·.entry) = l := by
  rw [List.map_map]
  have : (PlanSlot.entry ∘ PlanEntry.clear) = id := rfl
  rw [this, List.map_id]
/-- A plan with its flags clear. -/
theorem clear_lawful {l : List PlanEntry} {st : List PlanEntry} {b : Bool} (hl : ClosesFollow l) (hs : ClosesFollow st) :
    PlanLawful ⟨l.map PlanEntry.clear, st, b⟩ := by
  refine ⟨fun sl hsl s h => ?_, fun sl hsl s h => ?_, ⟨by rw [clear_entries]; exact hl, hs⟩, fun sl hsl k s _ h => ?_⟩
  · rw [(clear_flags hsl).1] at h; simp at h
  · rw [(clear_flags hsl).2] at h; simp at h
  · rw [(clear_flags hsl).1] at h; simp at h
theorem promoted_lawful {p : DayPlan} (h : PlanLawful p) : PlanLawful p.promoted := by
  unfold DayPlan.promoted; split
  · exact clear_lawful h.closes.2 h.closes.2
  · exact h
theorem cleared_lawful {p : DayPlan} (h : PlanLawful p) : PlanLawful p.cleared := by
  unfold DayPlan.cleared
  have : (p.active.map fun sl => sl.entry.clear) = (p.active.map (·.entry)).map PlanEntry.clear := by rw [List.map_map]; rfl
  rw [this]; exact clear_lawful h.closes.1 h.closes.2
theorem mem_modify {α : Type} {l : List α} {i : Nat} {g : α → α} {x : α} (h : x ∈ l.modify i g) : x ∈ l ∨ ∃ y ∈ l, x = g y := by
  obtain ⟨j, hj⟩ := List.mem_iff_getElem?.1 h
  rw [List.getElem?_modify] at hj
  obtain ⟨y, hy, rfl⟩ := Option.map_eq_some_iff.1 hj
  have hm := List.mem_of_getElem? hy
  split
  · exact .inr ⟨y, hm, rfl⟩
  · exact .inl hm

theorem step2_day {f : Scanner} {r : Rollover} {d : Device} (h : Day f d) (hr : d.tb.rollover = some r) (hs : r.step = 2) :
    Day f (step2 r d) := by
  unfold step2 rollOn; split
  · refine walkOn_day _ (h.calm fun hc => onAe_calm hc ?_) hr (by omega)
    unfold countUnexplained; split
    · exact hc.ae
    · split
      · exact hc.ae.onPupil _ _ fun p hp _ => ⟨rfl, rfl, rfl, (hc.ae.tallies p hp).1, (hc.ae.tallies p hp).2.1, Nat.min_le_left _ _⟩
      · exact hc.ae
  · exact toStep_day h hr (by omega)
theorem setValidity_ae (v : Validity) (d : Device) : (setValidity v d).ae = d.ae := by
  unfold setValidity; split
  · rfl
  · rw [settling_frame]; rfl
theorem setDiscipline_ae (st : DisciplineState) (d : Device) : (setDiscipline st d).ae = d.ae ∧ (setDiscipline st d).ss = d.ss := by
  unfold setDiscipline; dsimp only; split <;> exact ⟨rfl, rfl⟩
theorem step4_day {f : Scanner} {r : Rollover} {d : Device} (h : Day f d) (hr : d.tb.rollover = some r) (hs : r.step = 4) :
    Day f (step4 r d) := by
  have on : StepsFall d.tb (step4 r d).tb := .on hr fun q hq => .inr ⟨by omega, .inl (by omega)⟩
  unfold step4 at on ⊢; split
  · rename_i hl
    rw [if_pos hl] at on
    have hae : (calendarEnd r d).ae = d.ae := (setValidity_ae .invalid (setDiscipline .unlocked d)).trans (setDiscipline_ae .unlocked d).1
    have hss : (calendarEnd r d).ss = d.ss := by
      have h1 := (setDiscipline_day (f := f) .unlocked h).tables
      exact (setValidity_tables .invalid h1).2.trans (setDiscipline_ae .unlocked d).2
    exact ⟨h.tables.clock hae hss (by nofun) on, .rolls rfl, by rw [hss]; exact h.flags⟩
  · rename_i hl
    rw [if_neg hl] at on
    exact h.rolls rfl rfl rfl rfl on
theorem step5_day {f : Scanner} {r : Rollover} {d : Device} (hc : Clock d) (h : Day f d) (hr : d.tb.rollover = some r)
    (hs : r.step = 5) : Day f (step5 r d) := by
  unfold step5; split
  · unfold removeException; split
    · exact h.of_view rfl rfl rfl rfl rfl rfl (Nat.le_refl _)
    · exact toStep_day h hr (by omega)
  · rename_i date _
    split
    · have hd := (takeDate_clock date hc hr).calendar.today
      refine ⟨h.tables.clock rfl rfl (fun p hp => ?_) (.on hr fun q hq => ?_), .rolls rfl, h.flags⟩
      · rw [hp] at hd; exact hd.1
      · cases hq; exact .inl rfl
    · refine cursorOn_day (h.calm fun hk => onAe_calm hk (hk.ae.onPupil _ _ fun p hp _ => ?_)) hr
      exact ⟨rfl, rfl, rfl, Nat.zero_le _, Nat.zero_le _, (hk.ae.tallies p hp).2.2⟩
theorem step9_day {f : Scanner} {r : Rollover} {d : Device} (h : Day f d) (hr : d.tb.rollover = some r) (hs : r.step = 9) :
    Day f (step9 r d) := by
  unfold step9; split
  · exact toStep_day h hr (by omega)
  · split
    · exact h.calm fun hc => onAe_calm hc (hc.ae.of_view rfl rfl rfl rfl)
    · exact cursorOn_day (h.calm fun hc => onAe_calm hc (hc.ae.of_view rfl rfl rfl rfl)) hr
theorem step10_day {f : Scanner} {r : Rollover} {d : Device} (h : Day f d) (hr : d.tb.rollover = some r) (hs : r.step = 10) :
    Day f (step10 r d) := by
  unfold step10; split
  · split
    · exact h.calm (leaveQueue_calm _)
    · exact cursorOn_day h hr
  · split
    · exact toStep_day h hr (by omega)
    · exact toStep_day (h.of_view rfl rfl rfl rfl rfl rfl (Nat.le_refl _)) hr (by omega)
theorem step11_day {f : Scanner} {r : Rollover} {d : Device} (h : Day f d) (hr : d.tb.rollover = some r) (hs : r.step = 11) :
    Day f (step11 r d) := by
  unfold step11; split
  · exact toStep_day h hr (by omega)
  · exact toStep_day (h.of_view rfl rfl rfl rfl rfl rfl (Nat.le_refl _)) hr (by omega)
theorem step12_day {f : Scanner} {r : Rollover} {d : Device} (hu : PupilsHeldOnce d) (h : Day f d) (hr : d.tb.rollover = some r)
    (hs : r.step = 12) : Day f (step12 r d) := by
  have built : ∀ e : Device, e.tb = d.tb → Day f e → r.cursor ∉ (e.ae.roster.getD []).map (·.roll) →
      Day f (rollOn 13 r (if r.cursor < Config.maxRoll then e.onAe (buildAt d.schoolDay d.tb.cycleDay r.cursor)
        else (e.onAe (buildAt d.schoolDay d.tb.cycleDay r.cursor)).onAe (applyAbsences d.tb.date))) := by
    intro e ht he hn
    have hb : Day f (e.onAe (buildAt d.schoolDay d.tb.cycleDay r.cursor)) := he.calm fun hc => onAe_calm hc (hc.ae.buildAt _ _ _ hn)
    refine walkOn_day _ ?_ ?_ (by omega)
    · split
      · exact hb
      · exact hb.calm fun hc => onAe_calm hc (hc.ae.applyAbsences _)
    · split <;> exact ht ▸ hr
  unfold step12; dsimp only
  by_cases hcur : r.cursor = 1
  · rw [if_pos hcur]
    refine built _ rfl (h.calm fun hc => onAe_calm hc ?_) (by show r.cursor ∉ []; simp)
    obtain ⟨s, _, _, ⟨l1, l2, l3, l4, l5, l6⟩, t, u⟩ := hc.ae
    exact ⟨s, by simp, by simp, ⟨l1, l2, l3, l4, l5, l6⟩, t, u⟩
  · rw [if_neg hcur]
    exact built d rfl h fun hm => Nat.lt_irrefl _ (hu.built r hr hs hcur _ hm)
theorem releaseHeld_day {f : Scanner} {d : Device} (h : Day f d) : Day f (releaseHeld d) := by
  have hh := foldl_inv (Day f) (fun acc (m : HeldMessage) => takeContent m.content acc) (fun d m hd => hd.calm (takeContent_calm _))
    d.rl.rolloverHold { d with rl.rolloverHold := [] } (h.of_view rfl rfl rfl rfl rfl rfl (Nat.le_refl _))
  unfold releaseHeld; dsimp only; split
  · exact hh
  · exact hh.of_view rfl rfl rfl rfl rfl rfl (Nat.le_refl _)
theorem step13_day {f : Scanner} (r : Rollover) {d : Device} (h : Day f d) : Day f (step13 r d) := by
  have hd : DayTables (Device.raise .day { d with tb.missed := d.tb.missed - r.taken, tb.rollover := none }) :=
    h.tables.clock rfl rfl h.tables.dated fun _ _ _ _ hq => by cases hq
  unfold step13; dsimp only; split
  · exact startRollover_day _ hd h.flags
  · exact releaseHeld_day (reassessAll_day hd h.flags rfl)
/-- A step of a rollover; steps 7 and 8 take flags away (R16, R26). -/
theorem rolloverStep_day {f : Scanner} {d : Device} (hc : Clock d) (hu : PupilsHeldOnce d) (h : Day f d) :
    (∃ g, Day g (rolloverStep d)) ∧ ((∀ r, d.tb.rollover = some r → r.step ≠ 7 ∧ r.step ≠ 8) → Day f (rolloverStep d)) := by
  have both : ∀ {e : Device}, rolloverStep d = e → Day f e → (∃ g, Day g (rolloverStep d)) ∧
      ((∀ r, d.tb.rollover = some r → r.step ≠ 7 ∧ r.step ≠ 8) → Day f (rolloverStep d)) := by
    rintro e rfl hd; exact ⟨⟨f, hd⟩, fun _ => hd⟩
  rcases Option.eq_none_or_eq_some d.tb.rollover with hr | ⟨r, hr⟩
  · exact both (by unfold rolloverStep; rw [hr]) h
  have h13 := hc.step r hr
  have hstep : r.step = 1 ∨ r.step = 2 ∨ r.step = 3 ∨ r.step = 4 ∨ r.step = 5 ∨ r.step = 6 ∨ r.step = 7 ∨ r.step = 8 ∨ r.step = 9 ∨
      r.step = 10 ∨ r.step = 11 ∨ r.step = 12 ∨ r.step = 13 := by omega
  obtain ⟨s, e, o, ⟨l1, l2, l3, l4, l5, l6⟩, t, u⟩ := h.tables.ae
  rcases hstep with hs | hs | hs | hs | hs | hs | hs | hs | hs | hs | hs | hs | hs
  · refine both (e := toStep 2 r (d.onAe fun ae => { ae with sweeps := [] })) (by unfold rolloverStep; simp only [hr, hs])
      ⟨⟨h.tables.plans, ?_, h.tables.dated⟩, .rolls rfl, h.flags⟩
    exact ⟨fun w hw => (by cases hw), fun x hx => (e x hx).mono fun _ _ hk => ⟨hk.1, fun q hq => by cases hq; exact (by decide : 2 < 4)⟩,
      o, ⟨l1, l2, l3, l4, l5, l6⟩, t, u⟩
  · exact both (by unfold rolloverStep; simp only [hr, hs]) (step2_day h hr hs)
  · refine both (e := toStep 4 r (d.onAe fun ae => { ae with roster := none, latch := none }))
      (by unfold rolloverStep; simp only [hr, hs]) ⟨⟨h.tables.plans, ?_, h.tables.dated⟩, .rolls rfl, h.flags⟩
    exact ⟨fun w hw => (by have := (s w hw).1 r hr; omega), fun x hx => (by cases hx), by simp [Device.onAe, toStep],
      ⟨l1, l2, l3, l4, l5, l6⟩, t, u⟩
  · exact both (by unfold rolloverStep; simp only [hr, hs]) (step4_day h hr hs)
  · exact both (by unfold rolloverStep; simp only [hr, hs]) (step5_day hc h hr hs)
  · exact both (e := toStep 7 r { d with tb.cycleDay := r.nextCycle }) (by unfold rolloverStep; simp only [hr, hs])
      (toStep_day (h.of_view rfl rfl rfl rfl rfl rfl (Nat.le_refl _)) hr (by omega))
  · refine ⟨?_, fun hn => absurd hs (hn r hr).1⟩
    have he : rolloverStep d = step7 r d := by unfold rolloverStep; simp only [hr, hs]
    rw [he]
    have hp : ∀ p ∈ d.ss.plans.modify (r.cursor - 1) DayPlan.promoted, PlanLawful p := fun p hp => by
      rcases mem_modify hp with hp | ⟨q, hq, rfl⟩
      · exact h.tables.plans p hp
      · exact promoted_lawful (h.tables.plans q hq)
    unfold step7 walkOn; split
    · exact ⟨_, Day.late h.tables hr (by omega) rfl hp rfl rfl⟩
    · exact ⟨_, Day.late h.tables hr (by omega) rfl hp rfl rfl⟩
  · refine ⟨?_, fun hn => absurd hs (hn r hr).2⟩
    have he : rolloverStep d = toStep 9 r { d with ss := d.ss.dayCleared } := by unfold rolloverStep; simp only [hr, hs]
    rw [he]
    refine ⟨_, Day.late h.tables hr (by omega) rfl (fun p hp => ?_) rfl rfl⟩
    obtain ⟨q, hq, rfl⟩ := List.mem_map.1 hp
    exact cleared_lawful (h.tables.plans q hq)
  · exact both (by unfold rolloverStep; simp only [hr, hs]) (step9_day h hr hs)
  · exact both (by unfold rolloverStep; simp only [hr, hs]) (step10_day h hr hs)
  · exact both (by unfold rolloverStep; simp only [hr, hs]) (step11_day h hr hs)
  · exact both (by unfold rolloverStep; simp only [hr, hs]) (step12_day hu h hr hs)
  · exact both (e := step13 r d) (by unfold rolloverStep; simp only [hr, hs])
      (step13_day r h)

/-! ### Reset and power -/

theorem blocksWarm_tables {d : Device} (h : DayTables d) : DayTables (blocksWarm d) ∧ (blocksWarm d).ss = d.ss := by
  obtain ⟨h1, e1, _, _⟩ := h.calm takeWaiting_calm
  unfold blocksWarm
  generalize takeWaiting d = w at h1 e1
  have h2 : DayTables { w with tb := w.tb.warm, ae := w.ae.warm, gb := w.gb.warm } :=
    ⟨h1.plans, (h1.ae.sweepsMap Sweep.restarted fun w => ⟨rfl, rfl, rfl⟩).mono (fun _ _ _ hk => hk) fun _ _ hk => hk, h1.dated⟩
  obtain ⟨h3, e3, _, _⟩ := h2.calm relayWarm_calm
  unfold valuesWarm
  generalize relayWarm _ = x at h3 e3
  obtain ⟨h4, e4, _, _⟩ := h3.calm (e := sampleInputs w.su.alertLevel w.su.paKeyHeld
    { ({ x with su := x.su.warm } : Device).zonesWarm with op := x.op.warm }) fun hc => sampleInputs_calm _ _ (hc.of_eq rfl rfl rfl rfl)
  exact ⟨h4, e4.trans (e3.trans e1)⟩
theorem scannerWarm_day {f : Scanner} {d : Device} (h : DayTables d) (hf : FlagsStand f d.ss) : Day f (scannerWarm d) := by
  unfold scannerWarm; split
  · rename_i hr
    obtain ⟨r, hr⟩ := Option.isSome_iff_exists.1 hr
    exact ⟨h, .rolls hr, hf⟩
  · rename_i hr
    exact reassessAll_day h hf (by simpa [Device.rolling] using hr)
theorem warmReset_day {f : Scanner} {d : Device} (h : Day f d) : Day f (warmReset d) := by
  obtain ⟨h1, e1⟩ := blocksWarm_tables h.tables
  exact scannerWarm_day h1 (by rw [e1]; exact h.flags)
theorem powerUp_day {f : Scanner} (strap : Bool) {d : Device} (h : Day f d) : Day f (powerUp strap d) := by
  obtain ⟨h1, e1⟩ := blocksWarm_tables (d := { d with mainPower := true, fastBaud := strap })
    ⟨h.tables.plans, h.tables.ae.mono (fun _ _ _ hk => hk) fun _ _ hk => hk, h.tables.dated⟩
  have hf : FlagsStand f (blocksWarm { d with mainPower := true, fastBaud := strap }).ss := by rw [e1]; exact h.flags
  unfold powerUp resumeMissed; split
  · exact startRollover_day _ h1 hf
  · exact scannerWarm_day h1 hf
theorem replyGone_day {f : Scanner} {d : Device} (h : Day f d) : Day f (replyGone d) := by
  unfold replyGone; split
  · exact h
  · have hg : Day f { d with op.inHand := none } := h.of_view rfl rfl rfl rfl rfl rfl (Nat.le_refl _)
    dsimp only; split
    · obtain ⟨h1, e1⟩ := blocksWarm_tables hg.tables
      exact scannerWarm_day h1 (by rw [e1]; exact hg.flags)
    · exact hg
theorem losePower_day {f : Scanner} {d : Device} (h : Day f d) : Day f (losePower d) := by
  have hp : Day f (powered takeWaiting d) := powered_keeps h (takeWaiting_day h)
  exact ⟨⟨hp.tables.plans, hp.tables.ae.mono (fun _ _ _ hk => hk) fun _ _ hk => hk, hp.tables.dated⟩, .off fun hh => (nomatch hh.1), hp.flags⟩
theorem reset_day : Day Device.reset.ss Device.reset := by
  have hs : Device.reset.ae.sweeps = [] := rfl
  have hr : Device.reset.ae.roster.getD [] = [] := rfl
  have hp : Device.reset.ae.pupils = [] := rfl
  have hc : Device.reset.ae.contacts = [] := rfl
  have ht : Device.reset.tb.today = .closed := rfl
  have hv : Device.reset.tb.validity ≠ .valid := by decide
  refine ⟨⟨fun p hp => ?_, ⟨by rw [hs]; simp, by rw [hr]; simp, by rw [hr]; exact .nil,
    ⟨by rw [hp]; simp, by rw [hc]; simp, by rw [hc]; simp, by rw [hp]; simp, by rw [hc]; simp, by rw [hp]; simp⟩,
    by unfold TalliesInRange; rw [hp]; simp, by rw [hp]; exact .nil⟩, by rw [ht]; simp⟩, .off fun hh => hv hh.2.1, .refl _⟩
  rw [List.eq_of_mem_replicate (n := 8) hp]; exact planLawful_nil
theorem retentionLost_day (strap : Bool) (d : Device) : ∃ g, Day g (retentionLost strap d) :=
  ⟨Device.reset.ss, Day.calm (d := { Device.reset with fastBaud := strap, sense := d.sense, su.alertLevel := d.su.alertLevel })
    (reset_day.of_view rfl rfl rfl rfl rfl rfl (Nat.le_refl _)) (sampleInputs_calm _ _)⟩

/-! ### The requests' own changes of the tables -/

theorem RollsAscend.nodup {l : List Nat} (h : RollsAscend l) : l.Nodup := h.1.imp fun hab => Nat.ne_of_lt hab
/-- The Attendance Engine's tables become others that agree. -/
theorem Day.engine {f : Scanner} {d : Device} (h : Day f d) (ae : Attendance) (hs : ae.sweeps = d.ae.sweeps)
    (he : ∀ {closed : Nat → Nat → Prop}, (∀ e ∈ d.ae.roster.getD [], EntryLawful closed e) → ∀ e ∈ ae.roster.getD [], EntryLawful closed e)
    (hl : LinksAgree ae) (ht : TalliesInRange ae) (hp : PupilsHeldOnce { d with ae := ae }) : Day f { d with ae := ae } :=
  ⟨⟨h.tables.plans, ⟨by rw [hs]; exact h.tables.ae.sweeps, he h.tables.ae.entries, hp.roster.nodup, hl, ht, hp.roll.nodup⟩,
    h.tables.dated⟩, h.behind.of_view rfl id rfl rfl rfl (Nat.le_refl _), h.flags⟩

theorem loadPupil_day {f : Scanner} {d : Device} (h : Day f d) (hw : Laws [] d) (idle : d.rolling = false) {roll : Nat}
    {card : Option Nat} {slots : List (Option Nat)} (hr : badRoll roll = false) (hl : PupilLoads d.ae roll card slots)
    (cohort group grace : Nat) : Day f (d.onAe fun ae => ae.loadPupil (ae.loadedPupil roll card cohort group grace slots)) := by
  have hlaws : Laws [] (d.onAe (·.loadPupil (d.ae.loadedPupil roll card cohort group grace slots))) :=
    loadPupil_laws (by rw [(loadedPupil_fields _ _ _ _ _ _ _).1]; exact hr) idle hw
  refine h.engine _ ?_ (loadPupil_entries _) (loadPupil_links h.tables.ae.links hl _ _ _) (loadPupil_tallies h.tables.ae.tallies _ _ _ _ _ _)
    hlaws.pupils
  unfold Attendance.loadPupil; dsimp only; split <;> rfl
theorem dropPupil_day {f : Scanner} {d : Device} (h : Day f d) (hw : Laws [] d) (idle : d.rolling = false) (roll : Nat) :
    Day f (d.onAe (·.dropPupil roll)) := by
  refine h.engine _ rfl ?_ (dropPupil_links h.tables.ae.links roll) ?_ (dropPupil_laws roll idle hw).pupils
  · intro closed he e hm
    have hm : e ∈ (d.ae.roster.map fun (l : List RosterEntry) => l.filter (·.roll != roll)).getD [] := hm
    cases hr : d.ae.roster with
    | none => rw [hr] at hm; cases hm
    | some l =>
      rw [hr] at hm he
      exact he e (List.mem_of_mem_filter hm)
  · intro p hp
    exact h.tables.ae.tallies p (List.mem_of_mem_filter hp)
theorem relinked_tallies {ae : Attendance} (h : TalliesInRange ae) {b : Attendance} {i : Nat} {g : Pupil → Bool}
    (hp : b.pupils = ae.pupils.map fun p => p.relinked i (g p)) : TalliesInRange b := by
  intro p hm
  rw [hp] at hm
  obtain ⟨q, hq, rfl⟩ := List.mem_map.1 hm
  obtain ⟨_, _, e1, e2, e3, _⟩ := relinked_same i (g q) q
  rw [e1, e2, e3]; exact h q hq
theorem loadContact_day {f : Scanner} {d : Device} (h : Day f d) (hw : Laws [] d) {key : Nat} {pupils : List Nat}
    (hl : ContactLoads d.ae key pupils) (e n : Bool) : Day f (d.onAe (·.loadContact ⟨d.ae.indexFor key, key, e, n, pupils⟩)) :=
  h.engine _ rfl (fun he => he) (loadContact_links h.tables.ae.links h.tables.ae.held hl e n)
    (relinked_tallies (g := fun p => pupils.contains p.roll) h.tables.ae.tallies rfl) (loadContact_laws _ hw).pupils
theorem dropContact_day {f : Scanner} {d : Device} (h : Day f d) (hw : Laws [] d) {key : Nat} {c : Contact}
    (hc : d.ae.contactOf key = some c) : Day f (d.onAe (·.dropContact c)) :=
  h.engine _ rfl (fun he => he) (dropContact_links h.tables.ae.links hc)
    (relinked_tallies (g := fun _ => false) h.tables.ae.tallies rfl) (dropContact_laws _ hw).pupils

end Sys2Proof.Machine
end

