-- ==== Sys2Proof/Laws/Requests.lean ====
section
/-! SUPPORT. What every request keeps: it is answered OK or refused with nothing changed (R178), and during a rollover the requests of
Table 1-7's first column are refused (R17). -/
namespace Sys2Proof.Machine

/-- A request is answered OK, or refused with nothing changed. -/
def Clean (d : Device) (t : Answer × Device) : Prop := t.1.result = .ok ∨ ∃ r, t = refuse r d

/-- The device as it would stand with no rollover ACTIVE. -/
def Device.idled (d : Device) : Device := { d with tb.rollover := none }

/-- The results of checks that come before BUSY; `table` says that FULL and DUPLICATE are among them (log 13). -/
def EarlyResult (table : Bool) (r : Result) : Prop := r = .range ∨ table = true ∧ (r = .full ∨ r = .duplicate)

/-- A request during a rollover is refused as Table 1-7 says: as without one where an early check fails, and BUSY otherwise. -/
def HeldBack (table : Bool) (d : Device) (t idle : Answer × Device) : Prop :=
  (∃ r, EarlyResult table r ∧ t = refuse r d ∧ idle = refuse r d.idled) ∨
    t = refuse .busy d ∧ ∀ r, EarlyResult table r → idle.1.result ≠ r

theorem clean_refuse (r : Result) (d : Device) : Clean d (refuse r d) := .inr ⟨r, rfl⟩

theorem clean_checked {d : Device} {t : Answer × Device} (l : List (Bool × Result)) (h : Clean d t) : Clean d (checked d l t) := by
  rcases checked_cases d l t with ⟨e, _⟩ | ⟨c, _, _, e⟩
  · rw [e]; exact h
  · rw [e]; exact clean_refuse _ _

theorem heldBack_early {table : Bool} {r : Result} (d : Device) (h : EarlyResult table r) :
    HeldBack table d (refuse r d) (refuse r d.idled) := .inl ⟨r, h, rfl, rfl⟩

theorem early_range {table : Bool} : EarlyResult table .range := .inl rfl

/-- A result that no check before BUSY gives. -/
def lateResult (table : Bool) (r : Result) : Bool := r != .range && (!table || (r != .full && r != .duplicate))

theorem late_ne {table : Bool} {r q : Result} (h : lateResult table r = true) (hq : EarlyResult table q) : r ≠ q := by
  rintro rfl
  rcases hq with rfl | ⟨rfl, rfl | rfl⟩ <;> simp [lateResult] at h

theorem heldBack_busy {table : Bool} {d : Device} {t u : Answer × Device} {l m : List (Bool × Result)} (h : d.rolling = true)
    (hm : (m.all fun c => lateResult table c.2) = true) (hu : lateResult table u.1.result = true) :
    HeldBack table d (checked d ((d.rolling, .busy) :: l) t) (checked d.idled ((d.idled.rolling, .busy) :: m) u) := by
  refine .inr ⟨by rw [checked_cons, if_pos h], fun q hq => ?_⟩
  rw [checked_cons, if_neg (by simp [Device.rolling, Device.idled])]
  rcases checked_cases d.idled m u with ⟨e, _⟩ | ⟨c, hc, _, e⟩ <;> rw [e]
  · exact late_ne hu hq
  · exact late_ne (List.all_eq_true.1 hm c hc) hq

theorem heldBack_first {table bad : Bool} {r : Result} {d : Device} {t u : Answer × Device} {l m : List (Bool × Result)}
    (hr : EarlyResult table r) (h : HeldBack table d (checked d l t) (checked d.idled m u)) :
    HeldBack table d (checked d ((bad, r) :: l) t) (checked d.idled ((bad, r) :: m) u) := by
  rw [checked_cons, checked_cons]; split
  · exact heldBack_early d hr
  · exact h

/-- What one request keeps. -/
structure Kept (code : Nat) (serve : Device → Answer × Device) : Prop where
  clean : ∀ d, Clean d (serve d)
  held : heldByRollover code = true → ∀ d, d.rolling = true → HeldBack (code == 12) d (serve d) (serve d.idled)
  free : heldByRollover code = false → ∀ d, (serve d).1.result ≠ .busy

/-- A request with a result other than BUSY first among its checks is not answered BUSY. -/
theorem notBusy_checked {d : Device} {t : Answer × Device} (l : List (Bool × Result)) (hl : ∀ c ∈ l, c.2 ≠ .busy)
    (h : t.1.result ≠ .busy) : (checked d l t).1.result ≠ .busy := by
  rcases checked_cases d l t with ⟨e, _⟩ | ⟨c, hc, _, e⟩
  · rw [e]; exact h
  · rw [e]; exact hl c hc

/-- Every request of Table 11-2 is an instance of `request`, and keeps R178 and R17. -/
theorem request_served (c : Instr) (tag code : Nat) (h : requestOfInstr c = some (tag, code)) :
    ∃ serve, (∀ s, exec c s = act (request code tag serve) s) ∧ Kept code serve := by
  cases c <;> simp only [requestOfInstr, Option.some.injEq, Prod.mk.injEq, reduceCtorEq] at h <;> obtain ⟨rfl, rfl⟩ := h <;>
    refine ⟨_, fun _ => rfl, fun d => ?_, fun hc d => ?_, fun hc d => ?_⟩
  all_goals first
    | exact .inl rfl
    | exact clean_checked _ (.inl rfl)
    | exact absurd hc (by decide)
    | exact fun hd => heldBack_busy hd rfl rfl
    | exact fun hd => heldBack_first early_range (heldBack_busy hd rfl rfl)
    | (show Result.ok ≠ _; decide)
    | skip
  all_goals simp only [serveSetDiscipline, serveLoadException, serveLoadRule, serveLoadWeekday, serveLoadPlan, serveQueryPlan, serveSetSite,
serveSelectToday, serveQueryPupil, serveQueryCard, serveLoadContact, serveDropContact, serveQueryContact,
serveLoadGroup, serveDeskMark, serveSnapshot, serveQueryCounts, serveAddExcuse, serveRemoveExcuse, serveCloseCall,
serveQueryNotice, serveQueryNotices, serveSetRelayLink, serveLinkLampMode, serveLamp, serveLoadPattern,
serveLoadRoute, serveQueryRoute, serveSetStation, serveAlertStart, serveAlertStop, serveSetAlertInput, servePaStart,
serveSetAttentionMask, serveQueryPattern]
  all_goals repeat' split
  all_goals first
    | exact clean_refuse _ _
    | exact .inl rfl
    | exact clean_checked _ (.inl rfl)
    | exact clean_checked _ (clean_refuse _ _)
    | exact fun _ => heldBack_early _ early_range
    | exact fun hd => heldBack_busy hd rfl rfl
    | exact fun hd => heldBack_first early_range (heldBack_busy hd rfl rfl)
    | exact fun hd => heldBack_first early_range (heldBack_first (.inr ⟨rfl, .inl rfl⟩) (heldBack_first (.inr ⟨rfl, .inr rfl⟩)
        (heldBack_first early_range (heldBack_busy hd rfl rfl))))
    | (show Result.range ≠ _; decide)
    | (show Result.ok ≠ _; decide)
    | exact notBusy_checked _ (by simp) (show Result.ok ≠ _ from by decide)

end Sys2Proof.Machine
end

