-- ==== Sys2Proof/Tests/Slice0.lean ====
section
/-! SUPPORT. The model's own tests. `test_wf_*` show ill-formed commands refused; `test_witness_*` show, for each statement with
hypotheses, concrete states that meet the hypotheses of its clauses, at the ends of their ranges, with what the command does
there. -/
namespace Sys2Proof.Tests
open Sys2Proof Sys2Proof.Machine

-- One theorem after another: each `decide` waits for the kernel, and many waiting at once would each hold a thread.
set_option Elab.async false

/-! ### Helpers -/

/-- The device after one command. -/
def after (c : Instr) (d : Device) : Device :=
  match exec c ⟨d, []⟩ with
  | .next t => t.dev
  | .fault _ => d
  | .refused _ => d

/-- The answer a request gets. -/
def answerTo (c : Instr) (d : Device) : Option Answer := (after c d).op.inHand.map (·.answer)

/-- The result code a request gets. -/
def resultOf (c : Instr) (d : Device) : Option Result := (answerTo c d).map (·.result)

/-- After reset, and after reset with the clock VALID. -/
def cold : Device := Device.reset
def valid : Device := { Device.reset with tb.validity := .valid }
/-- With a rollover ACTIVE at a step, of a kind. -/
def rolls (kind : RolloverKind) (step cursor : Nat) : Device := { valid with tb.rollover := some ⟨kind, step, cursor, 0, 1⟩ }
def rolling : Device := rolls .midnight 1 1
def unpowered : Device := { Device.reset with mainPower := false }
def busyLine : Device := { Device.reset with op.inHand := some ⟨5, 2, ok .empty⟩ }

def anna : Pupil := ⟨1, some 7, 1, 0, 0, [some 1, none, none], 0, 0, 0⟩
def carer : Contact := ⟨1, 77, true, true, [1]⟩
def entryOf (state : RosterState) : RosterEntry := .blank 1 (some ⟨1, 0⟩) state true
/-- A school day at 09:00 with one pupil, one contact and a roster whose entry is in a state. -/
def school (state : RosterState) : Device := { valid with
  tb.today := .plan 1, tb.date := 100, tb.second := 32400
  ae.pupils := [anna], ae.contacts := [carer], ae.groups := List.replicate 16 (List.replicate 10 (some ⟨1, 0⟩))
  ae.roster := some [entryOf state] }

def note (tag : Nat) (body : NoticeBody) : Notice := ⟨tag, body, 1, 1, 77, 1, 100, 0, 0, none⟩
def absent (tag : Nat) : Notice := note tag .absentUnexplained
def bulletin (tag : Nat) : Notice := note tag (.bulletin 1)
def excuse (kind : ExcuseKind) (first last : Nat) : Excuse := ⟨1, kind, first, last, 0, .desk, .pending⟩

/-- The link UP and at rest, and UP in receive hold. -/
def up : Device := { valid with rl.link := .up, rl.silence := some 3 }
def holding : Device := { up with rl.hold := true, rl.resyncTimer := true }

/-! ### Well-formedness: each check refuses -/

theorem test_wf_tag : Instr.wf (.queryTime 65536) = false ∧ Instr.wf (.queryTime 65535) = true := by decide
theorem test_wf_word : Instr.wf (.setTime 0 65536 0 0) = false ∧ Instr.wf (.queryPupil 0 65536) = false ∧
    Instr.wf (.addExcuse 0 1 1 65536 1 1) = false ∧ Instr.wf (.outcomeTimeout 65536) = false := by decide
theorem test_wf_triple : Instr.wf (.setTime 0 0 16777216 0) = false ∧ Instr.wf (.setTime 0 0 16777215 0) = true := by decide
theorem test_wf_byte : Instr.wf (.setTime 0 0 0 256) = false ∧ Instr.wf (.setDiscipline 0 256) = false ∧
    Instr.wf (.rxMark 256) = false ∧ Instr.wf (.rxResync 256 0) = false ∧ Instr.wf (.lamp 0 256) = false := by decide
theorem test_wf_long : Instr.wf (.queryCard 0 4294967296) = false ∧ Instr.wf (.readJournal 0 4294967296) = false := by decide
theorem test_wf_signed : Instr.wf (.setSite 0 0 128 0 0 0) = false ∧ Instr.wf (.setSite 0 0 (-129) 0 0 0) = false ∧
    Instr.wf (.setSite 0 0 (-128) 0 0 0) = true := by decide
theorem test_wf_optional : Instr.wf (.loadPupil 0 1 (some 0) 1 0 0 [none, none, none]) = false ∧
    Instr.wf (.loadPupil 0 1 none 1 0 0 [none, none, none]) = true := by decide
theorem test_wf_slots : Instr.wf (.loadPupil 0 1 none 1 0 0 [none, none]) = false ∧
    Instr.wf (.loadPupil 0 1 none 1 0 0 [none, none, some 0]) = false := by decide
theorem test_wf_group : Instr.wf (.loadGroup 0 0 (List.replicate 9 ⟨0, 0⟩)) = false ∧
    Instr.wf (.loadGroup 0 0 (List.replicate 10 ⟨256, 0⟩)) = false ∧
    Instr.wf (.loadGroup 0 0 (List.replicate 10 ⟨0, 256⟩)) = false := by decide
theorem test_wf_plan : Instr.wf (.loadPlan 0 1 [⟨65536, 1, 1, 1, 1, 1⟩]) = false ∧ Instr.wf (.loadPlan 0 1 [⟨0, 256, 1, 1, 1, 1⟩]) = false ∧
    Instr.wf (.loadPlan 0 1 [⟨0, 1, 256, 1, 1, 1⟩]) = false ∧ Instr.wf (.loadPlan 0 1 [⟨0, 1, 1, 1, 1, 256⟩]) = false ∧
    Instr.wf (.loadPlan 0 1 (List.replicate 256 ⟨0, 1, 1, 1, 1, 1⟩)) = false := by decide +kernel
theorem test_wf_route : Instr.wf (.loadRoute 0 1 [⟨256, 1, 0, 1⟩]) = false ∧ Instr.wf (.loadRoute 0 1 [⟨1, 256, 0, 1⟩]) = false ∧
    Instr.wf (.loadRoute 0 1 [⟨1, 1, 0, 256⟩]) = false ∧ Instr.wf (.loadRoute 0 1 [⟨1, 1, 0, 1⟩]) = true := by decide
theorem test_wf_contact : Instr.wf (.loadContact 0 1 1 1 [65536]) = false ∧ Instr.wf (.loadContact 0 1 256 1 [1]) = false := by decide
theorem test_wf_reply : Instr.wf (.gateReply true true 1 0 [⟨256, 1, 1, 1, 1⟩]) = false ∧
    Instr.wf (.gateReply true true 1 0 [⟨0, 1, 4294967296, 1, 1⟩]) = false ∧ Instr.wf (.gateReply true true 1 0 [⟨0, 1, 1, 256, 1⟩]) = false ∧
    Instr.wf (.gateReply true true 256 0 []) = false := by decide
theorem test_wf_numbers : Instr.wf (.closeSweepStep 5 0) = false ∧ Instr.wf (.confirmSweepStep 1 3) = false ∧
    Instr.wf (.generatorUnit 0) = false ∧ Instr.wf (.generatorUnit 5) = false ∧ Instr.wf (.idleCheck 25) = false := by decide
theorem test_wf_codes : Instr.wf (.unknownRequest 0 75) = false ∧ Instr.wf (.unknownRequest 0 76) = true ∧
    Instr.wf (.wrongBodyLength 0 76) = false ∧ Instr.wf (.wrongBodyLength 0 1) = true := by decide
theorem test_wf_message : Instr.wf (.rxMsg 1 1 0 (List.replicate 49 0)) = false ∧ Instr.wf (.rxMsg 1 1 0 (List.replicate 48 0)) = true := by
  decide

/-- No row of the table gives a command bits, so no word spells one. -/
theorem test_no_words : decodeTableWord 8 0 = none ∧ State.withFetchWord State.reset 8 0 = State.reset := by decide

/-! ### The queue, the office port and the Time Base -/

theorem test_witness_StepTakesTheFrontCommand : State.reset.pending = [] ∧ step State.reset = .next State.reset ∧
    step ⟨cold, [.queryTime 9, .status 3]⟩ = exec (.queryTime 9) ⟨cold, [.status 3]⟩ := ⟨rfl, rfl, rfl⟩

theorem test_witness_RefusedRequestChangesNothing : Ready ⟨cold, []⟩ ∧ requestOfInstr (.queryPupil 4 0) = some (4, 20) ∧
    answerTo (.queryPupil 4 0) cold = some ⟨.range, {}, .empty⟩ ∧ requestOfInstr (.reset 4) = some (4, 75) := by decide +kernel

theorem test_witness_OfficeLineTakesOneRequest : Powered ⟨busyLine, []⟩ ∧ busyLine.op.inHand.isSome = true ∧
    (after (.queryTime 9) busyLine).op.holds .overrun = true ∧ (after (.unknownRequest 9 99) busyLine).op.holds .overrun = true ∧
    (after .overrun busyLine).op.holds .overrun = true ∧ Ready ⟨cold, []⟩ ∧ resultOf (.unknownRequest 9 76) cold = some .unknown ∧
    resultOf (.wrongBodyLength 9 1) cold = some .length ∧ (after .overrun cold) = cold ∧ after .officeBadFrame cold = cold ∧
    after .officeByteTimeout cold = cold := by decide +kernel

theorem test_witness_RolloverHoldsRequestsBack : Ready ⟨rolling, []⟩ ∧ rolling.tb.rollover.isSome = true ∧
    requestOfInstr (.setTime 1 0 0 0) = some (1, 1) ∧ heldByRollover 1 = true ∧ resultOf (.setTime 1 0 0 0) rolling = some .busy ∧
    requestOfInstr (.setCycleLength 1 1) = some (1, 4) ∧ heldByRollover 4 = true ∧ resultOf (.setCycleLength 1 1) rolling = some .busy ∧
    heldByRollover 47 = true ∧ resultOf (.queryNoticeTimes 1) rolling = some .busy ∧ heldByRollover 70 = true ∧
    resultOf (.setStation 1 1 1 0) rolling = some .busy ∧ requestOfInstr (.queryTime 1) = some (1, 2) ∧ heldByRollover 2 = false ∧
    resultOf (.setCycleLength 1 0) { rolling with tb.rollover := none } = some .range ∧ resultOf (.setCycleLength 1 0) rolling = some .range ∧
    resultOf (.setCycleDay 1 1) { rolling with tb.rollover := none } = some .ok ∧ resultOf (.setCycleDay 1 1) rolling = some .busy ∧
    resultOf (.loadPlan 1 8 (List.replicate 33 ⟨5, 1, 1, 1, 1, 0⟩)) rolling = some .full ∧
    resultOf (.loadPlan 1 8 [⟨5, 1, 3, 0, 0, 1⟩, ⟨6, 1, 3, 0, 0, 1⟩]) rolling = some .duplicate ∧
    resultOf (.queryTime 1) rolling = some .ok ∧ heldByRollover 48 = false ∧ resultOf (.relayStart 1) rolling = some .ok ∧
    heldByRollover 71 = false := by decide +kernel

theorem test_witness_TimeIsSetAndRead : Ready ⟨cold, []⟩ ∧ resultOf (.setTime 1 36525 0 0) cold = some .range ∧
    resultOf (.setTime 1 0 86400 0) cold = some .range ∧ resultOf (.setTime 1 0 0 64) cold = some .range ∧
    resultOf (.setTime 1 36524 86399 63) rolling = some .busy ∧
    resultOf (.setTime 1 36524 86399 63) { valid with tb.discipline := .locked } = some .locked ∧
    cold.tb.validity = .invalid ∧ cold.tb.rollover = none ∧ cold.tb.discipline = .unlocked ∧
    (after (.setTime 1 36524 86399 63) cold).tb.rollover = some ⟨.set 36524 false, 1, 1, 0, 1⟩ ∧
    (after (.setTime 1 36524 86399 63) cold).tb.validity = .valid ∧
    (after (.setTime 1 36524 86399 63) { cold with op.causes := 0 }).op.holds .clock = true ∧
    (after (.setTime 1 1 0 0) valid).tb.rollover = some ⟨.set 1 true, 1, 1, 0, 1⟩ ∧
    (after (.setTime 1 0 60 0) valid).tb.rollover = none ∧ (after (.setTime 1 0 59 63) valid).tb.second = 59 ∧
    resultOf (.queryTime 1) rolling = some .ok ∧
    (after (.setTime 1 1 0 0) { valid with gb.records := [⟨1, ⟨0, 1, 9, 1, 1⟩⟩] }).ae.journal.map (·.verdict) = [.unknownCard] := by
  decide +kernel

theorem test_witness_SetDisciplineChangesTheLock : Ready ⟨cold, []⟩ ∧ resultOf (.setDiscipline 1 0) cold = some .range ∧
    resultOf (.setDiscipline 1 3) cold = some .range ∧ (after (.setDiscipline 1 2) cold).tb = cold.tb ∧
    (after (.setDiscipline 1 1) cold).tb.markSilence = some 0 ∧
    (after (.setDiscipline 1 2) { valid with tb.disciplined := true, tb.discipline := .locked }).op.holds .clock = true := by
  decide +kernel

/-- A disciplined VALID clock at a second and tick of the minute. -/
def disciplined (second tick : Nat) : Device := { valid with
  tb.disciplined := true, tb.markSilence := some 2880, tb.markSeen := true, tb.second := second, tb.tick := tick }

theorem test_witness_MasterMarksLockTheClock : Powered ⟨disciplined 0 2, []⟩ ∧ (disciplined 0 2).takesMark = true ∧
    (after .masterMark valid) = valid ∧ (after .masterMark { disciplined 0 2 with tb.markSilence := some 2879 }).tb.lastError = none ∧
    (after .masterMark (disciplined 29 63)).tb.lastError = some 1919 ∧ (after .masterMark (disciplined 30 0)).tb.lastError = some (-1920) ∧
    (after .masterMark (disciplined 0 2)).tb.lockCount = 1 ∧
    (after .masterMark { disciplined 0 2 with tb.lockCount := 1 }).tb.discipline = .locked ∧
    (after .masterMark (disciplined 0 17)).tb.unlockCount = 1 ∧
    (after .masterMark { disciplined 0 17 with tb.unlockCount := 1, tb.discipline := .locked }).tb.discipline = .unlocked ∧
    (after .masterMark { disciplined 0 3 with tb.lockCount := 1 }).tb.lockCount = 0 ∧
    (after .masterMark { disciplined 0 16 with tb.unlockCount := 1 }).tb.unlockCount = 0 ∧
    (after .markSilenceExpiry (disciplined 0 0)).tb.markSilence = none ∧
    (after .markSilenceExpiry { disciplined 0 0 with tb.discipline := .locked }).op.holds .clock = true ∧
    after .markSilenceExpiry valid = valid := by decide +kernel

/-- A second of a day whose plan rings pattern 1 on site 0 at minute 1. -/
def bellAt (second : Nat) : Device := { valid with
  tb.second := second, tb.tick := 63, tb.today := .plan 1
  ss.plans := [⟨[⟨⟨1, 1, .ring 1 1⟩, 0, 0⟩], [], false⟩] }

theorem test_witness_MarksSlewOrStep : (disciplined 1 0).takesMark = true ∧ (after .masterMark (disciplined 1 0)).tb.balance = 64 ∧
    (after .masterMark (disciplined 1 1)).tb.candidate = some 65 ∧
    (after .masterMark { disciplined 1 1 with tb.candidate := some 60 }).tb.candidate = some 65 ∧
    (after .masterMark { disciplined 1 1 with tb.candidate := some 61 }).tb.second = 0 ∧
    (after .masterMark { disciplined 58 62 with tb.candidate := some (-66) }).tb.second = 60 ∧
    (after .masterMark { disciplined 86398 62 with tb.candidate := some (-66) }).tb.rollover = some ⟨.step, 1, 1, 0, 1⟩ ∧
    (after .masterMark { disciplined 86398 62 with
      tb.candidate := some (-66), tb.rollover := some ⟨.midnight, 1, 1, 0, 1⟩ }).tb.missed = 1 ∧
    (after .masterMark { disciplined 58 62 with tb.candidate := some (-66), tb.rollover := some ⟨.midnight, 1, 1, 0, 1⟩ }).tb.second = 60 ∧
    (after .masterMark { disciplined 58 62 with tb.candidate := some (-66) }).op.holds .clock = true ∧
    lockRule 17 (disciplined 1 1) = { disciplined 1 1 with tb.unlockCount := 1 } ∧
    (jumpNotice 1 (bellAt 90)).ss.plans.map (fun q => q.active.map (·.fired)) = [[0]] ∧
    (jumpNotice 0 (bellAt 90)).ss.plans.map (fun q => q.active.map (·.fired)) = [[1]] := by decide +kernel

theorem clock_in_range_at_reset : ClockInRange State.reset.dev.tb := reset_clock

def lastTick : Device := { valid with tb.second := 86399, tb.tick := 63 }

theorem test_witness_OscillatorTickAdvancesTheClock : ClockInRange cold.tb ∧
    (after (.oscillatorTick 0) cold).tb.tick = 1 ∧
    (after (.oscillatorTick 0) { cold with tb.slewPhase := 15, tb.balance := 1 }).tb.tick = 0 ∧
    (after (.oscillatorTick 0) { cold with tb.slewPhase := 15, tb.balance := -1 }).tb.tick = 2 ∧
    (after (.oscillatorTick 0) { cold with tb.slewPhase := 15 }).tb.slewPhase = 0 ∧
    (after (.oscillatorTick 0) lastTick).tb.rollover = some ⟨.midnight, 1, 1, 0, 1⟩ ∧
    (after (.oscillatorTick 0) { lastTick with mainPower := false }).tb.missed = 1 ∧
    (after (.oscillatorTick 0) { lastTick with tb.rollover := some ⟨.step, 2, 1, 0, 1⟩ }).tb.missed = 1 ∧
    (after (.oscillatorTick 0) { lastTick with tb.validity := .invalid }).tb.missed = 0 ∧
    (after (.oscillatorTick 0) { lastTick with tb.tick := 62, tb.slewPhase := 15, tb.balance := -1 }).tb.rollover
      = some ⟨.midnight, 1, 1, 0, 1⟩ ∧
    (after (.oscillatorTick 0) { lastTick with tb.slewPhase := 15, tb.balance := -1 }).tb.tick = 1 ∧
    ((after (.oscillatorTick 0) (bellAt 59)).su.generator 1).playing.isSome = true ∧
    ((after (.oscillatorTick 0) (bellAt 58)).su.generator 1).playing.isSome = false ∧
    ((after (.oscillatorTick 0) { bellAt 59 with mainPower := false }).su.generator 1).playing.isSome = false ∧
    ((after (.oscillatorTick 0) { bellAt 59 with tb.rollover := some ⟨.step, 2, 1, 0, 1⟩ }).su.generator 1).playing.isSome = false ∧
    topOfMinute { bellAt 60 with tb.today := .closed } = { bellAt 60 with tb.today := .closed } :=
  ⟨clock_in_range_at_reset, by decide +kernel⟩

/-- The last tick before a running second, with a notice in every place. -/
def lastPhase : Device := { cold with
  tb.runningPhase := 63, nu.urgent := [{ absent 1 with age := 65535 }], nu.awaiting := [⟨absent 2, 1⟩]
  nu.calls := [⟨1, .noContact, true, 0, 0, .notice (absent 3) none false⟩], rl.link := .down
  rl.ring := [⟨absent 4, 1, 1⟩], su.zones := [⟨true, false, 0, 0, some 10⟩, ⟨true, false, 0, 0, some 9⟩] }

theorem test_witness_RunningSecondPasses : Powered ⟨cold, []⟩ ∧ cold.tb.tick < 63 ∧ cold.tb.slewPhase < 15 ∧
    (after (.oscillatorTick 0) { cold with tb.runningPhase := 62 }).tb.runningPhase = 63 ∧
    (after (.oscillatorTick 0) { cold with tb.markSilence := some 11519 }).tb.markSilence = some 11520 ∧
    (after (.oscillatorTick 0) { cold with tb.markSilence := some 11520 }).tb.markSilence = some 11520 ∧
    (let d := after (.oscillatorTick 0) lastPhase
     d.nu.urgent.map (·.age) = [65535] ∧ d.nu.awaiting.map (fun w => (w.notice.age, w.deadline)) = [(1, 0)] ∧
     (d.nu.calls.filterMap (·.notice?)).map (·.age) = [1] ∧ d.rl.ring.map (·.notice.age) = [1] ∧ d.rl.downFor = 1 ∧
     d.su.zones.map (·.timer) = [some 10, some 10]) ∧
    unpowered.mainPower = false ∧ (after (.oscillatorTick 0) { unpowered with tb.markSilence := some 5 }).tb.markSilence = some 5 := by
  decide +kernel

theorem test_witness_ExceptionsAreHeldByDate : Steady ⟨cold, []⟩ ∧
    resultOf (.loadException 1 96 0 0) { cold with tb.exceptions := (List.range 96).map fun n => ⟨n, none, false⟩ } = some .full ∧
    resultOf (.loadException 1 95 8 1) { cold with tb.exceptions := (List.range 96).map fun n => ⟨n, none, false⟩ } = some .ok ∧
    resultOf (.loadException 1 36524 255 1) cold = some .ok ∧ resultOf (.loadException 1 36525 1 0) cold = some .range ∧
    resultOf (.loadException 1 1 9 0) cold = some .range ∧ resultOf (.loadException 1 1 1 2) cold = some .range ∧
    resultOf (.dropException 1 5) cold = some .notFound ∧
    resultOf (.dropException 1 5) { cold with tb.exceptions := [⟨5, none, true⟩] } = some .ok ∧
    answerTo (.queryExceptions 1 5) { cold with tb.exceptions := [⟨4, none, true⟩, ⟨5, none, true⟩] } =
      some (ok (.exceptions [⟨5, none, true⟩])) := by decide +kernel

theorem test_witness_CycleAndCalendarAreSet : Ready ⟨cold, []⟩ ∧ resultOf (.setCycleLength 1 0) cold = some .range ∧
    resultOf (.setCycleLength 1 11) cold = some .range ∧ resultOf (.setCycleLength 1 10) rolling = some .busy ∧
    (after (.setCycleLength 1 10) cold).tb.cycleLength = 10 ∧
    (after (.setCycleLength 1 1) { cold with tb.cycleLength := 2, tb.cycleDay := 2 }).tb.cycleDay = 1 ∧
    resultOf (.setCycleDay 1 2) cold = some .range ∧ resultOf (.setCycleDay 1 1) rolling = some .busy ∧
    resultOf (.setCycleDay 1 1) cold = some .ok ∧ resultOf (.loadRule 1 9 0 0 1) cold = some .range ∧
    resultOf (.loadRule 1 8 127 10 8) cold = some .ok ∧ resultOf (.loadRule 1 1 128 0 1) cold = some .range ∧
    resultOf (.loadRule 1 1 0 0 255) cold = some .ok ∧ resultOf (.loadWeekday 1 7 255) cold = some .ok ∧
    resultOf (.loadWeekday 1 8 1) cold = some .range ∧ resultOf (.loadWeekday 1 1 8) cold = some .ok ∧
    resultOf (.queryCalendar 1) cold = some .ok ∧ (⟨0, none, .closed⟩ : CalRule).matchesDay 0 1 = false := by decide +kernel

/-- Monday 2000-01-03 is day 2, weekday 0; a rule for Mondays with cycle day 1. -/
def calendar : TimeBase := { TimeBase.reset with
  exceptions := [⟨9, some (.plan 3), false⟩, ⟨16, none, true⟩], rules := [⟨1, some 1, .plan 5⟩], weekdays := List.replicate 7 (.plan 7) }

theorem test_witness_PlanForADate : calendar.planFor 9 1 = .plan 3 ∧ calendar.planFor 16 1 = .plan 5 ∧ calendar.planFor 2 1 = .plan 5 ∧
    calendar.planFor 3 1 = .plan 7 ∧ { calendar with cycleLength := 2 }.planFor 2 1 = .plan 7 ∧
    ({ calendar with today := .plan 1 } : TimeBase).today ≠ .closed := by decide +kernel

/-! ### The rollover and the resets -/

theorem test_witness_RolloverStepsInOrder : Powered ⟨rolling, []⟩ ∧
    (after .rolloverStep (rolls .midnight 1 1)).tb.rollover = some ⟨.midnight, 2, 1, 0, 1⟩ ∧
    (after .rolloverStep { rolls .midnight 3 1 with ae.roster := some [] }).ae.roster = none ∧
    (after .rolloverStep (rolls .midnight 6 1)).tb.rollover = some ⟨.midnight, 7, 1, 0, 1⟩ ∧
    (after .rolloverStep (rolls .midnight 7 1)).tb.rollover = some ⟨.midnight, 7, 2, 0, 1⟩ ∧
    (after .rolloverStep (rolls .midnight 7 8)).tb.rollover = some ⟨.midnight, 8, 1, 0, 1⟩ ∧
    ((after .rolloverStep { rolls .midnight 7 2 with
      ss.plans := [⟨[], [], true⟩, ⟨[], [⟨5, 1, .ring 1 1⟩], true⟩] }).ss.plans.map fun p => (p.active.length, p.pending)) = [(0, true), (1, false)] ∧
    (after .rolloverStep (rolls .midnight 8 1)).tb.rollover = some ⟨.midnight, 9, 1, 0, 1⟩ ∧
    (after .rolloverStep (rolls .midnight 11 1)).tb.rollover = some ⟨.midnight, 12, 1, 0, 1⟩ ∧
    (after .rolloverStep { rolls .midnight 11 1 with nu.fanout := ⟨.paused, 1, 1, 7, 5, 0, 0, .notYet⟩ }).nu.fanout.lastEnd = .aborted ∧
    (after .rolloverStep (rolls .midnight 13 1)).tb.rollover = none ∧
    (after .rolloverStep { rolls .midnight 13 1 with tb.missed := 1 }).tb.rollover = some ⟨.resume, 1, 1, 0, 1⟩ ∧
    (after .rolloverStep { rolls .midnight 13 1 with tb.missed := 1, tb.rollover := some ⟨.resume, 13, 1, 1, 1⟩ }).tb.rollover = none ∧
    (after .rolloverStep (rolls .midnight 13 1)).op.holds .day = true ∧
    (startOfDay { valid with rl.rolloverHold := [⟨4, .unknownKind⟩, ⟨5, .unknownKind⟩] }).rl.collected = 5 ∧
    after .rolloverStep valid = valid := by decide +kernel

theorem test_witness_RolloverOpensTheDay : (after .rolloverStep { rolls .midnight 4 1 with tb.date := 36523 }).tb.date = 36524 ∧
    (after .rolloverStep { rolls .midnight 4 1 with tb.date := 36524 }).tb.validity = .invalid ∧
    (after .rolloverStep (rolls (.set 36524 true) 4 1)).tb.date = 36524 ∧
    (after .rolloverStep { rolls .resume 4 1 with tb.missed := 3 }).tb.date = 3 ∧
    (after .rolloverStep { rolls .resume 4 1 with tb.date := 36524, tb.missed := 1 }).tb.missed = 0 ∧
    (after .rolloverStep { rolls .midnight 4 1 with tb.date := 36524, tb.missed := 1 }).tb.missed = 1 ∧
    (after .rolloverStep { rolls .midnight 5 1 with tb.cycleLength := 2, tb.weekdays := List.replicate 7 (.plan 7) }).tb.rollover
      = some ⟨.midnight, 5, 2402, 0, 2⟩ ∧
    (after .rolloverStep { rolls (.set 0 true) 5 1 with tb.cycleLength := 2, tb.weekdays := List.replicate 7 (.plan 7) }).tb.rollover
      = some ⟨.set 0 true, 5, 2402, 0, 1⟩ ∧
    (let two : Device := { valid with
       tb.date := 9, tb.cycleLength := 3, tb.weekdays := List.replicate 7 (.plan 7)
       tb.rollover := some ⟨.resume, 5, 1, 2, 1⟩ }
     (after .rolloverStep two).tb.today = .closed ∧ (after .rolloverStep two).tb.rollover = some ⟨.resume, 5, 2402, 2, 2⟩ ∧
     (after .rolloverStep (after .rolloverStep two)).tb.today = .plan 7 ∧
     (after .rolloverStep (after .rolloverStep two)).tb.rollover = some ⟨.resume, 5, 4803, 2, 3⟩ ∧
     (after .rolloverStep (after .rolloverStep (after .rolloverStep two))).tb.rollover = some ⟨.resume, 6, 1, 2, 3⟩) ∧
    (let term : Device := { rolls .midnight 5 1 with
       tb.exceptions := [⟨0, some (.plan 1), true⟩], ae.pupils := [{ anna with latePoints := 9, lateMinutes := 5 }] }
     (after .rolloverStep term).tb.rollover = some ⟨.midnight, 5, 2, 0, 1⟩ ∧ (after .rolloverStep term).tb.today = .plan 1 ∧
     (after .rolloverStep (after .rolloverStep term)).ae.pupils = [anna]) ∧
    (after .rolloverStep (rolls .midnight 5 2401)).tb.rollover = some ⟨.midnight, 5, 2402, 0, 1⟩ ∧
    (after .rolloverStep { rolls .midnight 5 2402 with tb.date := 9, tb.exceptions := [⟨8, none, false⟩, ⟨9, none, false⟩] }).tb.exceptions
      = [⟨9, none, false⟩] ∧
    (after .rolloverStep { rolls .midnight 5 2402 with tb.date := 9, tb.exceptions := [⟨9, none, false⟩] }).tb.rollover
      = some ⟨.midnight, 6, 1, 0, 1⟩ := by decide +kernel

theorem test_witness_RolloverWalksItsTables :
    (after .rolloverStep { rolls .midnight 2 1 with ae.pupils := [anna], ae.roster := some [entryOf .unexplained] }).ae.pupils
      = [{ anna with unexplainedDays := 1 }] ∧
    (after .rolloverStep (rolls .midnight 2 2399)).tb.rollover = some ⟨.midnight, 2, 2400, 0, 1⟩ ∧
    (after .rolloverStep (rolls .resume 2 2400)).tb.rollover = some ⟨.resume, 3, 1, 0, 1⟩ ∧
    (after .rolloverStep (rolls (.set 5 true) 2 1)).tb.rollover = some ⟨.set 5 true, 2, 2, 0, 1⟩ ∧
    (after .rolloverStep (rolls .midnight 9 1)).tb.rollover = some ⟨.midnight, 10, 1, 0, 1⟩ ∧
    (after .rolloverStep { rolls .midnight 10 2 with tb.date := 101, nu.urgent := [absent 1] }).tb.rollover = some ⟨.midnight, 10, 1, 0, 1⟩ ∧
    (after .rolloverStep (rolls (.set 5 false) 2 1)).tb.rollover = some ⟨.set 5 false, 3, 1, 0, 1⟩ ∧
    (after .rolloverStep { rolls .midnight 9 1 with tb.date := 5, ae.excuses := [excuse .absent 3 4] }).ae.excuses = [] ∧
    (after .rolloverStep { rolls .midnight 9 1 with tb.date := 4, ae.excuses := [{ excuse .absent 3 4 with state := .applied }] }).ae.excuses
      = [excuse .absent 3 4] ∧
    (after .rolloverStep { rolls .midnight 10 1 with tb.date := 101, nu.urgent := [absent 1] }).nu.queued = [] ∧
    (after .rolloverStep (rolls .midnight 10 1)).tb.rollover = some ⟨.midnight, 11, 1, 0, 1⟩ ∧
    (after .rolloverStep { rolls .midnight 12 2 with ae.pupils := [{ anna with roll := 2 }], ae.roster := some [] }).ae.roster
      = some [⟨2, none, .notDue, none, none, none, none, none, none, none, true⟩] ∧
    (after .rolloverStep { rolls .midnight 12 2 with
      tb.today := .plan 1, ae.pupils := [{ anna with roll := 2 }], ae.roster := some []
      ae.groups := [List.replicate 10 (some ⟨1, 0⟩)] }).ae.roster
      = some [⟨2, some ⟨1, 0⟩, .expected, none, none, none, none, none, none, none, true⟩] ∧
    (after .rolloverStep { rolls .midnight 12 2400 with
      tb.date := 100, ae.roster := some [entryOf .expected], ae.excuses := [excuse .absent 100 100] }).ae.roster
      = some [{ entryOf .excusedAway with excuseRef := some ⟨.absent, 100⟩ }] ∧
    (after .rolloverStep (rolls .midnight 12 1)).ae.roster = some [] ∧
    (after .rolloverStep { rolls .midnight 12 2400 with ae.roster := some [] }).tb.rollover = some ⟨.midnight, 13, 1, 0, 1⟩ := by
  decide +kernel

theorem test_witness_RetentionLossGivesTheResetValues :
    after (.retentionLoss true) (school .present) = { Device.reset with fastBaud := true } ∧
    (let d := after (.retentionLoss false) { school .present with su.alertLevel := true, su.paKeyHeld := true }
     d.su.alert = some ⟨BitVec.allOnes 24, 0⟩ ∧ d.su.paKeyHeld = true ∧ d.op.causes = Cause.restarted.bit ||| Cause.alert.bit) := by decide +kernel

theorem test_witness_PowerComesAndGoes : (after .mainPowerLoss cold).mainPower = false ∧
    (after (.powerUp true) { unpowered with tb.missed := 2 }).tb.rollover = some ⟨.resume, 1, 1, 0, 1⟩ ∧
    (after (.powerUp false) { rolling with mainPower := false }).tb.rollover = some ⟨.midnight, 1, 1, 0, 1⟩ ∧
    (after (.powerUp false) unpowered).tb.rollover = none ∧ (after (.powerUp true) unpowered).fastBaud = true ∧
    (after (.powerUp true) unpowered).mainPower = true ∧ unpowered.gb.records = [] ∧
    (after .mainPowerLoss { cold with gb.records := [⟨1, ⟨0, 1, 9, 1, 1⟩⟩] }).gb.records = [] ∧ actsUnpowered (.queryTime 1) = false ∧
    after (.queryTime 1) unpowered = unpowered := by decide +kernel

theorem test_witness_WarmResetKeepsAndClears : Ready ⟨cold, []⟩ ∧ resultOf (.reset 1) cold = some .ok ∧
    (after .replyComplete { cold with op.inHand := some ⟨1, 75, ok .empty⟩, su.paRequest := 1 }).su.paRequest = 0 ∧
    (after .replyComplete { cold with op.inHand := some ⟨1, 75, ⟨.busy, {}, .empty⟩⟩, su.paRequest := 1 }).su.paRequest = 1 ∧
    (after .replyComplete busyLine).op.inHand = none ∧ after .replyComplete cold = cold ∧
    (after .warmReset { up with op.mask := 0 }).rl.link = .off ∧
    (after .warmReset { up with rl.settings.autoStart := true }).rl.frame = some .start ∧
    (after .warmReset { cold with su.alertLevel := true, su.paKeyHeld := true }).su.alert = some ⟨BitVec.allOnes 24, 0⟩ ∧
    after .warmReset rolling = blocksWarm rolling ∧ (blocksWarm up).rl.restartGuard = false ∧
    (after .warmReset { up with rl.ring := [⟨{ absent 1 with age := 600 }, 1, 1⟩] }).nu.calls.map (·.reason) = [.relayDown] ∧
    (after (.alertInput true) cold) = sampleInputs true false { cold with su.alertLevel := true } ∧
    (after .warmReset { up with rl.ring := [⟨absent 1, 1, 1⟩], nu.urgent := [absent 2] }).nu.urgent = [absent 1, absent 2] ∧
    (after .warmReset { up with rl.ring := [⟨absent 1, 1, 1⟩], nu.urgent := List.replicate 256 (absent 2) }).nu.calls.map (·.reason)
      = [.queueFull] ∧
    (after .warmReset { cold with nu.urgent := [{ absent 2 with age := 600 }] }).nu.urgent.length = 1 ∧
    (after .warmReset { cold with
      ae.sweeps := [⟨.close, 1, 0, 9, .running⟩, ⟨.confirm, 1, 0, 1, .waiting⟩, ⟨.confirm, 2, 0, 7, .paused⟩] }).ae.sweeps
      = [⟨.close, 1, 0, 1, .running⟩, ⟨.confirm, 1, 0, 1, .waiting⟩, ⟨.confirm, 2, 0, 1, .running⟩] := by decide +kernel

/-! ### The Schedule Scanner -/

def ring (minute : Nat) : PlanEntryOp := ⟨minute, 1, 1, 1, 1, 0⟩

theorem test_witness_LoadPlanWritesByStanding : (planEntry ⟨1439, 7, 1, 4, 16, 0⟩).isSome = true ∧ planEntry ⟨1440, 1, 1, 1, 1, 0⟩ = none ∧
    planEntry ⟨0, 8, 1, 1, 1, 0⟩ = none ∧ planEntry ⟨0, 3, 2, 0, 0, 0⟩ = none ∧ (planEntry ⟨0, 4, 2, 0, 0, 0⟩).isSome = true ∧
    (planEntry ⟨0, 1, 4, 0, 0, 4⟩).isSome = true ∧ resultOf (.loadPlan 1 9 []) cold = some .range ∧
    resultOf (.loadPlan 1 8 ((List.range 33).map ring)) cold = some .full ∧
    resultOf (.loadPlan 1 8 ((List.range 32).map ring)) cold = some .ok ∧
    resultOf (.loadPlan 1 1 [⟨5, 1, 3, 0, 0, 1⟩, ⟨6, 1, 3, 0, 0, 1⟩]) cold = some .duplicate ∧
    resultOf (.loadPlan 1 1 [⟨5, 1, 4, 0, 0, 1⟩]) cold = some .range ∧ resultOf (.loadPlan 1 1 [ring 5]) rolling = some .busy ∧
    (after (.loadPlan 1 1 [ring 6, ring 5]) cold).ss.plan 1 =
      ⟨[⟨⟨5, 1, .ring 1 1⟩, 0, 0⟩, ⟨⟨6, 1, .ring 1 1⟩, 0, 0⟩], [⟨5, 1, .ring 1 1⟩, ⟨6, 1, .ring 1 1⟩], false⟩ ∧
    ((after (.loadPlan 1 1 [ring 5]) (school .present)).ss.plan 1).pending = true := by decide +kernel

theorem test_witness_LoadPlanWritesByStanding_checks : planEntry ⟨5, 7, 2, 0, 0, 0⟩ = none ∧
    planEntry ⟨5, 4, 2, 0, 0, 0⟩ = some ⟨5, 4, .routeSwap⟩ ∧ planEntry ⟨0, 7, 4, 0, 0, 4⟩ = some ⟨0, 7, .regClose 4⟩ ∧
    planDuplicates [⟨5, 3, .regStart 1⟩, ⟨9, 6, .regStart 1⟩] = true ∧ planDuplicates [⟨5, 3, .regStart 1⟩, ⟨9, 4, .regStart 1⟩] = false ∧
    planDuplicates [⟨5, 3, .regStart 1⟩, ⟨9, 3, .regStart 2⟩] = false ∧ planDuplicates [⟨5, 3, .regStart 1⟩, ⟨9, 3, .regClose 1⟩] = false ∧
    closesEarly [⟨5, 1, .regStart 1⟩] ⟨5, 1, .regClose 1⟩ = false ∧ closesEarly [⟨6, 1, .regStart 1⟩] ⟨5, 1, .regClose 1⟩ = true ∧
    closesEarly [⟨5, 1, .regStart 1⟩] ⟨5, 3, .regClose 1⟩ = true ∧ closesEarly [] ⟨5, 1, .regStart 1⟩ = false ∧
    planBefore ⟨5, 1, .routeSwap⟩ ⟨5, 1, .ring 1 1⟩ = true ∧ planBefore ⟨5, 1, .ring 1 1⟩ ⟨5, 2, .ring 1 1⟩ = false ∧
    (school .present).planInUse 1 = true ∧ (school .present).planInUse 2 = false := by decide +kernel

theorem test_witness_PlansAndDayAreRead : resultOf (.queryPlan 1 0 1) cold = some .range ∧ resultOf (.queryPlan 1 8 3) cold = some .range ∧
    resultOf (.queryPlan 1 8 2) rolling = some .busy ∧ answerTo (.queryPlan 1 8 2) cold = some (ok (.plan [] false [])) ∧
    resultOf (.queryPlan 1 1 1) (school .present) = some .ok ∧ resultOf (.queryPlan 1 2 1) (school .present) = some .ok ∧
    resultOf (.queryDay 1) cold = some .ok ∧ resultOf (.queryDay 1) rolling = some .busy := by decide +kernel

/-- Today's plan with site 0's first registration start open at 10:00, and begun. -/
def registration (fired : SiteSet) : Device := { school .present with
  ss.plans := [⟨[⟨⟨600, 1, .regStart 1⟩, fired, 0⟩], [], false⟩] ++ List.replicate 7 ⟨[], [], false⟩ }

theorem test_witness_PlansAndDayAreRead_states : (registration 0).dayState 0 = .before ∧ (registration 0).dayState 1 = .closed ∧
    (let begun (second : Nat) : Device := { registration 1 with tb.second := second, ss.sites := List.replicate 3 ⟨0, 10, 20, false, 0⟩ }
     (begun 36600).dayState 0 = .open ∧ (begun 36601).dayState 0 = .lateInForce) ∧
    ({ registration 1 with tb.validity := .invalid } : Device).dayState 0 = .closed ∧
    ({ registration 1 with tb.today := .closed } : Device).dayState 0 = .closed ∧
    ({ registration 1 with tb.today := .closed } : Device).ss.regStarted 0 = true ∧
    ({ valid with tb.today := .closed, ss.confirm := [.setAt 560, .firedToday] } : Device).confirmView = [.notSet, .notSet] ∧
    ({ valid with tb.today := .plan 1, ss.confirm := [.setAt 560, .firedToday] } : Device).confirmView = [.setAt 560, .firedToday] := by
  decide +kernel

theorem test_witness_SiteRequestsClampAndReassess : resultOf (.setSite 1 3 0 0 20 0) cold = some .range ∧
    resultOf (.setSite 1 2 0 0 20 2) cold = some .range ∧ resultOf (.setSite 1 2 0 0 20 1) rolling = some .busy ∧
    (registration 1).ss.regStarted 0 = true ∧ resultOf (.setSite 1 0 5 0 20 0) (registration 1) = some .tooLate ∧
    resultOf (.setSite 1 0 0 5 20 0) (registration 1) = some .ok ∧ (registration 0).ss.regStarted 0 = false ∧
    answerTo (.setSite 1 0 61 21 4 1) (registration 0) = some (okClamped true .empty) ∧
    (after (.setSite 1 0 (-61) 0 20 1) (registration 0)).ss.site 0 = ⟨-60, 0, 20, true, 0⟩ ∧
    resultOf (.setShift 1 3 0) cold = some .range ∧ resultOf (.setShift 1 2 240) rolling = some .busy ∧
    resultOf (.setShift 1 0 240) (registration 1) = some .tooLate ∧ ((after (.setShift 1 0 241) cold).ss.site 0).shift = 240 := by
  decide +kernel

theorem test_witness_SelectTodayChangesThePlan : resultOf (.selectToday 1 0) valid = some .range ∧ resultOf (.selectToday 1 9) valid = some .range ∧
    resultOf (.selectToday 1 255) rolling = some .busy ∧ resultOf (.selectToday 1 1) cold = some .state ∧
    resultOf (.selectToday 1 2) (registration 1) = some .tooLate ∧ (after (.selectToday 1 255) valid).tb.today = .closed ∧
    (after (.selectToday 1 8) valid).tb.today = .plan 8 ∧ (after (.selectToday 1 2) (registration 0)).tb.today = .plan 2 ∧
    ((after (.selectToday 1 255) (registration 0)).ae.entry 1).map (·.state) = some .notDue := by decide +kernel

/-- A CLOSED day whose roster holds one entry. -/
def holiday (e : RosterEntry) : Device := { school .present with tb.today := .closed, ae.roster := some [e] }
def stray (state : RosterState) (arrival : Option Nat) : RosterEntry := { entryOf state with due := none, arrivalSecond := arrival }

theorem test_witness_SelectTodayChangesThePlan_entries :
    (let opened := fun e => (after (.selectToday 1 1) (holiday e)).ae.roster
     opened (stray .notDue none) = some [entryOf .expected] ∧
     opened (stray .notDue (some 5)) = some [{ entryOf .present with arrivalSecond := some 5, band := some .onTime }] ∧
     opened { stray .out (some 5) with prior := some .notDue }
       = some [{ entryOf .out with arrivalSecond := some 5, band := some .onTime, prior := some .present }] ∧
     opened { stray .notDue none with atBuild := false } = some [{ stray .notDue none with atBuild := false }]) ∧
    (after (.selectToday 1 1) { holiday (stray .notDue none) with ae.excuses := [excuse .absent 100 100] }).ae.roster
      = some [{ entryOf .excusedAway with excuseRef := some ⟨.absent, 100⟩ }] ∧
    (after (.selectToday 1 255) { school .out with ae.roster := some [{ entryOf .out with prior := some .late }] }).ae.roster
      = some [{ stray .out none with prior := some .notDue }] ∧
    (after (.selectToday 1 255) (school .excusedAway)).ae.roster = some [stray .notDue none] ∧
    (after (.selectToday 1 255) (school .unexplained)).ae.roster = some [stray .unexplained none] := by decide +kernel

/-- Today's plan with one bell for site 0, at a minute of the day. -/
def bell (entryMinute minute : Nat) : Device := { school .present with
  tb.second := 60 * minute
  ss.plans := [⟨[⟨⟨entryMinute, 1, .ring 2 3⟩, 0, 0⟩], [], false⟩] ++ List.replicate 7 ⟨[], [], false⟩ }

theorem test_witness_BellsRingAtTheirEffectiveMinute : (∀ c ∈ (bell 540 540).ss.confirm, c = .notSet) ∧
    (bell 540 540).ss.effective 540 0 = (bell 540 540).minute ∧
    ((topOfMinute (bell 540 540)).su.generator 2).playing.map (·.number) = some 3 ∧ topOfMinute (bell 541 540) = bell 541 540 ∧
    topOfMinute (bell 539 540) = bell 539 540 ∧
    (reassess [0, 1, 2] (bell 539 540)).ss.plan 1 = ⟨[⟨⟨539, 1, .ring 2 3⟩, 0, 1⟩], [], false⟩ ∧
    { cold.ss with sites := List.replicate 3 ⟨-60, 0, 20, false, 0⟩ }.effective 59 0 = 0 ∧
    { cold.ss with sites := List.replicate 3 ⟨0, 0, 20, false, 240⟩ }.effective 1200 0 = 1439 ∧ cold.ss.effective 1439 0 = 1439 := by
  decide +kernel

/-- Today's plan with a bank swap for site 2 and the first registration's close at site 0, both of minute 540. -/
def swapAndClose (fired : SiteSet × SiteSet) (minute : Nat) : Device := { school .present with
  tb.second := 60 * minute, ss.confirm := List.replicate 12 .notSet
  ss.plans := [⟨[⟨⟨540, 4, .routeSwap⟩, fired.1, 0⟩, ⟨⟨540, 1, .regClose 1⟩, fired.2, 0⟩], [], false⟩] ++ List.replicate 7 ⟨[], [], false⟩ }

theorem test_witness_BellsRingAtTheirEffectiveMinute_order : (∀ c ∈ (swapAndClose (0, 0) 540).ss.confirm, c = .notSet) ∧
    (swapAndClose (0, 0) 540).ss.effective 540 2 = (swapAndClose (0, 0) 540).minute ∧
    topOfMinute (swapAndClose (0, 0) 540) = handClose 540 1 0 540 (exchangeBanks (swapAndClose (4, 1) 540)) ∧
    topOfMinute (swapAndClose (0, 0) 541) = swapAndClose (0, 0) 541 ∧
    reassess [0, 1, 2] (swapAndClose (0, 0) 541) = handClose 541 1 0 540 (exchangeBanks (swapAndClose (4, 1) 541)) ∧
    (handClose 559 1 0 540 (bell 9 559)).ss.confirm[0]? = some (.setAt 560) ∧
    (handClose 560 1 0 540 (bell 9 560)).ae.sweeps = [⟨.close, 1, 0, 1, .running⟩, ⟨.confirm, 1, 0, 1, .waiting⟩] ∧
    (let due : Device := { bell 9 560 with
       ss.plans := List.replicate 8 ⟨[], [], false⟩, ss.confirm := [.setAt 560, .setAt 561, .firedToday] ++ List.replicate 9 (.setAt 560)
       ae.sweeps := [⟨.close, 1, 0, 1, .running⟩] }
     (topOfMinute due).ss.confirm = [.firedToday, .setAt 561, .firedToday] ++ List.replicate 9 .firedToday ∧
     (topOfMinute due).ae.sweeps.take 3 = [⟨.close, 1, 0, 1, .running⟩, ⟨.confirm, 1, 0, 1, .waiting⟩, ⟨.confirm, 2, 0, 1, .running⟩]) := by
  decide +kernel

/-- A day of three entries over several sites, at minute 540: a bell behind the minute with one site passed over, a close behind it that has
fired at site 1, and a bell of the minute; two points are overdue. -/
def mixed : Device := { school .present with
  tb.second := 60 * 540
  ss.confirm := [.notSet, .setAt 539, .setAt 500] ++ List.replicate 9 .notSet
  ss.plans := [⟨[⟨⟨530, 7, .ring 1 1⟩, 0, 1⟩, ⟨⟨535, 3, .regClose 1⟩, 2, 0⟩, ⟨⟨540, 7, .ring 2 3⟩, 0, 0⟩], [], false⟩] ++
    List.replicate 7 ⟨[], [], false⟩ }

/-- The premises of the clause over any plan hold of it; a reassessment fires the overdue points by minute, then passes, closes and rings;
one for site 2 takes that site alone; and neither changes a device with its clock INVALID. -/
theorem test_witness_BellsRingAtTheirEffectiveMinute_any : 1 ≤ 1 ∧ mixed.tb.validity = .valid ∧ mixed.tb.today = .plan 1 ∧
    (let all := reassess [0, 1, 2] mixed
     all.ss.plan 1 = ⟨[⟨⟨530, 7, .ring 1 1⟩, 0, 7⟩, ⟨⟨535, 3, .regClose 1⟩, 3, 0⟩, ⟨⟨540, 7, .ring 2 3⟩, 7, 0⟩], [], false⟩ ∧
     all.ss.confirm.take 3 = [.setAt 555, .firedToday, .firedToday] ∧
     all.ae.sweeps = [⟨.confirm, 1, 2, 1, .running⟩, ⟨.confirm, 1, 1, 1, .running⟩, ⟨.close, 1, 0, 1, .running⟩] ∧
     (all.su.generator 2).playing.map (·.number) = some 3) ∧
    (let one := reassess [2] mixed
     one.ss.plan 1 = ⟨[⟨⟨530, 7, .ring 1 1⟩, 0, 5⟩, ⟨⟨535, 3, .regClose 1⟩, 2, 0⟩, ⟨⟨540, 7, .ring 2 3⟩, 4, 0⟩], [], false⟩ ∧
     one.ae.sweeps = [⟨.confirm, 1, 2, 1, .running⟩]) ∧
    (topOfMinute mixed).ss.plan 1 =
      ⟨[⟨⟨530, 7, .ring 1 1⟩, 0, 1⟩, ⟨⟨535, 3, .regClose 1⟩, 2, 0⟩, ⟨⟨540, 7, .ring 2 3⟩, 7, 0⟩], [], false⟩ ∧
    (let off : Device := { mixed with tb.validity := .invalid }
     off.tb.validity ≠ .valid ∧ topOfMinute off = off) := by decide +kernel

/-! ### The roll and the contacts -/

theorem test_witness_LoadPupilKeepsTheLinks : resultOf (.loadPupil 1 0 none 1 0 0 [none, none, none]) cold = some .range ∧
    resultOf (.loadPupil 1 2401 none 1 0 0 [none, none, none]) cold = some .range ∧
    resultOf (.loadPupil 1 1 none 8 0 0 [none, none, none]) cold = some .range ∧
    resultOf (.loadPupil 1 1 none 7 16 0 [none, none, none]) cold = some .range ∧
    resultOf (.loadPupil 1 2400 none 7 15 0 [none, none, none]) rolling = some .busy ∧
    resultOf (.loadPupil 1 2 none 1 0 0 [some 78, none, none]) (school .present) = some .notFound ∧
    resultOf (.loadPupil 1 2 none 1 0 0 [some 77, some 77, none]) (school .present) = some .duplicate ∧
    resultOf (.loadPupil 1 2 (some 7) 1 0 0 [none, none, none]) (school .present) = some .duplicate ∧
    resultOf (.loadPupil 1 9 none 1 0 0 [some 77, none, none])
      { school .present with ae.contacts := [{ carer with pupils := [1, 2, 3, 4, 5, 6] }] } = some .full ∧
    answerTo (.loadPupil 1 2400 none 7 15 31 [some 77, none, none]) (school .present) = some (okClamped true .empty) ∧
    (after (.loadPupil 1 2400 none 7 15 30 [some 77, none, none]) (school .present)).ae.contacts = [{ carer with pupils := [1, 2400] }] ∧
    (after (.loadPupil 1 1 none 2 0 0 [none, none, none]) (school .present)).ae.contacts = [{ carer with pupils := [] }] := by
  decide +kernel

theorem test_witness_ContactsKeepBothSides : Steady ⟨school .present, []⟩ ∧ resultOf (.loadContact 1 0 1 1 [1]) (school .present) = some .range ∧
    resultOf (.loadContact 1 5 1 1 []) (school .present) = some .range ∧
    resultOf (.loadContact 1 5 1 1 [1, 2, 3, 4, 5, 6, 7]) (school .present) = some .range ∧
    resultOf (.loadContact 1 5 1 1 [2401]) (school .present) = some .range ∧ resultOf (.loadContact 1 5 1 2 [1]) (school .present) = some .range ∧
    resultOf (.loadContact 1 5 1 1 [2]) (school .present) = some .notFound ∧
    resultOf (.loadContact 1 5 1 1 [1, 1]) (school .present) = some .duplicate ∧
    resultOf (.loadContact 1 5 1 1 [1]) { school .present with ae.pupils := [{ anna with slots := [some 1, some 2, some 3] }] } = some .full ∧
    answerTo (.loadContact 1 5 1 0 [1]) (school .present) = some (ok (.contactIndex 2)) ∧
    (after (.loadContact 1 5 1 0 [1]) (school .present)).ae.pupils = [{ anna with slots := [some 1, some 2, none] }] ∧
    answerTo (.loadContact 1 77 0 0 [1]) (school .present) = some (ok (.contactIndex 1)) ∧
    (school .present).ae.contacts.Pairwise (·.key < ·.key) ∧
    (after (.loadContact 1 76 1 0 [1]) (school .present)).ae.contacts.map (·.key) = [76, 77] ∧
    (after (.loadContact 1 78 1 0 [1]) (school .present)).ae.contacts.map (·.key) = [77, 78] ∧
    resultOf (.dropContact 1 0) (school .present) = some .range ∧ resultOf (.dropContact 1 5) (school .present) = some .notFound ∧
    (after (.dropContact 1 77) (school .present)).ae.pupils = [{ anna with slots := [none, none, none] }] := by decide +kernel

theorem test_witness_RollIsRead : resultOf (.queryPupil 1 0) cold = some .range ∧ resultOf (.queryPupil 1 2401) cold = some .range ∧
    resultOf (.queryPupil 1 2400) (school .present) = some .notFound ∧
    answerTo (.queryPupil 1 1) (school .present) = some (ok (.pupil anna [some (1, 77), none, none] 1)) ∧
    resultOf (.queryCard 1 0) cold = some .range ∧ resultOf (.queryContact 1 0) cold = some .range ∧
    resultOf (.queryCard 1 8) (school .present) = some .notFound ∧ answerTo (.queryCard 1 7) (school .present) = some (ok (.rollNumber 1)) ∧
    resultOf (.queryContact 1 78) (school .present) = some .notFound ∧ answerTo (.queryContact 1 77) (school .present) = some (ok (.contact carer)) ∧
    resultOf (.queryContacts 1 78) (school .present) = some .notFound ∧
    answerTo (.queryContacts 1 0) (school .present) = some (ok (.contacts [carer] 1)) ∧ resultOf (.queryGroup 1 16) cold = some .range ∧
    answerTo (.queryGroup 1 15) cold = some (ok (.group (List.replicate 10 none))) := by decide +kernel

theorem test_witness_PupilTablesAreWritten : resultOf (.dropPupil 1 0) cold = some .range ∧ resultOf (.dropPupil 1 2400) rolling = some .busy ∧
    resultOf (.dropPupil 1 2400) cold = some .notFound ∧ (after (.dropPupil 1 1) (school .present)).ae.contacts = [{ carer with pupils := [] }] ∧
    (after (.dropPupil 1 1) (school .present)).ae.roster = some [] ∧
    resultOf (.loadGroup 1 16 (List.replicate 10 ⟨0, 0⟩)) cold = some .range ∧
    resultOf (.loadGroup 1 15 (List.replicate 10 ⟨5, 0⟩)) cold = some .range ∧
    resultOf (.loadGroup 1 15 (List.replicate 10 ⟨0, 1⟩)) cold = some .range ∧
    (after (.loadGroup 1 15 (List.replicate 10 ⟨4, 2⟩)) cold).ae.groups[15]? = some (List.replicate 10 (some ⟨4, 2⟩)) ∧
    resultOf (.clearTallies 1 2401 1) cold = some .range ∧ resultOf (.clearTallies 1 1 8) cold = some .range ∧
    resultOf (.clearTallies 1 2400 7) cold = some .notFound ∧
    (after (.clearTallies 1 1 1) { school .present with ae.pupils := [{ anna with latePoints := 3, lateMinutes := 9 }] }).ae.pupils
      = [{ anna with lateMinutes := 9 }] ∧
    answerTo (.clearTallies 1 0 7) (school .present) = some (ok (.recordCount 1)) := by decide +kernel

/-! ### The roster, its sweeps and arrivals -/

theorem test_witness_DeskMarksMoveTheEntry : resultOf (.deskMark 1 0 1) (school .expected) = some .range ∧
    resultOf (.deskMark 1 2400 4) (school .expected) = some .range ∧ resultOf (.deskMark 1 2400 3) rolling = some .busy ∧
    resultOf (.deskMark 1 1 1) cold = some .state ∧ resultOf (.deskMark 1 2400 1) (school .expected) = some .notFound ∧
    (school .expected).ae.entry 1 = some (entryOf .expected) ∧ ((school .expected).ae.pupil 1).isSome = true ∧
    answerTo (.deskMark 1 1 1) (school .expected) = some (ok (.mark .expected .present)) ∧
    answerTo (.deskMark 1 1 1) (school .provisional) = some (ok (.mark .provisional .present)) ∧
    answerTo (.deskMark 1 1 1) (school .unexplained) = some (ok (.mark .unexplained .present)) ∧
    answerTo (.deskMark 1 1 2) (school .provisional) = some (ok (.mark .provisional .explained)) ∧
    answerTo (.deskMark 1 1 2) (school .unexplained) = some (ok (.mark .unexplained .explained)) ∧
    answerTo (.deskMark 1 1 3) (school .expected) = some (ok (.mark .expected .excusedAway)) ∧
    resultOf (.deskMark 1 1 3) (school .provisional) = some .state ∧ resultOf (.deskMark 1 1 2) (school .expected) = some .state ∧
    resultOf (.deskMark 1 1 1) (school .present) = some .state := by decide +kernel

theorem test_witness_DeskMarksMoveTheEntry_absence_rule : absenceRuleFor true 1 none valid = valid ∧
    absenceRuleFor true 1 (some 3) valid = valid ∧
    (absenceRuleFor false 1 (some 3) { valid with nu.urgent := [absent 2, absent 3] }).nu.urgent = [absent 2] ∧
    (let follow : Notice := { note 1 (.arrivedAfterCall 3) with composed := 32400 }
     let gone (d : Device) := absenceRuleFor true 1 (some 3) { d with tb.date := 100, tb.second := 32400 }
     (gone { up with rl.ring := [⟨absent 3, 1, 1⟩] }).nu.urgent = [follow] ∧
     (gone { valid with nu.awaiting := [⟨absent 3, 60⟩] }).nu.urgent = [follow] ∧
     (gone { valid with nu.awaiting := [⟨absent 3, 60⟩] }).nu.awaiting = [] ∧
     (gone { valid with nu.calledToday := [⟨1, 3, .delivered, 1, 77, 1⟩] }).nu.urgent = [follow] ∧
     (gone { valid with nu.calledToday := [⟨2, 3, .delivered, 1, 77, 1⟩] }).nu.urgent = [] ∧
     (gone { valid with
       nu.calledToday := [⟨1, 3, .delivered, 1, 77, 1⟩], nu.bulk := List.replicate 256 (bulletin 9) }).nu.calls.map (·.reason) = [.queueFull]) ∧
    absenceRuleFor false 1 (some 3) { up with rl.ring := [⟨absent 3, 1, 1⟩] } = { up with rl.ring := [⟨absent 3, 1, 1⟩] } ∧
    (absenceRuleFor false 1 (some 3) { valid with nu.awaiting := [⟨absent 3, 60⟩] }).nu.awaiting = [] ∧
    (absenceRuleFor true 1 (some 3) { valid with nu.calls := [⟨8, .noContact, true, 0, 0, .notice (absent 3) none false⟩] }).nu.calls
      = [⟨8, .noContact, true, 0, 0, .notice (absent 3) none true⟩] := by decide +kernel

theorem test_witness_RosterAndCountsAreRead : Steady ⟨cold, []⟩ ∧ resultOf (.queryRoster 1 0 0) cold = some .range ∧
    resultOf (.queryRoster 1 1 512) cold = some .range ∧ resultOf (.queryRoster 1 2400 511) cold = some .state ∧
    answerTo (.queryRoster 1 1 2) (school .expected) = some (ok (.roster [entryOf .expected] 0)) ∧
    answerTo (.queryRoster 1 1 1) (school .expected) = some (ok (.roster [] 0)) ∧
    answerTo (.queryRoster 1 1 256) (school .out) = some (ok (.roster [entryOf .out] 0)) ∧
    answerTo (.queryRoster 1 1 255) (school .out) = some (ok (.roster [] 0)) ∧
    answerTo (.queryRoster 1 1 0) (school .out) = some (ok (.roster [entryOf .out] 0)) ∧ resultOf (.querySweeps 1) cold = some .ok ∧
    resultOf (.snapshot 1) cold = some .state ∧ answerTo (.snapshot 1) (school .expected) = some (ok (.snapshotSecond 32400)) ∧
    (after (.queryCounts 1) { school .expected with ae.latch := some ⟨(school .expected).ae.counts, 5⟩ }).ae.latch = none ∧
    (answerTo (.snapshot 1) { school .expected with ae.latch := some ⟨(school .expected).ae.counts, 5⟩ }) =
      some ⟨.ok, { alreadyLatched := true }, .snapshotSecond 5⟩ ∧
    (answerTo (.queryCounts 1) cold).map (·.flags.noRoster) = some true ∧
    ({ cold.ae with roster := some [entryOf .present, { entryOf .late with band := some .lateExcused }, { entryOf .late with band := some .veryLate },
      { entryOf .late with band := some .late }, { entryOf .out with due := some ⟨1, 2⟩ }, { entryOf .notDue with due := none }] } : Attendance).counts
      = ⟨[⟨4, 0, 1, 2, 1, 0, 0, 0, 0, 0⟩, ⟨0, 0, 0, 0, 0, 0, 0, 0, 0, 0⟩, ⟨1, 0, 0, 0, 0, 0, 0, 0, 0, 1⟩], 1, 6⟩ := by decide +kernel

def sweeping (kind : SweepKind) (status : SweepStatus) (cursor : Nat) (state : RosterState) : Device :=
  { school state with ae.sweeps := [⟨kind, 1, 0, cursor, status⟩] }

theorem test_witness_CloseSweepMakesProvisional : after (.closeSweepStep 1 0) cold = cold ∧
    ((after (.closeSweepStep 1 0) (sweeping .close .running 1 .expected)).ae.entry 1).map (·.state) = some .provisional ∧
    (after (.closeSweepStep 1 0) (sweeping .close .running 2399 .expected)).ae.sweeps = [⟨.close, 1, 0, 2400, .running⟩] ∧
    (after (.closeSweepStep 1 0) { school .present with
      ae.sweeps := [⟨.close, 1, 0, 2400, .running⟩, ⟨.confirm, 1, 0, 1, .waiting⟩] }).ae.sweeps = [⟨.confirm, 1, 0, 1, .running⟩] := by
  decide +kernel

theorem test_witness_ConfirmSweepMakesUnexplained :
    after (.confirmSweepStep 1 0) (sweeping .confirm .paused 1 .provisional) = sweeping .confirm .paused 1 .provisional ∧
    (after (.confirmSweepStep 1 0) (sweeping .confirm .running 1 .expected)).ae.sweeps = [⟨.confirm, 1, 0, 2, .running⟩] ∧
    (after (.confirmSweepStep 1 0) (sweeping .confirm .running 2399 .expected)).ae.sweeps = [⟨.confirm, 1, 0, 2400, .running⟩] ∧
    (after (.confirmSweepStep 1 0) (sweeping .confirm .running 2400 .expected)).ae.sweeps = [] ∧
    ((after (.confirmSweepStep 1 0) { sweeping .confirm .running 1 .provisional with
      ae.excuses := [excuse .lateExpected 100 100] }).ae.entry 1).map (·.state) = some .explained ∧
    (after (.confirmSweepStep 1 0) { sweeping .confirm .running 1 .provisional with
      nu.urgent := (List.range 256).map fun n => absent (n + 1) }).ae.sweeps = [⟨.confirm, 1, 0, 1, .paused⟩] ∧
    (after (.confirmSweepStep 1 0) { sweeping .confirm .running 1 .provisional with
      nu.urgent := (List.range 255).map fun n => absent (n + 1) }).nu.nextTag = 257 ∧
    ((after (.confirmSweepStep 1 0) { sweeping .confirm .running 1 .provisional with
      ae.contacts := [{ carer with mayNotify := false }] }).nu.calls.map (·.reason)) = [.noContact] ∧
    (let two : Attendance := { cold.ae with
       pupils := [{ anna with slots := [some 2, none, some 1] }], contacts := [carer, ⟨2, 78, true, false, [1]⟩] }
     two.notifiable 1 0 = some (3, carer) ∧ two.notifiable 1 3 = none ∧ two.notifiable 2 0 = none) := by decide +kernel

/-- Today's plan with the first registration open from 08:50 to 09:05, at a second of the day, with 5 minutes of grace. -/
def morning (second : Nat) (state : RosterState) : Device := { school state with
  tb.second := second
  ss.sites := List.replicate 3 ⟨0, 5, 20, false, 0⟩
  ss.plans := [⟨[⟨⟨530, 1, .regStart 1⟩, 1, 0⟩, ⟨⟨545, 1, .regClose 1⟩, 0, 0⟩], [], false⟩] ++ List.replicate 7 ⟨[], [], false⟩ }

theorem test_witness_LatenessIsJudged : (morning 0 .expected).startMinute 1 0 = some 530 ∧ (morning 0 .expected).startMinute 2 0 = none ∧
    (morning 32701 .expected).judge anna (entryOf .expected) = (.veryLate, 16) ∧
    (morning 31800 .expected).judgeAt anna ⟨1, 0⟩ = (.onTime, 0) ∧ (morning 31801 .expected).judgeAt anna ⟨1, 0⟩ = (.grace, 0) ∧
    (morning 32100 .expected).judgeAt anna ⟨1, 0⟩ = (.grace, 0) ∧ (morning 32101 .expected).judgeAt anna ⟨1, 0⟩ = (.late, 6) ∧
    (morning 32700 .expected).judgeAt anna ⟨1, 0⟩ = (.late, 15) ∧ (morning 32701 .expected).judgeAt anna ⟨1, 0⟩ = (.veryLate, 16) ∧
    ({ morning 32701 .expected with ae.excuses := [⟨1, .lateExpected, 100, 100, 545, .desk, .pending⟩] }).judgeAt anna ⟨1, 0⟩
      = (.lateExcused, 16) ∧
    ({ morning 32760 .expected with ae.excuses := [⟨1, .lateExpected, 100, 100, 545, .desk, .pending⟩] }).judgeAt anna ⟨1, 0⟩
      = (.veryLate, 16) := by decide +kernel

def arrives (inward : Bool) (number : Nat) : Arrival := ⟨1, 0, number, false, inward, .ill⟩

theorem test_witness_ArrivalsAreTaken : (school .present).resolve (arrives true 9) = none ∧
    (takeArrival (arrives true 9) (school .present)).1.verdict = .unknownCard ∧ (school .present).resolve (arrives true 7) = some anna ∧
    (takeArrival (arrives true 7) { school .present with tb.validity := .invalid }).1.verdict = .untimed ∧
    (takeArrival (arrives true 7) { school .present with ae.roster := none }).1.verdict = .untimed ∧
    (takeArrival (arrives true 7) (school .present)).1.verdict = .alreadyIn ∧
    (takeArrival (arrives true 7) (school .notDue)).1.verdict = .notExpected ∧
    (takeArrival (arrives true 7) { school .out with ae.roster := some [{ entryOf .out with prior := some .late }] }).1.verdict = .returned ∧
    (takeArrival (arrives false 7) (school .expected)).1.verdict = .notIn ∧
    (takeArrival (arrives true 7) (morning 31800 .expected)).1.verdict = .onTime ∧
    (takeArrival (arrives true 7) (morning 31801 .provisional)).1.verdict = .grace ∧
    (takeArrival (arrives true 7) (morning 32101 .expected)).1.lateness = 6 ∧
    (takeArrival (arrives true 7) (morning 32101 .expected)).1.verdict = .late ∧
    (takeArrival (arrives true 7) (morning 32701 .expected)).1.verdict = .veryLate ∧
    (takeArrival (arrives true 7) { morning 32701 .expected with
      ae.excuses := [⟨1, .lateExpected, 100, 100, 545, .desk, .pending⟩] }).1.verdict = .lateExcused ∧
    ((takeArrival (arrives true 7) (morning 32701 .provisional)).2.ae.pupils.map (·.latePoints)) = [2] ∧
    (takeArrival (arrives false 7) (school .late)).1.verdict = .signedOut ∧
    ((takeArrival (arrives false 7) { school .present with ae.excuses := [⟨1, .leavingEarly, 100, 100, 570, .desk, .pending⟩] }).2.ae.excuses.map
      (·.state)) = [.applied] := by decide +kernel

theorem test_witness_ArrivalsAreTaken_parts : (school .present).resolve { arrives true 1 with keyed := true } = some anna ∧
    ({ school .present with ae.pupils := [{ anna with roll := 2401 }] } : Device).resolve { arrives true 2401 with keyed := true } = none ∧
    (let leaving (second : Nat) : Device := { school .present with
       tb.second := second, ae.excuses := [⟨1, .leavingEarly, 99, 100, 570, .desk, .pending⟩] }
     (leaving 32400).leavingExcuse 1 = some ⟨1, .leavingEarly, 99, 100, 570, .desk, .pending⟩ ∧ (leaving 32399).leavingExcuse 1 = none ∧
     (leaving 32400).ae.excuseFor 1 .leavingEarly 101 = none) ∧
    (journalOf (arrives false 7) true ⟨.signedOut, 1, 0, none, 5⟩ true 100).card = 7 ∧
    (journalOf { arrives false 7 with keyed := true } true ⟨.signedOut, 1, 0, some 2, 5⟩ true 100).wrongSite = true ∧
    (composeLeftSite .ill 1 (school .present)).nu.urgent = [{ note 1 (.leftSite .ill) with composed := 32400 }] ∧
    (composeLeftSite .ill 1 { school .present with ae.contacts := [] }).nu.calls.map (fun e => (e.reason, e.urgent)) = [(.noContact, true)] ∧
    (composeLeftSite .ill 1 { school .present with nu.bulk := List.replicate 256 (bulletin 9) }).nu.calls.map (·.reason) = [.queueFull] := by
  decide +kernel

/-- The entry explained by an excuse, with absence notice 3 queued. -/
def explained (state : RosterState) : Device := { morning 32701 state with
  ae.roster := some [{ entryOf state with absenceTag := some 3, excuseRef := some ⟨.lateExpected, 100⟩ }]
  ae.excuses := [⟨1, .lateExpected, 100, 100, 545, .desk, .applied⟩], nu.urgent := [absent 3] }

theorem test_witness_ArrivalsAreTaken_judged :
    (explained .explained).judge anna { entryOf .explained with absenceTag := some 3 } = (.lateExcused, 16) ∧
    (let d := (takeArrival (arrives true 7) (explained .explained)).2
     d.ae.excuses.map (·.state) = [.overridden] ∧ d.nu.urgent = [] ∧ d.ae.journal.map (·.excuseOverridden) = [true] ∧
     d.ae.pupils.map (fun p => (p.latePoints, p.lateMinutes)) = [(0, 16)]) ∧
    (let d := (takeArrival (arrives true 7) (explained .unexplained)).2
     d.ae.excuses.map (·.state) = [.applied] ∧ d.nu.urgent = [] ∧
     (d.ae.entry 1).map (fun e => (e.state, e.excuseRef)) = some (.late, some ⟨.lateExpected, 100⟩)) ∧
    (takeArrival (arrives true 7) { explained .excusedAway with ae.excuses := [] }).2.nu.urgent = [absent 3] ∧
    (let late : Device := { morning 32701 .expected with
       ae.pupils := [{ anna with latePoints := 4 }], ae.lateStep := 5, ss.sites := List.replicate 3 ⟨0, 5, 20, true, 0⟩ }
     ((takeArrival (arrives true 7) late).2.nu.routine.map (·.body)) = [.lateRecorded .veryLate 16, .latePattern 6 .veryLate] ∧
     ((takeArrival (arrives true 7) { late with ae.contacts := [] }).2.nu.routine) = [] ∧
     ((takeArrival (arrives true 7) { late with nu.bulk := (List.range 240).map fun n => bulletin (n + 9) }).2.nu.calls.map (·.reason))
       = [.queueFull, .queueFull]) := by decide +kernel

def record (serial : Nat) : JournalRecord := ⟨serial, 0, 0, 1, 0, 9, .inward, none, .unknownCard, 0, false, false, false⟩
def journal (n cursor : Nat) : Device :=
  { valid with ae.journal := (List.range n).map fun i => record (i + 1), ae.nextSerial := n + 1, op.readCursor := cursor }

theorem test_witness_JournalIsKeptAndRead : (appendJournal (record 0) (journal 1023 1)).op.lostCount = 0 ∧
    (appendJournal (record 0) (journal 1024 2)).op.lostCount = 0 ∧ (appendJournal (record 0) (journal 1024 1)).op.readCursor = 2 ∧
    (appendJournal (record 0) (journal 1024 1)).op.lostCount = 1 ∧
    (appendJournal (record 0) { journal 1 1 with ae.nextSerial := 16777215 }).ae.nextSerial = 1 ∧
    answerTo (.readJournal 1 3) (journal 2 1) = some ⟨.ok, { releaseIgnored := true }, .journal [record 1, record 2] 2 0⟩ ∧
    answerTo (.readJournal 1 0) (journal 2 2) = some ⟨.ok, {}, .journal [record 2] 1 0⟩ ∧
    answerTo (.readJournal 1 1) (journal 2 1) = some ⟨.ok, {}, .journal [record 2] 1 0⟩ := by decide +kernel

/-! ### Excuses, messages and notices -/

theorem test_witness_MergingKeepsExcusesApart : (excuse .absent 5 6).first ≤ (excuse .absent 5 6).last ∧
    recordIn (excuse .absent 5 6) [excuse .absent 3 4, excuse .absent 8 9] = [excuse .absent 3 4 |> fun x => { x with last := 6 }, excuse .absent 8 9] ∧
    recordIn (excuse .absent 5 7) [excuse .absent 3 4, excuse .absent 8 9] = [excuse .absent 3 9] ∧
    recordIn (excuse .absent 5 6) [{ excuse .absent 5 6 with pupil := 2 }, excuse .lateExpected 7 7]
      = [excuse .absent 5 6, { excuse .absent 5 6 with pupil := 2 }, excuse .lateExpected 7 7] ∧
    (mergedIn (excuse .absent 5 5) [{ excuse .absent 4 4 with state := .applied }, { excuse .absent 6 6 with state := .overridden }]).state
      = .overridden ∧
    (mergedIn (excuse .absent 5 5) [{ excuse .absent 4 4 with state := .applied }]).state = .applied ∧
    (mergedIn (excuse .absent 5 5) []).state = .pending := by decide +kernel

/-- 512 excuses of another pupil. -/
def fullExcuses : List Excuse := (List.range 512).map fun n => { excuse .absent (3 * n) (3 * n) with pupil := 2 }

theorem test_witness_ExcuseRequestsKeepTheTable : resultOf (.addExcuse 1 1 0 1 1 0) cold = some .range ∧
    resultOf (.addExcuse 1 1 4 1 1 0) cold = some .range ∧ resultOf (.addExcuse 1 1 1 36525 36525 0) cold = some .range ∧
    resultOf (.addExcuse 1 1 1 5 4 0) cold = some .range ∧ resultOf (.addExcuse 1 1 1 98 99 0) (school .expected) = some .range ∧
    resultOf (.addExcuse 1 2400 3 36524 36524 0) rolling = some .busy ∧ resultOf (.addExcuse 1 2400 3 36524 36524 0) cold = some .notFound ∧
    resultOf (.addExcuse 1 1 1 100 100 0) { school .expected with ae.excuses := fullExcuses } = some .full ∧
    answerTo (.addExcuse 1 1 2 100 101 1440) { school .expected with ae.roster := none }
      = some (okClamped true (.excuseAdded 100 101 1 .unchanged)) ∧
    answerTo (.addExcuse 1 1 1 99 100 0) (school .expected) = some (ok (.excuseAdded 99 100 1 .changed)) ∧
    ((after (.addExcuse 1 1 1 100 100 0) (school .expected)).ae.entry 1).map (·.state) = some .excusedAway ∧
    answerTo (.addExcuse 1 1 1 101 101 0) (school .expected) = some (ok (.excuseAdded 101 101 1 .unchanged)) ∧
    answerTo (.addExcuse 1 1 1 100 100 0) { school .expected with ae.roster := some [] } = some (ok (.excuseAdded 100 100 1 .unchanged)) ∧
    answerTo (.addExcuse 1 1 2 100 100 0) (school .expected) = some (ok (.excuseAdded 100 100 1 .unchanged)) ∧
    answerTo (.addExcuse 1 1 3 100 100 0) (school .provisional) = some (ok (.excuseAdded 100 100 1 .unchanged)) ∧
    answerTo (.addExcuse 1 1 1 100 100 0) (school .out) = some (ok (.excuseAdded 100 100 1 .alreadyIn)) ∧
    answerTo (.addExcuse 1 1 1 100 100 0) (school .explained) = some (ok (.excuseAdded 100 100 1 .unchanged)) ∧
    ((after (.addExcuse 1 1 2 100 100 0) (school .provisional)).ae.entry 1).map (·.state) = some .explained ∧
    (after (.addExcuse 1 1 2 100 100 0) { school .unexplained with
      ae.roster := some [{ entryOf .unexplained with absenceTag := some 3 }], nu.urgent := [absent 3] }).nu.urgent = [] ∧
    ((after (.addExcuse 1 1 1 101 102 0) { school .excusedAway with
      ae.roster := some [{ entryOf .excusedAway with excuseRef := some ⟨.absent, 99⟩ }]
      ae.excuses := [excuse .absent 99 100] }).ae.entry 1).bind (·.excuseRef) = some ⟨.absent, 99⟩ ∧
    resultOf (.removeExcuse 1 1 1 36525) cold = some .range ∧ resultOf (.removeExcuse 1 1 1 5) rolling = some .busy ∧
    resultOf (.removeExcuse 1 1 1 5) cold = some .notFound ∧
    answerTo (.removeExcuse 1 1 1 5) { cold with ae.excuses := [excuse .absent 4 5] } = some (ok (.excuseRemoved 4 5)) ∧
    resultOf (.queryExcuses 1 36525 0) cold = some .range ∧ resultOf (.queryExcuses 1 0 2401) cold = some .range ∧
    answerTo (.queryExcuses 1 4 1) { cold with ae.excuses := [excuse .absent 3 3, excuse .absent 4 5] }
      = some (ok (.excuses [(excuse .absent 4 5, 0)] 2)) := by decide +kernel

/-- The code of the last ROUTINE notice, when it acknowledges a message. -/
def ackCode (d : Device) : Option AckCode :=
  d.nu.routine.getLast?.bind fun n => match n.body with
    | .ackParent code _ _ _ _ => some code
    | _ => none

theorem test_witness_ParentMessagesAreAcknowledged : (school .expected).nu.queueCount < 240 ∧
    (school .expected).ae.sender 5 = none ∧ ackCode (takeMessage ⟨5, 1, 1, 0, 0, 1⟩ (school .expected)) = some .unknownPupil ∧
    ackCode (takeMessage ⟨77, 1, 1, 0, 0, 1⟩ { school .expected with ae.contacts := [{ carer with pupils := [] }] }) = some .unknownPupil ∧
    ackCode (takeMessage ⟨77, 1, 5, 0, 0, 1⟩ (school .expected)) = some .accepted ∧
    ackCode (takeMessage ⟨77, 1, 5, 0, 0, 1⟩ { school .expected with
      nu.calls := List.replicate 128 ⟨1, .freeText, false, 0, 0, .parentUnaware 1 1⟩ }) = some .notRecorded ∧
    ackCode (takeMessage ⟨77, 1, 1, 0, 0, 1⟩ { school .expected with ae.contacts := [{ carer with mayExcuse := false }] })
      = some .notAuthorised ∧
    (takeMessage ⟨77, 1, 1, 0, 0, 1⟩ { school .expected with ae.contacts := [{ carer with mayExcuse := false }] }).nu.calls.map
      (fun e => (e.reason, e.urgent)) = [(.notAuthorised, false)] ∧
    (takeMessage ⟨77, 1, 6, 0, 0, 1⟩ (school .expected)).nu.calls.map (fun e => (e.reason, e.urgent)) = [(.notRecorded, true)] ∧
    ackCode (takeMessage ⟨77, 1, 6, 0, 0, 1⟩ (school .expected)) = some .notRecorded ∧
    ackCode (takeMessage ⟨77, 1, 1, 0, 0, 1⟩ { school .expected with tb.validity := .invalid }) = some .notRecorded ∧
    ({ school .expected with ae.roster := none }).recordable ⟨77, 1, 2, 14, 0, 1⟩ carer
      = some [⟨1, .absent, 100, 113, 0, .contact 1, .pending⟩] ∧
    ackCode (takeMessage ⟨77, 1, 2, 14, 0, 1⟩ { school .expected with ae.roster := none }) = some .accepted ∧
    (school .expected).recordable ⟨77, 1, 1, 0, 0, 1⟩ carer = some [⟨1, .absent, 100, 100, 0, .contact 1, .pending⟩] ∧
    ackCode (takeMessage ⟨77, 1, 1, 0, 0, 1⟩ (school .present)) = some .alreadyIn ∧
    ackCode (takeMessage ⟨77, 1, 4, 0, 0, 1⟩ (school .present)) = some .accepted ∧
    ackCode (takeMessage ⟨77, 1, 1, 0, 0, 1⟩ (school .expected)) = some .accepted ∧
    ((takeMessage ⟨77, 1, 1, 0, 0, 1⟩ (school .provisional)).ae.entry 1).map (·.state) = some .explained := by decide +kernel

/-- The excuses of a message the carer sends, of an intent, a day count and a minute, and with 240 notices queued. -/
def sends (intent days minute : Nat) (d : Device) : Device := takeContent (.parent 77 1 intent days minute 1) d
def crowded : Device := { school .expected with nu.bulk := List.replicate 240 (bulletin 9) }

theorem test_witness_ParentMessagesAreAcknowledged_all :
    (sends 1 0 0 crowded).nu.calls.map (fun e => (e.reason, e.urgent)) = [(.queueFull, false)] ∧
    (sends 1 0 0 crowded).ae.excuses = [⟨1, .absent, 100, 100, 0, .contact 1, .applied⟩] ∧
    (sends 9 0 0 crowded).nu.calls.map (·.reason) = [.notRecorded, .queueFull] ∧
    (sends 2 99 0 (school .expected)).ae.excuses = [⟨1, .absent, 100, 113, 0, .contact 1, .applied⟩] ∧
    (sends 2 0 0 (school .expected)).ae.excuses = [⟨1, .absent, 100, 100, 0, .contact 1, .applied⟩] ∧
    (sends 3 0 9999 (school .provisional)).ae.excuses = [⟨1, .lateExpected, 100, 100, 1439, .contact 1, .applied⟩] ∧
    (sends 4 0 600 (school .expected)).ae.excuses = [⟨1, .leavingEarly, 100, 100, 600, .contact 1, .pending⟩] ∧
    (sends 1 0 0 { school .expected with ae.excuses := fullExcuses }).ae.excuses = fullExcuses ∧
    (recordAll [excuse .absent 100 100, { excuse .absent 100 100 with pupil := 2 }] (school .present)).1 = [.alreadyIn, .unchanged] := by
  decide +kernel

def fanning (cursor : Nat) : Device := { school .present with nu.fanout := ⟨.running, 9, 1, 1, cursor, 0, 0, .notYet⟩ }

theorem test_witness_BulletinsFanOut : resultOf (.composeBulletin 1 0 1 1) cold = some .range ∧ resultOf (.composeBulletin 1 1 128 1) cold = some .range ∧
    resultOf (.composeBulletin 1 1 1 8) cold = some .range ∧ resultOf (.composeBulletin 1 1 127 7) rolling = some .busy ∧
    resultOf (.composeBulletin 1 1 127 7) (fanning 1) = some .state ∧ resultOf (.composeBulletin 1 1 127 7) cold = some .ok ∧
    resultOf (.stopBulletin 1) rolling = some .busy ∧ resultOf (.queryFanout 1) rolling = some .busy ∧ resultOf (.stopBulletin 1) cold = some .ok ∧
    (after (.stopBulletin 1) (fanning 1)).nu.fanout.lastEnd = .stopped ∧ resultOf (.queryFanout 1) cold = some .ok ∧
    after .fanoutStep cold = cold ∧ (after .fanoutStep (fanning 2399)).nu.fanout.cursor = 2400 ∧
    (after .fanoutStep (fanning 2400)).nu.fanout.lastEnd = .complete ∧ (fanning 1).ae.groups[0]? = some (List.replicate 10 (some ⟨1, 0⟩)) ∧
    (after .fanoutStep { fanning 1 with nu.fanout.sites := 2 }).nu.bulk = [] ∧
    (after .fanoutStep { fanning 1 with ae.contacts := [{ carer with mayNotify := false }] }).nu.fanout.passedBy = 1 ∧
    (after .fanoutStep { fanning 1 with nu.routine := (List.range 192).map fun n => note (n + 1) (.lateRecorded .late 1) }).nu.fanout.status
      = .paused ∧
    (after .fanoutStep { fanning 1 with nu.routine := (List.range 191).map fun n => note (n + 1) (.lateRecorded .late 1) }).nu.bulk.length = 1 := by
  decide +kernel

def call (number : Nat) (urgent : Bool) : CallEntry := ⟨number, .freeText, urgent, 0, 0, .parentUnaware 1 1⟩
def calling (n : Nat) : Device := { valid with nu.calls := (List.range n).map fun i => call (i + 1) false }

theorem test_witness_DeskCallsAreKeptAndRead :
    (addCall .freeText false (.parentUnaware 1 1) (calling 128)).op.holds .callsFull = true ∧
    (addCall .parentUnaware true (.parentUnaware 1 1) (calling 127)).nu.calls.map (·.number) = 128 :: (List.range 127).map (· + 1) ∧
    (addCall .freeText false (.parentUnaware 1 1) { cold with nu.nextCall := 65535 }).nu.nextCall = 1 ∧
    (addCall .freeText false (.parentUnaware 1 1) { cold with nu.nextCall := 65535, nu.calls := [call 65535 false, call 1 false] }).nu.nextCall = 3 ∧
    { cold with nu.nextTag := 65535, nu.urgent := [absent 65535], nu.bulk := [bulletin 1] }.freeTag = 2 ∧ cold.heldTags.length < 65535 ∧
    (toCalls .queueFull none (bulletin 3) cold).nu.calls.map (·.urgent) = [false] ∧
    (toCalls .relayDown none (bulletin 3) cold).nu.calls.map (·.urgent) = [true] ∧
    resultOf (.closeCall 1 1) rolling = some .busy ∧ resultOf (.queryNotice 1 1) rolling = some .busy ∧
    resultOf (.closeCall 1 0) cold = some .notFound ∧ answerTo (.closeCall 1 2) (calling 2) = some (ok (.callClosed false .freeText)) ∧
    resultOf (.queryCalls 1 0) cold = some .range ∧ resultOf (.queryCalls 1 129) cold = some .range ∧
    resultOf (.queryCalls 1 128) rolling = some .busy ∧ answerTo (.queryCalls 1 2) (calling 2) = some (ok (.calls [call 2 false] 2)) ∧
    answerTo (.queryNotice 1 3) { valid with nu.bulk := [bulletin 3] } = some (ok (.notice (bulletin 3) .queue none none)) ∧
    answerTo (.queryNotice 1 3) { up with rl.ring := [⟨bulletin 3, 1, 1⟩] } = some (ok (.notice (bulletin 3) .ring none none)) ∧
    answerTo (.queryNotice 1 3) { valid with nu.awaiting := [⟨absent 3, 60⟩] } = some (ok (.notice (absent 3) .awaiting none (some 60))) ∧
    answerTo (.queryNotice 1 3) { valid with nu.calls := [⟨8, .noContact, true, 0, 0, .notice (absent 3) none false⟩] }
      = some (ok (.notice (absent 3) .calls (some 8) none)) ∧
    answerTo (.queryNotice 1 3) { valid with nu.calledToday := [⟨1, 3, .delivered, 1, 77, 1⟩] } = some (ok (.noticeClosed 1 .delivered)) ∧
    resultOf (.queryNotice 1 3) valid = some .notFound ∧ resultOf (.queryNotices 1 2 1) cold = some .range ∧
    resultOf (.queryNotices 1 1 0) cold = some .range ∧ resultOf (.queryNotices 1 1 1) cold = some .ok ∧
    resultOf (.queryNotices 1 3 1) cold = some .ok := by decide +kernel

def wanted : Device := { school .unexplained with
  ae.roster := some [{ entryOf .unexplained with absenceTag := some 3 }], nu.awaiting := [⟨absent 3, 0⟩] }

theorem test_witness_OldNoticesGoToTheDesk : after (.outcomeTimeout 3) cold = cold ∧ (after (.outcomeTimeout 3) wanted).nu.calls.map (·.reason) = [.noOutcome] ∧
    (after (.outcomeTimeout 3) { wanted with ae.roster := some [entryOf .explained] }).nu.calls = [] ∧
    (after (.outcomeTimeout 3) { wanted with nu.calls := (calling 128).nu.calls }).op.holds .callsFull = true ∧
    after (.relayDownFallback 3) { up with nu.urgent := [absent 3] } = { up with nu.urgent := [absent 3] } ∧
    after (.relayDownFallback 3) cold = cold ∧
    (after (.relayDownFallback 3) { cold with nu.urgent := [absent 3] }).nu.calls.map (·.reason) = [.relayDown] ∧
    (after (.relayDownFallback 3) { calling 128 with nu.urgent := [absent 3] }).nu.urgent = [] := by decide +kernel

/-- An OUTCOME message for notice 3 handed on. -/
def outcome (value code : Nat) : Device → Device := takeContent (.outcome 3 value code)

theorem test_witness_OldNoticesGoToTheDesk_outcomes : outcome 0 0 wanted = wanted ∧ outcome 4 0 wanted = wanted ∧ outcome 1 0 valid = valid ∧
    (outcome 1 0 wanted).nu.calledToday = [⟨1, 3, .delivered, 1, 77, 1⟩] ∧
    ((outcome 2 1 wanted).ae.entry 1).map (·.state) = some .explained ∧ ((outcome 2 4 wanted).ae.entry 1).map (·.state) = some .unexplained ∧
    ((outcome 2 2 { wanted with ae.contacts := [{ carer with mayExcuse := false }] }).ae.entry 1).map (·.state) = some .unexplained ∧
    ((outcome 2 1 { wanted with ae.contacts := [{ carer with key := 78 }] }).ae.entry 1).map (·.state) = some .unexplained ∧
    (outcome 2 3 wanted).nu.calls.map (·.reason) = [.parentUnaware] ∧ (outcome 2 3 { wanted with nu.calls := (calling 128).nu.calls }).op.holds .callsFull = true ∧
    (outcome 3 0 { wanted with ae.roster := none }).nu.calls = [] ∧ (outcome 3 0 wanted).nu.calls.map (·.reason) = [.unreachableAll] ∧
    (outcome 3 0 { wanted with nu.awaiting := [⟨{ note 3 (.leftSite .ill) with subjectDay := 99 }, 0⟩] }).nu.calls.map (·.content)
      = [.notice { note 3 (.leftSite .ill) with subjectDay := 99 } none false] ∧
    (let next := outcome 3 0 { wanted with
       ae.pupils := [{ anna with slots := [some 1, some 2, none] }], ae.contacts := [carer, ⟨2, 78, true, true, [1]⟩] }
     next.nu.urgent = [{ absent 1 with contact := 2, key := 78, step := 2, composed := 32400 }] ∧
     (next.ae.entry 1).map (·.absenceTag) = some (some 1)) ∧
    (let next := outcome 3 0 { wanted with
       nu.urgent := List.replicate 256 (absent 900)
       ae.pupils := [{ anna with slots := [some 1, some 2, none] }], ae.contacts := [carer, ⟨2, 78, true, true, [1]⟩] }
     next.nu.calls.map (·.reason) = [.queueFull] ∧ next.nu.urgent.length = 256 ∧
     (next.ae.entry 1).map (·.absenceTag) = some (some 1)) ∧
    (outcome 2 7 { up with rl.ring := [⟨absent 3, 1, 1⟩] }).rl.ring.map (·.notice.kept) = [some (.replied 7)] ∧
    (outcome 3 0 { valid with nu.calls := [⟨8, .noContact, true, 0, 0, .notice (absent 3) none false⟩] }).nu.calls.map (·.content)
      = [.notice (absent 3) (some .unreachable) false] ∧
    receipt (bulletin 3) valid = valid ∧ (receipt (absent 3) valid).nu.awaiting = [⟨absent 3, 1200⟩] ∧
    (receipt { absent 3 with kept := some .delivered } (school .unexplained)).nu.calledToday.map (·.reason) = [.delivered] ∧
    (receipt (absent 3) { school .unexplained with
      nu.awaiting := List.replicate 192 ⟨absent 9, 1⟩ }).nu.calledToday.map (·.reason) = [.sentUntracked] ∧
    (receipt (note 3 (.leftSite .ill)) { school .unexplained with nu.awaiting := List.replicate 192 ⟨absent 9, 1⟩ }).nu.calledToday = [] := by
  decide +kernel

/-- A PAUSED confirm sweep and a PAUSED fan-out, with URGENT notices from tag 1 on queued. -/
def paused (queued : Nat) : Device := { valid with
  ae.sweeps := [⟨.confirm, 1, 0, 5, .paused⟩, ⟨.close, 1, 1, 5, .running⟩], nu.fanout := ⟨.paused, 9, 1, 1, 7, 0, 0, .notYet⟩
  nu.urgent := (List.range queued).map fun n => absent (n + 1) }

/-- What the sweeps and the fan-out of a device stand at. -/
def standing (d : Device) : List SweepStatus × FanoutStatus := (d.ae.sweeps.map (·.status), d.nu.fanout.status)

theorem test_witness_queue_fall_resumes :
    standing (after (.relayDownFallback 1) (paused 256)) = ([.running, .running], .paused) ∧
    standing (after (.relayDownFallback 1) (paused 257)) = ([.paused, .running], .paused) ∧
    standing (after (.relayDownFallback 1) (paused 192)) = ([.running, .running], .running) ∧
    standing (after (.relayDownFallback 1) (paused 193)) = ([.running, .running], .paused) ∧
    standing (after .txLineFree { paused 192 with rl := up.rl }) = ([.running, .running], .running) ∧
    standing (after .txLineFree { paused 256 with rl := up.rl }) = ([.running, .running], .paused) ∧
    standing (after .rolloverStep { paused 192 with tb := { (rolls .midnight 10 1).tb with date := 101 } }) = ([.running, .running], .running) := by
  decide +kernel

/-! ### The Relay Link -/

def starting : Device := { valid with rl.link := .starting }
def down : Device := { valid with rl.link := .down }

theorem test_witness_LinkStartsAndStops : (after (.relayStart 1) cold).rl.link = .starting ∧ (after (.relayStart 1) down).rl.frame = some .start ∧
    (after (.relayStart 1) up).rl = up.rl ∧ (after (.relayStop 1) cold).rl = cold.rl ∧ (after (.relayStop 1) starting).rl.link = .off ∧
    (after (.relayStop 1) up).rl.link = .off ∧ (after .autoRestart down).rl.link = .starting ∧
    after .autoRestart { down with rl.settings.autoRestart := 0 } = { down with rl.settings.autoRestart := 0 } ∧
    after .autoRestart up = up ∧ (after .startTimer starting).rl.frame = some .start ∧ after .startTimer up = up ∧
    after .rxStart cold = cold ∧ (after .rxStart starting).rl.link = .up ∧
    (after .rxStart { up with rl.restartGuard := true }).rl.silence = some 0 ∧
    (after .rxStart { up with rl.ring := [⟨absent 1, 1, 1⟩], nu.urgent := [absent 2] }).nu.urgent = [absent 1, absent 2] ∧
    after .silenceTimeout cold = cold ∧ (after .silenceTimeout up).rl.link = .down ∧
    (after .silenceTimeout { up with nu.urgent := [{ absent 1 with age := 600 }, { absent 2 with age := 599 }] }).nu.urgent.map (·.tag) = [2] := by
  decide +kernel

/-- A device UP with one notice in its ring, and a number of notices of a class queued behind the delay's age. -/
def returning (n : Notice) (queued : Nat) : Device := { up with
  rl.ring := [⟨n, 1, 1⟩], nu.bulk := List.replicate queued (bulletin 900), nu.urgent := [absent 7] }

/-- Where the ring's notice goes when the ring empties, at the room of each class and one short of it. -/
theorem test_witness_returned_notices :
    (returnNotices [absent 1] 0 0 0 (returning (absent 1) 254)).nu.urgent.map (·.tag) = [1, 7] ∧
    (returnNotices [absent 1] 0 0 0 (returning (absent 1) 255)).nu.calls.map (·.reason) = [.queueFull] ∧
    (returnNotices [note 1 (.latePattern 8 .late)] 0 0 0 (returning (absent 1) 238)).nu.routine.map (·.tag) = [1] ∧
    (returnNotices [note 1 (.latePattern 8 .late)] 0 0 0 (returning (absent 1) 239)).nu.calls.map (·.reason) = [.queueFull] ∧
    (returnNotices [bulletin 1] 0 0 0 (returning (bulletin 1) 190)).nu.bulk.length = 191 ∧
    (returnNotices [bulletin 1] 0 0 0 (returning (bulletin 1) 191)).nu.bulk.length = 191 ∧
    (returnNotices [bulletin 1] 0 0 0 (returning (bulletin 1) 191)).nu.calls = [] ∧
    (after .silenceTimeout (returning { absent 1 with age := 600 } 0)).nu.calls.map (·.reason) = [.relayDown] ∧
    (after (.relayStop 1) (returning (absent 1) 0)).nu.urgent.map (·.tag) = [1, 7] ∧
    (after .rxStart (returning (absent 1) 0)).nu.urgent.map (·.tag) = [1, 7] ∧
    (after .resyncTimeout { holding with rl.attempts := 9, rl.settings.attemptLimit := 10, rl.ring := [⟨absent 1, 1, 1⟩] }).nu.urgent.map (·.tag)
      = [1] ∧
    (leaveQueue 7 (returning (absent 1) 2)).nu.urgent = [] := by decide +kernel

theorem test_witness_message_bodies : msgContent [] = none ∧ msgContent (List.replicate 49 1) = none ∧ msgContent [3] = some .unknownKind ∧
    msgContent [1, 0, 0, 1, 0, 0, 77, 2, 3, 0, 4, 0, 5] = some (.parent 256 77 2 3 4 5) ∧
    msgContent [1, 0] = none ∧ msgContent [2, 1, 0, 2, 9] = some (.outcome 256 2 9) ∧ msgContent [2, 0, 3, 1] = none ∧
    (takeMark 2 { up with rl.ring := [⟨absent 1, 1, 1⟩, ⟨absent 2, 2, 2⟩] }).nu.awaiting.map (·.notice.tag) = [1, 2] ∧
    takeMark 3 { up with rl.ring := [⟨absent 1, 1, 1⟩, ⟨absent 2, 2, 2⟩] } = { up with rl.ring := [⟨absent 1, 1, 1⟩, ⟨absent 2, 2, 2⟩] } := by
  decide +kernel

/-- The key an excuse's source gives, and the counts of notices. -/
theorem test_witness_sources_and_counts : (school .expected).ae.sourceKey (excuse .absent 1 1) = 0 ∧
    (school .expected).ae.sourceKey { excuse .absent 1 1 with source := .contact 1 } = 77 ∧
    (school .expected).ae.sourceKey { excuse .absent 1 1 with source := .contact 2 } = 0 ∧
    { returning (bulletin 1) 2 with nu.nextTag := 5 }.noticeCounts = ⟨[1, 0, 2], 0, [0, 0, 1], 0, 5⟩ := by decide +kernel

/-- The collected mark taken on to a place of another or the same last mark: a MARK due stands only in the first, at the end of a rollover
too, and the line then stays at rest. -/
theorem test_witness_mark_due :
    (let due : Device := { up with rl.markDue := true, rl.collected := 6, rl.lastMark := 5, rl.lastPlace := 4 }
     let msg (place : Nat) := after (.rxMsg 1 place 0 [2, 0, 3, 1, 0]) due
     (msg 7).rl.markDue = true ∧ (msg 7).rl.collected = 7 ∧ (msg 5).rl.markDue = false ∧ (msg 5).rl.collected = 5 ∧
     (after (.rxMsg 2 7 0 [2, 0, 3, 1, 0]) (msg 5)).rl.collected = 7 ∧
     (after .txLineFree (after (.rxMsg 2 7 0 [2, 0, 3, 1, 0]) (msg 5))).rl.frame = none ∧
     (after .txLineFree (after .markDue (after (.rxMsg 2 7 0 [2, 0, 3, 1, 0]) (msg 5)))).rl.frame = some (.mark 7) ∧
     (startOfDay { due with rl.rolloverHold := [⟨5, .unknownKind⟩] }).rl.markDue = false ∧
     (startOfDay { due with rl.rolloverHold := [⟨8, .unknownKind⟩] }).rl.markDue = true) := by decide +kernel

/-- An OUTCOME message for notice 3: DELIVERED. -/
def delivered : List Byte := [2, 0, 3, 1, 0]

theorem test_witness_LinkReceives : msgContent delivered = some (.outcome 3 1 0) ∧ up.rl.readPos < 128 ∧
    after (.rxMsg 1 1 0 delivered) cold = cold ∧ after (.rxMark 0) starting = starting ∧ after (.rxIdle 0) cold = cold ∧
    (after (.rxMark 0) holding).rl.silence = some 0 ∧
    (after (.rxMark 5) { up with rl.activity := .replay [] }).rl.markHold = some 5 ∧
    (after (.rxMark 1) up).rl.readPos = 0 ∧ (after (.rxMark 127) { up with rl.readPos := 126, rl.ring := [⟨bulletin 1, 1, 127⟩] }).rl.readPos = 127 ∧
    (after (.rxMark 0) { up with rl.readPos := 127, rl.ring := [⟨bulletin 1, 1, 0⟩] }).rl.ring = [] ∧
    (after (.rxMsg 1 1 0 delivered) holding).rl.lastSeq = 0 ∧ (after (.rxMsg 1 1 0 delivered) up).rl.collected = 1 ∧
    (after (.rxMsg 1 1 0 delivered) { up with rl.lastSeq := 255 }).rl.lastSeq = 1 ∧
    (after (.rxMsg 1 1 0 delivered) { up with tb.rollover := rolling.tb.rollover }).rl.rolloverHold = [⟨1, .outcome 3 1 0⟩] ∧
    (after (.rxMsg 1 1 0 delivered) { up with
      tb.rollover := rolling.tb.rollover, rl.rolloverHold := List.replicate 64 ⟨1, .unknownKind⟩ }).rl.hold = true ∧
    (after (.rxMsg 5 0 0 delivered) { up with
      tb.rollover := rolling.tb.rollover, rl.rolloverHold := List.replicate 64 ⟨1, .unknownKind⟩ }).rl.hold = true ∧
    (after (.rxMsg 5 0 0 delivered) { up with rl.lastPlace := 63 }).rl.hold = false ∧
    (after (.rxMsg 5 0 0 delivered) { up with rl.lastPlace := 64 }).rl.hold = true := by decide +kernel

theorem test_witness_LinkRecovers : after .rxBadFrame cold = cold ∧ (after .relayByteTimeout up).rl.hold = true ∧ (after .rxBadFrame holding).rl.runOwed = false ∧
    msgContent [] = none ∧ (after (.rxMsg 1 1 0 []) up).rl.hold = true ∧ (after (.rxResync 3 0) up).rl.hold = true ∧
    (after (.rxResync 0 0) up).rl.hold = true ∧ up.rl.settings.threshold = 4 ∧ (after (.rxResync 1 0) up).rl.rewindCount = 1 ∧
    (after (.rxResync 1 0) { up with rl.rewindCount := 3 }).rl.rewindOwed = true ∧
    (after (.rxResync 1 0) { up with rl.rewindCount := 3, rl.activity := .clearRun 1 }).rl.furtherOwed = true ∧
    (after (.rxResync 1 0) { up with rl.rewindCount := 4 }).rl.rewindCount = 4 ∧ (after (.rxResync 2 0) up).rl.clearCount = 1 ∧
    (after (.rxResync 2 0) { holding with rl.clearCount := 2 }).rl.hold = true ∧
    (after (.rxResync 2 0) { holding with rl.clearCount := 3 }).rl.hold = false ∧ after .resyncTimeout up = up ∧
    (after .resyncTimeout { holding with rl.attempts := 3 }).rl.attempts = 4 ∧
    (after .resyncTimeout { holding with rl.activity := .rewindRun 2 }).rl.runOwed = false ∧
    (after .resyncTimeout { holding with rl.attempts := 4 }).rl.link = .down := by decide +kernel

theorem test_witness_LineIsUsed : after .txLineFree cold = cold ∧ (after .txLineFree { starting with rl.frame := some .start }).rl.frame = none ∧
    (after .txLineFree { up with rl.startOwed := true }).rl.frame = some .start ∧
    (after .txLineFree { up with rl.runOwed := true }).rl.activity = .rewindRun 7 ∧
    (after .txLineFree { up with rl.rewindOwed := true }).rl.activity = .clearRun 7 ∧
    ({ up with nu.urgent := [absent 3] } : Device).offered = some (absent 3) ∧
    (after .txLineFree { up with nu.urgent := [absent 3] }).rl.frame = some (.note 1 1 0 (absent 3)) ∧
    (after .txLineFree { up with nu.urgent := [absent 3], rl.sendSeq := 255, rl.readPos := 127 }).rl.frame = some (.note 1 0 0 (absent 3)) ∧
    ({ up with nu.bulk := [bulletin 3], rl.ring := List.replicate 32 ⟨bulletin 9, 1, 1⟩ } : Device).offered = none ∧
    (after .txLineFree { up with rl.markDue := true, rl.collected := 5 }).rl.frame = some (.mark 5) ∧
    (after .txLineFree { up with rl.idleDue := true }).rl.frame = some (.idle 0) ∧ (after .txLineFree up).rl.frame = none ∧
    (after .txLineFree { up with rl.activity := .rewindRun 1 }).rl.activity = .rewindRun 0 ∧
    (after .txLineFree { up with rl.activity := .rewindRun 0 }).rl.activity = .rest ∧
    (after .txLineFree { up with rl.activity := .clearRun 1 }).rl.activity = .clearRun 0 ∧
    (after .txLineFree { up with rl.activity := .clearRun 0, rl.ring := [⟨absent 3, 4, 5⟩] }).rl.frame = some (.note 4 5 0 (absent 3)) ∧
    (after .txLineFree { up with rl.activity := .replay [⟨absent 3, 4, 5⟩] }).rl.activity = .replay [] ∧
    (after .txLineFree { up with rl.activity := .replay [], rl.furtherOwed := true }).rl.activity = .clearRun 7 ∧
    (after .txLineFree { up with
      rl.activity := .replay [], rl.markHold := some 1, rl.ring := [⟨bulletin 3, 4, 1⟩, ⟨bulletin 4, 5, 2⟩] }).rl.ring = [⟨bulletin 4, 5, 2⟩] ∧
    (after .markDue { up with rl.collected := 5 }).rl.markDue = true ∧ after .markDue up = up ∧ (after .idleDue up).rl.idleDue = true ∧
    after .idleDue cold = cold := by decide +kernel

theorem test_witness_SettingsAreClampedAndRead : resultOf (.setLateStep 1 3) rolling = some .busy ∧ (after (.setLateStep 1 16) cold).ae.lateStep = 15 ∧
    resultOf (.queryLateStep 1) cold = some .ok ∧ resultOf (.queryNoticeTimes 1) cold = some .ok ∧
    (after (.setNoticeTimes 1 4 0) cold).nu.outcomeTimeout = 5 ∧ (after (.setNoticeTimes 1 121 61) up).nu.fallbackDelay = 60 ∧
    (after (.setNoticeTimes 1 5 1) { cold with nu.urgent := [{ absent 1 with age := 60 }] }).nu.calls.map (·.reason) = [.relayDown] ∧
    resultOf (.queryRelayLink 1) cold = some .ok ∧ resultOf (.setRelayLink 1 8 4 400 5 5 60 1) up = some .state ∧
    resultOf (.setRelayLink 1 8 4 400 5 5 60 3) cold = some .range ∧
    (after (.setRelayLink 1 3 17 2001 16 31 601 2) cold).rl.settings = ⟨4, 4, 2000, 15, 30, 600, false⟩ ∧
    (after (.setRelayLink 1 33 1 49 0 1 1 1) cold).rl.settings = ⟨32, 2, 50, 1, 2, 10, true⟩ ∧
    (after (.setRelayLink 1 8 4 400 5 5 60 2) { down with rl.downFor := 60 }).rl.link = .starting ∧
    (after (.setRelayLink 1 8 4 400 5 5 60 2) { down with rl.downFor := 59 }).rl.link = .down := by decide +kernel

theorem test_witness_LampFollowsTheLink : up.rl.lampAuto = true ∧ up.rl.lampLit = true ∧ cold.rl.lampLit = false ∧
    resultOf (.linkLampMode 1 0) cold = some .range ∧ resultOf (.lamp 1 3) cold = some .range ∧ (after (.linkLampMode 1 2) up).rl.lampLit = true ∧
    (after (.linkLampMode 1 1) { cold with rl.lampAuto := false, rl.lampManual := true }).rl.lampLit = false ∧
    resultOf (.lamp 1 1) cold = some .state ∧ (after (.lamp 1 1) { cold with rl.lampAuto := false }).rl.lampLit = true ∧
    (after (.lamp 1 2) { cold with rl.lampAuto := false, rl.lampManual := true }).rl.lampLit = false ∧
    ({ down.rl with downFor := 12 } : RelayLink).restartLeft = some 48 ∧ up.rl.restartLeft = none ∧
    { up.rl with activity := .replay [] }.reply.rewind = true ∧ up.rl.reply.rewind = false ∧ resultOf (.queryLink 1) up = some .ok := by
  decide +kernel

/-! ### The Sounder Unit -/

theorem test_witness_PatternsAreLoadedClamped : resultOf (.loadPattern 1 0 1 1 0 0 0 0) cold = some .range ∧
    resultOf (.loadPattern 1 17 1 1 0 0 0 0) cold = some .range ∧ resultOf (.loadPattern 1 1 5 1 0 0 0 0) cold = some .range ∧
    (after (.loadPattern 1 16 1 601 0 0 0 0) cold).su.pattern 16 = ⟨.ring, 600, 0, 0, 0, 0⟩ ∧
    (after (.loadPattern 1 1 2 0 101 100 100 0) cold).su.pattern 1 = ⟨.pulse, 0, 100, 99, 99, 0⟩ ∧
    (after (.loadPattern 1 1 2 0 1 0 0 0) cold).su.pattern 1 = ⟨.pulse, 0, 2, 1, 1, 0⟩ ∧
    (after (.loadPattern 1 1 3 0 41 0 0 601) cold).su.pattern 1 = ⟨.warble, 0, 40, 0, 0, 600⟩ ∧
    answerTo (.loadPattern 1 1 4 51 0 0 0 0) cold = some (okClamped true .empty) ∧ resultOf (.queryPattern 1 17) cold = some .range ∧
    answerTo (.queryPattern 1 16) cold = some (ok (.pattern Pattern.reset)) := by decide +kernel

/-- Generator 1 playing a pattern at a unit, with a start waiting or not. -/
def plays (p : Pattern) (elapsed : Nat) (waiting : Option Nat) : Device :=
  { valid with su.generators := ⟨some ⟨5, p, elapsed⟩, waiting⟩ :: List.replicate 3 ⟨none, none⟩ }

theorem test_witness_GeneratorsPlayPatterns : (⟨.chirp, 2, 0, 0, 0, 0⟩ : Pattern).output 2 = .steady ∧
    (⟨.warble, 0, 3, 0, 0, 9⟩ : Pattern).output 1 = .toneA ∧ (⟨.warble, 0, 3, 0, 0, 9⟩ : Pattern).output 2 = .toneB ∧
    ((startPattern 4 1 valid).su.generator 4).playing = some ⟨1, Pattern.reset, 0⟩ ∧
    ((startPattern 1 1 (plays ⟨.chirp, 2, 0, 0, 0, 0⟩ 1 none)).su.generator 1).playing.map (·.number) = some 1 ∧
    ((startPattern 1 1 (plays ⟨.pulse, 0, 2, 1, 2, 0⟩ 1 none)).su.generator 1).waiting = some 1 ∧
    (after (.generatorUnit 4) valid).su = valid.su ∧
    ((after (.generatorUnit 1) (plays Pattern.reset 28 none)).su.generator 1).playing.map (·.elapsed) = some 29 ∧
    (after (.generatorUnit 1) (plays Pattern.reset 29 none)).su.generator 1 = ⟨none, none⟩ ∧
    (after (.generatorUnit 1) (plays Pattern.reset 29 (some 2))).su.generator 1 = ⟨some ⟨2, Pattern.reset, 0⟩, none⟩ := by decide +kernel

theorem test_witness_RoutesAndQuietFlagsAreWritten : (∀ v ∈ cold.su.zones, v.supervised = false) ∧ cold.su.bankA.length = 24 ∧ cold.su.bankB.length = 24 ∧
    resultOf (.loadRoute 1 3 [⟨1, 1, 0, 1⟩]) cold = some .range ∧ resultOf (.loadRoute 1 1 []) cold = some .range ∧
    resultOf (.loadRoute 1 1 (List.replicate 25 ⟨1, 1, 0, 1⟩)) cold = some .range ∧ resultOf (.loadRoute 1 1 [⟨25, 1, 0, 1⟩]) cold = some .range ∧
    resultOf (.loadRoute 1 1 [⟨1, 6, 0, 1⟩]) cold = some .range ∧ resultOf (.loadRoute 1 1 [⟨1, 1, 2, 1⟩]) cold = some .range ∧
    resultOf (.loadRoute 1 1 [⟨1, 1, 0, 3⟩]) cold = some .range ∧ resultOf (.loadRoute 1 1 [⟨1, 1, 0, 1⟩, ⟨1, 2, 0, 1⟩]) cold = some .duplicate ∧
    (after (.loadRoute 1 2 [⟨24, 5, 1, 2⟩]) cold).su.bankB[23]? = some ⟨some 4, true, true⟩ ∧
    (after (.loadRoute 1 1 [⟨1, 1, 0, 1⟩]) cold).su.bankA[0]? = some ⟨none, false, false⟩ ∧ resultOf (.queryRoute 1 0) cold = some .range ∧
    resultOf (.queryRoute 1 1) cold = some .ok ∧ resultOf (.queryRoute 1 2) cold = some .ok ∧ (after (.swapBank 1) cold).su.active = .b ∧
    (after (.setQuiet 1 0xFFFFFF#24) cold).su.quiet = 0xFFFFFF#24 := by decide +kernel

def alarmed (zones : ZoneSet) (level : Bool) : Device := { valid with su.alert := some ⟨zones, 4⟩, su.alertLevel := level }

theorem test_witness_AlertAndPaAreSet : resultOf (.alertStart 1 0) cold = some .range ∧ resultOf (.setAlertInput 1 0) cold = some .range ∧
    resultOf (.paStart 1 0) cold = some .range ∧ (after (.alertStart 1 1) cold).su.alert = some ⟨1, 0⟩ ∧
    (after (.alertStart 1 2) (alarmed 1 false)).su.alert = some ⟨3, 4⟩ ∧ (after (.alertStart 1 1) (alarmed 1 false)).op.holds .alert = false ∧
    (after (.setAlertInput 1 4) cold).su.alertInputZones = 4 ∧ (after (.paStart 1 4) cold).su.paRequest = 4 ∧
    resultOf (.alertStop 1) (alarmed 1 true) = some .state ∧ (after (.alertStop 1) (alarmed 1 false)).op.holds .alert = true ∧
    (after (.alertStop 1) cold).op.holds .alert = false ∧ (after (.paStop 1) { cold with su.paRequest := 4 }).su.paRequest = 0 ∧
    (after (.setPaKey 1 0) cold).su.paKeyZones = 0 ∧ (after (.paKey true) cold).su.paKeyHeld = true ∧ after (.alertInput false) cold = cold ∧
    (after (.alertInput false) (alarmed 1 true)).su.alert = some ⟨1, 4⟩ ∧ (after (.alertInput true) cold).su.alert = some ⟨0xFFFFFF#24, 0⟩ ∧
    (after (.alertInput true) (alarmed 1 false)).op.holds .alert = true ∧
    (after (.paKey true) { busyLine with mainPower := false }).su.paKeyHeld = true ∧ after .alertWarbleUnit cold = cold ∧
    (after .alertWarbleUnit (alarmed 1 true)).su.alert = some ⟨1, 5⟩ ∧ (⟨1, 4⟩ : Alert).level = .toneA ∧ (⟨1, 5⟩ : Alert).level = .toneB ∧
    (after .alertWarbleUnit { cold with su.alert := some ⟨1, 9⟩ }).su.alert = some ⟨1, 0⟩ := by decide +kernel

/-- Zone 24 routed to generator 1, which plays. -/
def routed24 : Device := { plays Pattern.reset 3 none with su.bankA := List.replicate 23 RouteEntry.reset ++ [⟨some 1, true, true⟩] }

theorem test_witness_ZonesAreDrivenByTheFirstDemand : routed24.demand 24 = .generator 1 ∧ routed24.engaged 24 = true ∧ routed24.lineLevel 24 = .steady ∧
    { routed24 with tb.validity := .invalid }.demand 24 = .silent ∧ { routed24 with su.quiet := 0x800000#24 }.demand 24 = .silent ∧
    routed24.demand 1 = .silent ∧ { routed24 with su.paRequest := 0x800000#24 }.demand 24 = .paLine ∧
    { routed24 with su.paKeyHeld := true }.lineLevel 1 = .pa ∧
    { routed24 with su.paRequest := 0x800000#24, su.alert := some ⟨0x800000#24, 5⟩ }.lineLevel 24 = .toneB ∧
    { routed24 with su.zones := List.replicate 24 ⟨true, true, 0, 0, none⟩ }.lineLevel 24 = .steady ∧
    { routed24 with su.zones := List.replicate 24 ⟨true, true, 0, 0, none⟩ }.lineLevel 1 = .silent ∧
    resultOf (.queryZones 1) routed24 = some .ok ∧ resultOf (.querySounder 1) routed24 = some .ok := by decide +kernel

/-- All zones supervised and idle, zone 24's sense line BAD. -/
def supervised (v : ZoneSupervision) : Device := { routed24 with su.zones := List.replicate 24 v, sense := 0x7FFFFF#24 }

theorem test_witness_ZonesAreSupervised : (⟨true, false, 2, 0, none⟩ : ZoneSupervision).counted false = ⟨true, true, 0, 0, none⟩ ∧
    (⟨true, false, 1, 0, none⟩ : ZoneSupervision).counted false = ⟨true, false, 2, 0, none⟩ ∧
    (⟨true, true, 0, 2, none⟩ : ZoneSupervision).counted true = ⟨true, false, 0, 0, none⟩ ∧
    (⟨true, true, 0, 1, none⟩ : ZoneSupervision).counted true = ⟨true, true, 0, 2, none⟩ ∧
    (supervised ⟨true, false, 0, 0, some 10⟩).su.zones[23]? = some ⟨true, false, 0, 0, some 10⟩ ∧
    after (.idleCheck 24) (supervised ⟨true, false, 0, 0, none⟩) = supervised ⟨true, false, 0, 0, none⟩ ∧
    (after (.idleCheck 24) (supervised ⟨true, false, 1, 0, some 10⟩)).su.zone 24 = ⟨true, false, 2, 0, some 0⟩ ∧
    (after (.idleCheck 24) (supervised ⟨true, false, 2, 0, some 10⟩)).op.changedZones = 0x800000#24 ∧
    (after (.setSupervision 1 0xFFFFFF#24) routed24).su.zone 24 = ⟨true, false, 0, 0, none⟩ ∧
    (after (.setSupervision 1 0xFFFFFF#24) routed24).su.zone 1 = ⟨true, false, 0, 0, some 0⟩ ∧
    (after (.setSupervision 1 1) { supervised ⟨true, true, 0, 0, none⟩ with op.causes := 0x004#12 }).op.causes = 0x084#12 ∧
    (after (.setSupervision 1 1) (supervised ⟨true, true, 0, 0, none⟩)).op.changedZones = 0xFFFFFE#24 ∧
    (after (.setSupervision 1 0) { supervised ⟨true, false, 0, 0, none⟩ with op.causes := 0x004#12 }).op.causes = 0x004#12 ∧
    (after (.setSupervision 1 0) { supervised ⟨true, false, 0, 0, none⟩ with op.changedZones := 5#24 }).op.changedZones = 5#24 ∧
    (supervised ⟨true, false, 0, 0, none⟩).settleZone true 24 = supervised ⟨true, false, 0, 0, none⟩ ∧
    ((supervised ⟨true, false, 0, 0, none⟩).settleZone true 1).su.zone 1 = ⟨true, false, 0, 0, some 0⟩ ∧
    ((supervised ⟨true, false, 1, 0, some 4⟩).settleZone false 24).su.zone 24 = ⟨true, false, 2, 0, none⟩ ∧
    ((supervised ⟨true, false, 2, 0, some 4⟩).settleZone false 24).op.holds .zone = true ∧
    (after (.paKey true) { supervised ⟨true, false, 1, 0, some 4⟩ with sense := 0 }).su.zone 1 = ⟨true, false, 2, 0, none⟩ ∧
    (after (.paKey true) { supervised ⟨true, false, 2, 0, some 4⟩ with sense := 0 }).op.changedZones.getLsbD 0 = true ∧
    (after (.paKey false) { supervised ⟨true, false, 1, 0, none⟩ with su.paKeyHeld := true }).su.zone 1 = ⟨true, false, 1, 0, some 0⟩ := by decide +kernel

/-! ### The Gate Bus, the Office Port and the laws -/

/-- Station 1 in a state, the others DISABLED, with one verdict owed. -/
def station (state : StationState) (misses : Nat) (inFlight : Option Nat) : Device := { school .present with
  gb.stations := ⟨state, 0, misses, [⟨3, ⟨.onTime, 1, 0, none, 5⟩⟩], [⟨3, ⟨.onTime, 1, 0, none, 5⟩⟩], 0, 0⟩ :: List.replicate 7 Station.reset
  gb.inFlight := inFlight, gb.reached := 1 }

theorem test_witness_StationsArePolledInRounds : cold.gb.stations.length = 8 ∧ resultOf (.setStation 1 0 1 0) cold = some .range ∧
    resultOf (.setStation 1 9 1 0) cold = some .range ∧ resultOf (.setStation 1 8 1 3) cold = some .range ∧
    resultOf (.setStation 1 8 2 2) cold = some .range ∧ resultOf (.setStation 1 8 1 2) rolling = some .busy ∧
    ((after (.setStation 1 8 1 2) cold).gb.station 8).state = .searching ∧ ((after (.setStation 1 8 0 2) cold).gb.station 8).site = 2 ∧
    ((after (.setStation 1 1 1 2) (station .active 0 none)).gb.station 1).state = .active ∧
    resultOf (.queryStations 1) cold = some .ok ∧
    after .poll rolling = rolling ∧ after .gateRoundStart { cold with gb.inFlight := some 1 } = { cold with gb.inFlight := some 1 } ∧
    (after .gateRoundStart cold).gb.round = 1 ∧ (after .gateRoundStart { cold with gb.round := 7 }).gb.round = 0 ∧ after .poll cold = cold ∧
    settleRound (after .gateRoundStart cold) = after .gateRoundStart cold ∧ (after .poll (after .gateRoundStart cold)).gb.reached = 9 ∧
    (after .poll (station .active 0 none)).gb.frame = some (.poll 1 [⟨3, ⟨.onTime, 1, 0, none, 5⟩⟩]) ∧
    (after .poll (station .lost 0 none)).gb.inFlight = some 1 ∧
    after .gateRoundStart (station .syncing 0 none) = station .syncing 0 none ∧
    (settleRound (station .active 0 none)).gb.reached = 1 ∧ (settleRound cold).gb.reached = 9 ∧
    settleRound (station .active 0 (some 1)) = station .active 0 (some 1) ∧
    (let begun := after .gateRoundStart { cold with gb.round := 6 }
     let enabled := fun d => { after (.setStation 1 8 1 2) d with op.inHand := none }
     (after .poll (enabled begun)).gb.inFlight = some 8 ∧ (after .poll (enabled (after .poll begun))).gb.inFlight = none) ∧
    ((after (.setStation 1 1 0 2) { station .active 0 none with gb.records := [⟨1, ⟨4, 1, 7, 1, 1⟩⟩] }).ae.journal.map (·.verdict)) = [.alreadyIn] ∧
    (after (.setStation 1 1 0 2) { station .active 0 none with gb.records := [⟨1, ⟨4, 1, 7, 1, 1⟩⟩] }).gb.station 1
      = ⟨.disabled, 2, 0, [], [], 0, 0⟩ := by decide +kernel

theorem test_witness_RepliesMoveStations : after (.gateReply true true 1 0 []) cold = cold ∧ after .gateReplyTimeout cold = cold ∧
    ((after (.gateReply false true 1 0 []) (station .syncing 0 (some 1))).gb.station 1).state = .searching ∧
    ((after (.gateReply true true 2 0 []) (station .syncing 0 (some 1))).gb.station 1).missedTotal = 1 ∧
    ((after (.gateReply true true 1 2 []) (station .searching 0 (some 1))).gb.station 1).state = .searching ∧
    ((after (.gateReply true true 1 0 [⟨16, 1, 7, 1, 1⟩]) (station .active 0 (some 1))).gb.station 1).misses = 1 ∧
    ((after .gateReplyTimeout (station .active 1 (some 1))).gb.station 1).state = .lost ∧
    (after .gateReplyTimeout (station .active 1 (some 1))).op.changedStations = 1 ∧
    ((after (.gateReply true true 1 1 []) (station .lost 0 (some 1))).gb.station 1).owed = [] ∧
    ((after (.gateReply true true 1 0 []) (station .syncing 0 (some 1))).gb.station 1).state = .active ∧
    ((after (.gateReply true true 1 0 [⟨15, 2, 65535, 2, 9⟩]) (station .active 1 (some 1))).gb.records) = [⟨1, ⟨15, 2, 65535, 2, 9⟩⟩] ∧
    after .arrivalRecord cold = cold ∧
    (let two : Device := { station .active 0 none with gb.records := [⟨1, ⟨4, 1, 7, 1, 1⟩⟩, ⟨1, ⟨5, 1, 9, 1, 1⟩⟩] }
     (takeWaiting two).ae.journal.map (·.verdict) = [.alreadyIn, .unknownCard] ∧ takeWaiting two = takeWaiting (after .arrivalRecord two)) ∧
    ((after .arrivalRecord { station .active 0 none with gb.records := [⟨1, ⟨3, 1, 7, 1, 1⟩⟩] }).gb.station 1).repeatTotal = 1 ∧
    ((after .arrivalRecord { station .active 0 none with gb.records := [⟨1, ⟨4, 1, 7, 1, 1⟩⟩] }).gb.station 1).stored.map (·.seq) = [3, 4] ∧
    ((after .arrivalRecord { station .active 0 none with
      gb.records := [⟨1, ⟨9, 1, 7, 1, 1⟩⟩]
      gb.stations := [⟨.active, 0, 0, (List.range 4).map fun n => ⟨n, ⟨.onTime, 1, 0, none, 5⟩⟩, [], 0, 0⟩] }).gb.station 1).stored.map (·.seq)
      = [1, 2, 3, 9] := by decide +kernel

/-- Station 1, polled and then disabled: the exchange goes on, no poll begins, and its end by a reply or without one leaves the station as
it was, even one enabled again in between. The poll that comes next is heard as ever. -/
theorem test_witness_RepliesMoveStations_disabled :
    (let off : Device := { after (.setStation 1 1 0 0) (station .active 1 (some 1)) with op.inHand := none }
     off.gb.inFlight = some 1 ∧ off.gb.replyDropped = true ∧ after .poll off = off ∧ after .gateRoundStart off = off ∧
     (let ended := after (.gateReply true true 1 0 [⟨4, 1, 7, 1, 1⟩]) off
      ended.gb.inFlight = none ∧ ended.gb.replyDropped = false ∧ ended.gb.records = [] ∧ ended.gb.stations = off.gb.stations ∧
      after (.gateReply false true 2 0 []) off = ended ∧ after .gateReplyTimeout off = ended) ∧
     (let again : Device := { after (.setStation 1 1 1 0) off with op.inHand := none }
      again.gb.replyDropped = true ∧
      (after (.gateReply true true 1 0 [⟨4, 1, 7, 1, 1⟩]) again).gb.records = [] ∧
      ((after (.gateReply true true 1 0 [⟨4, 1, 7, 1, 1⟩]) again).gb.station 1).state = .searching)) ∧
    (after (.setStation 1 2 0 0) (station .active 0 (some 1))).gb.replyDropped = false ∧
    (after .poll { station .active 0 none with gb.replyDropped := true }).gb.replyDropped = false := by decide +kernel

theorem test_witness_AttentionIsRaisedAndRead : cold.op.attention = true ∧ { cold.op with mask := 0x7FF#12 }.attention = false ∧
    (after (.status 1) cold).op.causes = 0 ∧ resultOf (.status 1) rolling = some .ok ∧ resultOf (.setAttentionMask 1 4096) cold = some .range ∧
    (after (.setAttentionMask 1 4095) cold).op.mask = 0xFFF#12 := by decide +kernel

/-! ### Frames on the lines -/

/-- QUERY_TIME, tag 9, as it stands on the office line behind its sync byte. -/
def queryFrame : List Byte := checkedBytes [0, 9, 2, 0, 0]

theorem test_officeStream_hunts : officeStream ([1, 2, 165#8] ++ queryFrame) = [.queryTime 9] ∧
    officeStream (165#8 :: queryFrame ++ [7, 165#8] ++ queryFrame) = [.queryTime 9, .queryTime 9] ∧
    officeStream ([165#8, 0, 9, 2, 1, 1, 165#8] ++ queryFrame) = [.officeBadFrame, .queryTime 9] ∧
    officeStream [165#8, 0, 9, 2, 0, 0, 7, 7] = [.officeBadFrame] ∧ officeStream [165#8, 0, 9] = [.officeByteTimeout] ∧
    officeStream [1, 2, 3] = [] ∧ relayStream (90#8 :: checkedBytes [6, 0, 0, 5, 0]) = [.rxIdle 5] ∧
    gateStream ([4, 195#8] ++ checkedBytes [1, 3, 2, 0, 0]) = [.gateReply true true 1 0 []] ∧
    gateStream [195#8, 1, 3, 2, 0] = [.gateReplyTimeout] ∧ gateStream [1, 2] = [] := by decide +kernel

theorem test_prior_state_code : [RosterState.notDue, .present, .late].map priorCode = [1, 2, 3] := by decide

/-- A call list that would pass 256 bytes is cut where its last whole entry fits. -/
theorem test_reply_bodies_fit :
    (ReplyBody.calls (List.replicate 8 ⟨1, .noContact, true, 0, 0, .notice (absent 3) none false⟩) 9).bytes.length ≤ 256 ∧
    (ReplyBody.calls [call 1 false] 1).bytes.head? = some 1 := by decide +kernel

theorem test_witness_StepKeepsTheClockInRange : ClockInRange State.reset.dev.tb ∧ step State.reset = .next State.reset :=
  ⟨clock_in_range_at_reset, rfl⟩

theorem test_witness_StepKeepsNoticesInLimits : NoticesInLimits State.reset ∧ TablesInSize State.reset ∧ step State.reset = .next State.reset := by
  refine ⟨⟨⟨?_, ?_, ?_⟩, ⟨?_, ?_, ?_⟩, ⟨?_, ?_, ?_⟩⟩, ⟨?_, ?_, ?_⟩, rfl⟩ <;> decide

theorem lawful_at_reset : Lawful State.reset :=
  have h := ((day_iff _).1 reset_day).1
  (lawful_iff _).2 ⟨⟨clock_in_range_at_reset, reset_laws⟩, h.1, h.2.1, h.2.2, nofun⟩
theorem test_lawful_at_reset : Lawful State.reset ∧ step State.reset = .next State.reset := ⟨lawful_at_reset, rfl⟩

/-- A lawful state whose front command is one a fired flag stands over: a master mark. -/
theorem test_witness_FlagsStand : Lawful { State.reset with pending := [.masterMark] } ∧
    (∃ s', step { State.reset with pending := [.masterMark] } = .next s') ∧
    ∀ c, [Instr.masterMark].head? = some c → (∀ strap, c ≠ .retentionLoss strap) ∧ (c = .rolloverStep → State.reset.dev.mainPower = true →
      ∀ r, State.reset.dev.tb.rollover = some r → r.step ≠ 7 ∧ r.step ≠ 8) := by
  have h := ((day_iff _).1 reset_day).1
  exact ⟨(lawful_iff _).2 ⟨⟨clock_in_range_at_reset, reset_laws⟩, h.1, h.2.1, h.2.2, by decide⟩, ⟨_, rfl⟩,
    fun c hc => by cases hc; exact ⟨nofun, nofun⟩⟩

end Sys2Proof.Tests
end

section
/-! O59: every step keeps the Time Base in range. Most commands leave the Time Base as it stands; each of the others keeps its ranges. -/
namespace Sys2Proof.Machine

/-! ### Commands that leave the Time Base alone -/

/-- The commands that may change the Time Base. -/
def movesClock : Instr → Bool
  | .setTime _ _ _ _ => true
  | .setDiscipline _ _ => true
  | .setCycleLength _ _ => true
  | .setCycleDay _ _ => true
  | .loadException _ _ _ _ => true
  | .dropException _ _ => true
  | .loadRule _ _ _ _ _ => true
  | .loadWeekday _ _ _ => true
  | .selectToday _ _ => true
  | .replyComplete => true
  | .warmReset => true
  | .powerUp _ => true
  | .retentionLoss _ => true
  | .oscillatorTick _ => true
  | .masterMark => true
  | .markSilenceExpiry => true
  | .rolloverStep => true
  | _ => false

/-- A command's meaning goes on to a device with the Time Base as it stood. -/
def LeavesClock (run : State → Host.Outcome State Fault Refusal) : Prop :=
  ∀ s, ∃ d, run s = goesTo s d ∧ d.tb = s.dev.tb

theorem LeavesClock.always {f : Device → Device} (h : ∀ d, (f d).tb = d.tb) : LeavesClock (act f) := fun s => ⟨f s.dev, rfl, h _⟩

theorem LeavesClock.event {f : Device → Device} (h : ∀ d, (f d).tb = d.tb) : LeavesClock (act (powered f)) :=
  .always fun d => powered_keeps (P := fun e => e.tb = d.tb) rfl (h d)

theorem LeavesClock.request {code tag : Nat} {serve : Device → Answer × Device} (h : ∀ d, (serve d).2.tb = d.tb) :
    LeavesClock (act (request code tag serve)) :=
  .always fun d => request_keeps (P := fun e => e.tb = d.tb) rfl (fun _ _ he => he) (h d)

theorem checked_tb {d : Device} (l : List (Bool × Result)) {t : Answer × Device} (ht : t.2.tb = d.tb) : (checked d l t).2.tb = d.tb :=
  checked_keeps (P := fun e => e.tb = d.tb) l rfl fun _ => ht

/-! ### Requests that read their operands first -/

theorem serveLoadPlan_tb (plan : Nat) (l : List PlanEntryOp) (d : Device) : (serveLoadPlan plan l d).2.tb = d.tb := by
  unfold serveLoadPlan; split
  · rfl
  · exact checked_tb _ rfl
theorem serveQueryPlan_tb (plan copy : Nat) (d : Device) : (serveQueryPlan plan copy d).2.tb = d.tb := by
  unfold serveQueryPlan; split
  · rfl
  · exact checked_tb _ rfl
theorem serveSetSite_tb (site : Nat) (offset : Int) (grace delay each : Nat) (d : Device) :
    (serveSetSite site offset grace delay each d).2.tb = d.tb := by
  unfold serveSetSite; split
  · rfl
  · refine checked_tb _ ?_
    dsimp only; split <;> simp
theorem serveQueryPupil_tb (roll : Nat) (d : Device) : (serveQueryPupil roll d).2.tb = d.tb := by
  unfold serveQueryPupil; split <;> exact checked_tb _ rfl
theorem serveQueryCard_tb (card : Nat) (d : Device) : (serveQueryCard card d).2.tb = d.tb := by
  unfold serveQueryCard; split <;> exact checked_tb _ rfl
theorem serveLoadContact_tb (key e n : Nat) (pupils : List Nat) (d : Device) : (serveLoadContact key e n pupils d).2.tb = d.tb := by
  unfold serveLoadContact; split
  · exact checked_tb _ rfl
  · rfl
theorem serveDropContact_tb (key : Nat) (d : Device) : (serveDropContact key d).2.tb = d.tb := by
  unfold serveDropContact; split <;> exact checked_tb _ rfl
theorem serveQueryContact_tb (key : Nat) (d : Device) : (serveQueryContact key d).2.tb = d.tb := by
  unfold serveQueryContact; split <;> exact checked_tb _ rfl
theorem serveLoadGroup_tb (group : Nat) (l : List GroupEntryOp) (d : Device) : (serveLoadGroup group l d).2.tb = d.tb := by
  unfold serveLoadGroup; split
  · rfl
  · exact checked_tb _ rfl
theorem serveDeskMark_tb (roll mark : Nat) (d : Device) : (serveDeskMark roll mark d).2.tb = d.tb := by
  unfold serveDeskMark takeMarkFor; split
  · rfl
  · dsimp only; split
    · exact checked_tb _ rfl
    · refine checked_tb _ ?_
      dsimp only; split <;> simp
theorem serveSnapshot_tb (d : Device) : (serveSnapshot d).2.tb = d.tb := by
  unfold serveSnapshot; dsimp only; split <;> exact checked_tb _ rfl
theorem serveQueryCounts_tb (d : Device) : (serveQueryCounts d).2.tb = d.tb := by
  unfold serveQueryCounts; split <;> exact checked_tb _ rfl
theorem serveAddExcuse_tb (roll kind first last minute : Nat) (d : Device) :
    (serveAddExcuse roll kind first last minute d).2.tb = d.tb := by
  unfold serveAddExcuse; split
  · rfl
  · exact checked_tb _ (recordAndApply_tb _ _)
theorem serveRemoveExcuse_tb (roll kind day : Nat) (d : Device) : (serveRemoveExcuse roll kind day d).2.tb = d.tb := by
  unfold serveRemoveExcuse; split
  · rfl
  · dsimp only; split <;> exact checked_tb _ rfl
theorem serveStopBulletin_tb (d : Device) : (serveStopBulletin d).2.tb = d.tb := by
  refine checked_tb _ ?_
  dsimp only; split <;> simp
theorem serveCloseCall_tb (number : Nat) (d : Device) : (serveCloseCall number d).2.tb = d.tb := by
  unfold serveCloseCall; split <;> exact checked_tb _ rfl
theorem serveQueryNotice_tb (tag : Nat) (d : Device) : (serveQueryNotice tag d).2.tb = d.tb := by
  unfold serveQueryNotice; split <;> exact checked_tb _ rfl
theorem serveQueryNotices_tb (place position : Nat) (d : Device) : (serveQueryNotices place position d).2.tb = d.tb := by
  unfold serveQueryNotices; split
  · rfl
  · exact checked_tb _ rfl
theorem serveSetNoticeTimes_tb (timeout delay : Nat) (d : Device) : (serveSetNoticeTimes timeout delay d).2.tb = d.tb := by
  refine checked_tb _ ?_
  dsimp only; split <;> simp
theorem serveSetRelayLink_tb (run threshold time limit silence restart start : Nat) (d : Device) :
    (serveSetRelayLink run threshold time limit silence restart start d).2.tb = d.tb := by
  unfold serveSetRelayLink; split
  · rfl
  · exact checked_tb _ (writeSettings_tb _ _)
theorem serveLinkLampMode_tb (mode : Nat) (d : Device) : (serveLinkLampMode mode d).2.tb = d.tb := by
  unfold serveLinkLampMode; split <;> rfl
theorem serveLamp_tb (level : Nat) (d : Device) : (serveLamp level d).2.tb = d.tb := by
  unfold serveLamp; split
  · rfl
  · exact checked_tb _ rfl
theorem serveLoadPattern_tb (number mode n p k r l : Nat) (d : Device) : (serveLoadPattern number mode n p k r l d).2.tb = d.tb := by
  unfold serveLoadPattern; split
  · rfl
  · exact checked_tb _ rfl
theorem serveLoadRoute_tb (bank : Nat) (l : List RouteEntryOp) (d : Device) : (serveLoadRoute bank l d).2.tb = d.tb := by
  unfold serveLoadRoute; split
  · exact checked_tb _ (by simp only [settling_tb])
  · rfl
theorem serveQueryRoute_tb (bank : Nat) (d : Device) : (serveQueryRoute bank d).2.tb = d.tb := by
  unfold serveQueryRoute; split <;> rfl
theorem servePaStart_tb (zones : ZoneSet) (d : Device) : (servePaStart zones d).2.tb = d.tb := by
  unfold servePaStart; exact checked_tb _ (by simp only [settling_tb])
theorem serveSetStation_tb (address enabled site : Nat) (d : Device) : (serveSetStation address enabled site d).2.tb = d.tb := by
  unfold serveSetStation; split
  · rfl
  · exact checked_tb _ (setStation_tb _ _ _ _)

/-! ### Events beside the Time Base -/

theorem losePower_tb (d : Device) : (losePower d).tb = d.tb := by
  unfold losePower; exact powered_keeps (P := fun e => e.tb = d.tb) rfl (takeWaiting_tb d)
theorem overrunFrame_tb (d : Device) : (overrunFrame d).tb = d.tb := by
  unfold overrunFrame; split <;> rfl
theorem alertInput_leaves_clock (active : Bool) : LeavesClock (execAlertInput active) := by
  refine .always fun d => ?_
  split
  · exact alertInputIs_tb _ _
  · rfl
theorem paKey_leaves_clock (held : Bool) : LeavesClock (execPaKey held) := by
  refine .always fun d => ?_
  split
  · exact paKeyIs_tb _ _
  · rfl

theorem exec_leaves_clock {c : Instr} (hc : movesClock c = false) : LeavesClock (exec c) := by
  cases c
  case setTime | setDiscipline | setCycleLength | setCycleDay | loadException | dropException | loadRule | loadWeekday | selectToday
      | replyComplete | warmReset | powerUp | retentionLoss | oscillatorTick | masterMark | markSilenceExpiry | rolloverStep =>
    cases hc
  case queryTime | queryRelayLink | queryLink | querySounder | queryZones | queryStations | readJournal | status | reset | unknownRequest
      | wrongBodyLength => exact .request fun _ => rfl
  case queryExceptions | queryCalendar | queryDay | loadPupil | dropPupil | queryContacts | queryGroup | clearTallies | queryRoster
      | querySweeps | setLateStep | queryLateStep | queryExcuses | composeBulletin | queryFanout | queryCalls | queryNoticeTimes
      | queryPattern | setAlertInput | setAttentionMask => exact .request fun _ => checked_tb _ rfl
  case loadPlan => exact .request (serveLoadPlan_tb _ _)
  case queryPlan => exact .request (serveQueryPlan_tb _ _)
  case setSite => exact .request (serveSetSite_tb _ _ _ _ _)
  case setShift => exact .request fun _ => checked_tb _ (reassess_tb _ _)
  case queryPupil => exact .request (serveQueryPupil_tb _)
  case queryCard => exact .request (serveQueryCard_tb _)
  case loadContact => exact .request (serveLoadContact_tb _ _ _ _)
  case dropContact => exact .request (serveDropContact_tb _)
  case queryContact => exact .request (serveQueryContact_tb _)
  case loadGroup => exact .request (serveLoadGroup_tb _ _)
  case deskMark => exact .request (serveDeskMark_tb _ _)
  case snapshot => exact .request serveSnapshot_tb
  case queryCounts => exact .request serveQueryCounts_tb
  case addExcuse => exact .request (serveAddExcuse_tb _ _ _ _ _)
  case removeExcuse => exact .request (serveRemoveExcuse_tb _ _ _)
  case stopBulletin => exact .request serveStopBulletin_tb
  case closeCall => exact .request (serveCloseCall_tb _)
  case queryNotice => exact .request (serveQueryNotice_tb _)
  case queryNotices => exact .request (serveQueryNotices_tb _ _)
  case setNoticeTimes => exact .request (serveSetNoticeTimes_tb _ _)
  case setRelayLink => exact .request (serveSetRelayLink_tb _ _ _ _ _ _ _)
  case linkLampMode => exact .request (serveLinkLampMode_tb _)
  case lamp => exact .request (serveLamp_tb _)
  case loadPattern => exact .request (serveLoadPattern_tb _ _ _ _ _ _ _)
  case loadRoute => exact .request (serveLoadRoute_tb _ _)
  case queryRoute => exact .request (serveQueryRoute_tb _)
  case setStation => exact .request (serveSetStation_tb _ _ _)
  case alertStart | alertStop => exact .request fun _ => checked_tb _ (changeAlert_tb _ _)
  case paStart => exact .request (servePaStart_tb _)
  case relayStart | relayStop | swapBank | setQuiet | paStop | setPaKey | setSupervision => exact .request fun _ => by simp
  case officeBadFrame | officeByteTimeout => exact .always fun _ => rfl
  case mainPowerLoss => exact .always losePower_tb
  case alertInput => exact alertInput_leaves_clock _
  case paKey => exact paKey_leaves_clock _
  case overrun => exact .event overrunFrame_tb
  case alertWarbleUnit => exact .event fun _ => rfl
  case generatorUnit => exact .event fun _ => by simp only [settling_tb]
  case startTimer | markDue | idleDue | silenceTimeout | autoRestart => exact .event fun _ => by split <;> simp
  case closeSweepStep | confirmSweepStep | gateRoundStart | poll | gateReply | gateReplyTimeout | arrivalRecord | outcomeTimeout
      | relayDownFallback | fanoutStep | rxMsg | rxMark | rxIdle | rxResync | rxStart | rxBadFrame | relayByteTimeout | txLineFree
      | resyncTimeout | idleCheck => exact .event fun _ => by simp

/-! ### Commands that move the Time Base -/

theorem setDiscipline_request_clock (setting : Nat) {d : Device} (h : Clock d) : Clock (serveSetDiscipline setting d).2 := by
  unfold serveSetDiscipline; split
  · exact h
  · exact changeDiscipline_clock _ h

theorem setTime_request_clock (day second tick : Nat) {d : Device} (h : Clock d) : Clock (serveSetTime day second tick d).2 := by
  refine checked_keeps _ h fun hall => ?_
  have hin := (List.forall_mem_cons.1 hall).1
  simp only [Bool.or_eq_false_iff, decide_eq_false_iff_not, Nat.not_lt, Nat.not_le] at hin
  obtain ⟨⟨hday, hsecond⟩, htick⟩ := hin
  exact takeSetTime_clock day second tick h hday hsecond htick

/-- What a request found in its checks when no rollover is ACTIVE. -/
theorem idle_of_checked {d : Device} (h : d.rolling = false) (r : Rollover) : d.tb.rollover ≠ some r := by
  intro hr; simp [Device.rolling, hr] at h

theorem setCycleLength_request_clock (length : Nat) {d : Device} (h : Clock d) : Clock (serveSetCycleLength length d).2 := by
  refine checked_keeps _ h fun hall => ?_
  obtain ⟨hin, hall⟩ := List.forall_mem_cons.1 hall
  have idle := idle_of_checked (List.forall_mem_cons.1 hall).1
  simp only [Bool.or_eq_false_iff, beq_eq_false_iff_ne, decide_eq_false_iff_not, Nat.not_lt] at hin
  have hpos := Nat.pos_of_ne_zero hin.1
  refine { h with length := ⟨hpos, hin.2⟩, cycle := ?_, next := fun r hr => absurd hr (idle r) }
  dsimp only; split
  · exact ⟨Nat.le_refl 1, hpos⟩
  · exact ⟨h.cycle.1, by omega⟩

theorem setCycleDay_request_clock (day : Nat) {d : Device} (h : Clock d) : Clock (serveSetCycleDay day d).2 := by
  refine checked_keeps _ h fun hall => ?_
  have hin := (List.forall_mem_cons.1 hall).1
  simp only [Bool.or_eq_false_iff, beq_eq_false_iff_ne, decide_eq_false_iff_not, Nat.not_lt] at hin
  exact { h with cycle := ⟨Nat.pos_of_ne_zero hin.1, hin.2⟩ }

theorem planChoice_range {n : Nat} {c : DayPlanChoice} (h : planChoice n = some c) : c.InRange := by
  unfold planChoice at h; split at h
  · cases h; trivial
  · split at h
    · rename_i hn; cases h; exact hn
    · cases h

theorem exceptionOutcome_range {n : Nat} {o : Option DayPlanChoice} (h : exceptionOutcome n = some o) :
    ∀ c, o = some c → c.InRange := by
  rintro c rfl
  unfold exceptionOutcome at h; split at h
  · cases h
  · exact planChoice_range (by simpa using h)

theorem loadException_request_clock (date outcome start : Nat) {d : Device} (h : Clock d) :
    Clock (serveLoadException date outcome start d).2 := by
  unfold serveLoadException; split
  · rename_i out flag ho hf
    refine checked_keeps _ h fun hall => ?_
    obtain ⟨-, hall⟩ := List.forall_mem_cons.1 hall
    obtain ⟨-, hall⟩ := List.forall_mem_cons.1 hall
    exact loadException_clock h (exceptionOutcome_range ho) (List.forall_mem_cons.1 hall).1
  · exact h

theorem dropException_request_clock (date : Nat) {d : Device} (h : Clock d) : Clock (serveDropException date d).2 := by
  refine checked_keeps _ h fun _ => { h with calendar := { h.calendar with sizes := ?_, excepted := ?_ } }
  · exact ⟨(List.length_filter_le _ _).trans h.calendar.sizes.1, h.calendar.sizes.2⟩
  · exact fun x hx => h.calendar.excepted x (List.mem_of_mem_filter hx)

theorem loadRule_request_clock (number weekdays cycleDay outcome : Nat) {d : Device} (h : Clock d) :
    Clock (serveLoadRule number weekdays cycleDay outcome d).2 := by
  unfold serveLoadRule; split
  · exact h
  · rename_i c hc
    refine checked_keeps _ h fun _ => { h with calendar := { h.calendar with sizes := ?_, ruled := ?_ } }
    · rw [length_setNth]; exact h.calendar.sizes
    · intro r hr
      rcases mem_setNth hr with hr | rfl
      · exact h.calendar.ruled r hr
      · exact planChoice_range hc

theorem loadWeekday_request_clock (day outcome : Nat) {d : Device} (h : Clock d) : Clock (serveLoadWeekday day outcome d).2 := by
  unfold serveLoadWeekday; split
  · exact h
  · rename_i c hc
    refine checked_keeps _ h fun _ => { h with calendar := { h.calendar with sizes := ?_, usual := ?_ } }
    · rw [length_setNth]; exact h.calendar.sizes
    · intro x hx
      rcases mem_setNth hx with hx | rfl
      · exact h.calendar.usual x hx
      · exact planChoice_range hc

theorem selectPlan_tb (c : DayPlanChoice) (d : Device) : (selectPlan c d).tb = { d.tb with today := c } := by
  unfold selectPlan; dsimp only; rw [reassess_tb]; split
  · rfl
  · exact changeDayKind_tb _ _

theorem selectToday_request_clock (plan : Nat) {d : Device} (h : Clock d) : Clock (serveSelectToday plan d).2 := by
  unfold serveSelectToday; split
  · exact h
  · rename_i c hc
    refine checked_keeps _ h fun _ => ?_
    dsimp only; split
    · exact h
    · unfold Clock; rw [selectPlan_tb]
      exact { h with calendar := { h.calendar with today := planChoice_range hc } }

/-- A command's meaning keeps the clock's ranges. -/
def KeepsClock (run : State → Host.Outcome State Fault Refusal) : Prop :=
  ∀ s, Clock s.dev → ∃ d, run s = goesTo s d ∧ Clock d

theorem KeepsClock.always {f : Device → Device} (h : ∀ {d}, Clock d → Clock (f d)) : KeepsClock (act f) :=
  fun s hs => ⟨f s.dev, rfl, h hs⟩
theorem KeepsClock.event {f : Device → Device} (h : ∀ {d}, Clock d → Clock (f d)) : KeepsClock (act (powered f)) :=
  .always fun hd => powered_keeps hd (h hd)
theorem KeepsClock.request {code tag : Nat} {serve : Device → Answer × Device} (h : ∀ {d}, Clock d → Clock (serve d).2) :
    KeepsClock (act (request code tag serve)) :=
  .always fun hd => request_keeps hd (fun _ _ he => he.of_tb rfl) (h hd)
theorem LeavesClock.keeps {run : State → Host.Outcome State Fault Refusal} (h : LeavesClock run) : KeepsClock run := fun s hs =>
  let ⟨d, hd, he⟩ := h s
  ⟨d, hd, hs.of_tb he⟩

theorem exec_keeps_clock (c : Instr) : KeepsClock (exec c) := by
  by_cases hc : movesClock c = false
  · exact (exec_leaves_clock hc).keeps
  · cases c
    case setTime => exact .request (setTime_request_clock _ _ _)
    case setDiscipline => exact .request (setDiscipline_request_clock _)
    case setCycleLength => exact .request (setCycleLength_request_clock _)
    case setCycleDay => exact .request (setCycleDay_request_clock _)
    case loadException => exact .request (loadException_request_clock _ _ _)
    case dropException => exact .request (dropException_request_clock _)
    case loadRule => exact .request (loadRule_request_clock _ _ _ _)
    case loadWeekday => exact .request (loadWeekday_request_clock _ _)
    case selectToday => exact .request (selectToday_request_clock _)
    case replyComplete => exact .event replyGone_clock
    case warmReset => exact .event fun h => (blocksWarm_clock h).of_tb (scannerWarm_tb _)
    case powerUp => exact .always (powerUp_clock _)
    case retentionLoss => exact .always fun _ => retentionLost_clock _ _
    case oscillatorTick => exact .always (oscillatorTick_clock _)
    case masterMark => exact .event masterMark_clock
    case markSilenceExpiry => exact .event markSilenceExpired_clock
    case rolloverStep => exact .event rolloverStep_clock
    all_goals exact absurd rfl hc

/-- Settles O59: a step is idle or runs its front command, and every command keeps the clock's ranges. -/
theorem stepKeepsTheClockInRange : Obligations.StepKeepsTheClockInRange := by
  intro s s' h hstep
  unfold step at hstep
  split at hstep
  · cases hstep; exact h
  · rename_i c rest _
    obtain ⟨d, hd, hc⟩ := exec_keeps_clock c { s with pending := rest } h
    rw [hd] at hstep; cases hstep; exact hc

end Sys2Proof.Machine
end

section
/-! O58: the laws at reset. O5: what a rollover does to requests (R17, Table 1-7). -/
namespace Sys2Proof.Machine

/-- Settles O58, from the laws of the device at reset and those of its day. -/
theorem lawsHoldAtReset : Obligations.LawsHoldAtReset := by
  obtain ⟨links, tallies, day⟩ := ((day_iff _).1 reset_day).1
  have lawful : Lawful State.reset := (lawful_iff _).2 ⟨⟨reset_clock, reset_laws⟩, links, tallies, day, nofun⟩
  exact ⟨lawful.clock, lawful.limits, lawful.sizes, lawful⟩

/-! ### Requests during a rollover -/

theorem answers_inj {s : State} {tag code : Nat} {a b : Answer} {d e : Device}
    (h : answers s tag code a d = answers s tag code b e) : a = b := by
  simp only [answers, Host.Outcome.next.injEq, State.mk.injEq, and_true] at h
  have hop := congrArg (fun x : Device => x.op.inHand) h
  simpa using hop

/-- A request held back by Table 1-7 is answered during the rollover as its checks say. -/
theorem heldBack_answers {code tag : Nat} {serve : Device → Answer × Device} {s : State} (ready : Ready s)
    (h : HeldBack (code == 12) s.dev (serve s.dev) (serve s.dev.idled)) :
    let idle : State := { s with dev := s.dev.idled }
    let early (r : Result) : Prop := r = .range ∨ code = 12 ∧ (r = .full ∨ r = .duplicate)
    (∀ r, early r → act (request code tag serve) idle = refuses idle tag code r →
      act (request code tag serve) s = refuses s tag code r) ∧
    ((∀ r, early r → act (request code tag serve) idle ≠ refuses idle tag code r) →
      act (request code tag serve) s = refuses s tag code .busy) := by
  intro idle early
  have early_iff (r : Result) : EarlyResult (code == 12) r ↔ early r := by simp [EarlyResult, early]
  rw [act_request_ready (s := s) ready, act_request_ready (s := idle) ready]
  rcases h with ⟨q, hq, hs, hidle⟩ | ⟨hs, hnot⟩
  · have hi : serve idle.dev = refuse q idle.dev := hidle
    rw [hs, hi]
    refine ⟨fun r _ heq => ?_, fun hne => absurd rfl (hne q ((early_iff q).1 hq))⟩
    have hqr : q = r := congrArg Answer.result (answers_inj heq)
    rw [hqr]; rfl
  · rw [hs]
    refine ⟨fun r hr heq => ?_, fun _ => rfl⟩
    exact absurd (congrArg Answer.result (answers_inj heq)) (hnot r ((early_iff r).2 hr))

/-- Settles O5: every request is a case of `request`, and what it makes of a rollover is said by `Kept`. -/
theorem rolloverHoldsRequestsBack : Obligations.RolloverHoldsRequestsBack := by
  refine ⟨fun c s tag code ready active hc held => ?_, fun c s tag code a d ready hc free ha => ?_⟩ <;>
    obtain ⟨serve, hexec, kept⟩ := request_served c tag code hc
  · simp only [hexec]
    exact heldBack_answers ready (kept.held held s.dev active)
  · rw [hexec, act_request_ready ready] at ha
    rw [← answers_inj ha]
    exact kept.free free s.dev

end Sys2Proof.Machine
end

section
/-! O6, O7: the requests SET_TIME, QUERY_TIME and SET_DISCIPLINE (R3 to R6). -/
namespace Sys2Proof.Machine

/-! ### Checks in order -/

theorem checked_fails {d : Device} {b : Bool} {r : Result} {l : List (Bool × Result)} {t : Answer × Device} (h : b = true) :
    checked d ((b, r) :: l) t = refuse r d := by rw [checked_cons, if_pos h]
theorem checked_passes {d : Device} {b : Bool} {r : Result} {l : List (Bool × Result)} {t : Answer × Device} (h : b = false) :
    checked d ((b, r) :: l) t = checked d l t := by rw [checked_cons, if_neg (by simp [h])]

/-! ### SET_TIME -/

theorem setTime_outOfRange {day second tick : Nat} {d : Device} (h : 36524 < day ∨ 86399 < second ∨ 63 < tick) :
    serveSetTime day second tick d = refuse .range d :=
  checked_fails (by
    simp only [Bool.or_eq_true, decide_eq_true_eq]
    simp only [Config.lastDay, Config.daySeconds, Config.ticksPerSecond]; omega)

theorem setTime_inRange {day second tick : Nat} {d : Device} (hday : day ≤ 36524) (hsecond : second ≤ 86399) (htick : tick ≤ 63) :
    serveSetTime day second tick d =
      checked d [(d.rolling, .busy), (d.tb.discipline == .locked, .locked)] (ok .empty, takeSetTime day second tick d) :=
  checked_passes (by
    simp only [Bool.or_eq_false_iff, decide_eq_false_iff_not]
    simp only [Config.lastDay, Config.daySeconds, Config.ticksPerSecond]; omega)

theorem setTime_taken {day second tick : Nat} {d : Device} (hday : day ≤ 36524) (hsecond : second ≤ 86399) (htick : tick ≤ 63)
    (idle : d.tb.rollover = none) (unlocked : d.tb.discipline = .unlocked) :
    serveSetTime day second tick d = (ok .empty, takeSetTime day second tick d) := by
  rw [setTime_inRange hday hsecond htick, checked_passes (rolling_idle idle), checked_passes (by simp [unlocked]), checked_nil]

theorem clockValid_iff (d : Device) : d.clockValid = true ↔ d.tb.validity = .valid := by simp [Device.clockValid]
theorem clockValid_false_iff (d : Device) : d.clockValid = false ↔ d.tb.validity = .invalid := by
  unfold Device.clockValid; cases d.tb.validity <;> simp

theorem takeSetTime_invalid {day second tick : Nat} {d : Device} (h : d.tb.validity = .invalid) :
    takeSetTime day second tick d =
      startRollover (.set day false) (setValidity .valid (clockSet second tick (takeWaiting d))) := by
  unfold takeSetTime; rw [if_pos (by simp [(clockValid_false_iff d).2 h])]
theorem takeSetTime_otherDate {day second tick : Nat} {d : Device} (h : d.tb.validity = .valid) (hday : day ≠ d.tb.date) :
    takeSetTime day second tick d = startRollover (.set day true) (clockSet second tick (takeWaiting d)) := by
  unfold takeSetTime; rw [if_neg (by simp [(clockValid_iff d).2 h]), if_pos hday]
theorem takeSetTime_sameDate {day second tick : Nat} {d : Device} (h : d.tb.validity = .valid) (hday : day = d.tb.date) :
    takeSetTime day second tick d = jumpNotice d.minute (clockSet second tick d) := by
  unfold takeSetTime; rw [if_neg (by simp [(clockValid_iff d).2 h]), if_neg (by simp [hday])]

theorem jumpNotice_forward {old : Nat} {d : Device} (h : old < d.minute) : jumpNotice old d = reassess allSites d := if_pos h
theorem jumpNotice_still {old : Nat} {d : Device} (h : d.minute ≤ old) : jumpNotice old d = d := if_neg (Nat.not_lt.2 h)

/-! ### The clock's validity -/

theorem setValidity_changes {v : Validity} {d : Device} (h : d.tb.validity ≠ v) :
    setValidity v d = settling (fun e => ({ e with tb.validity := v } : Device).raise .clock) d := if_neg h

theorem validity_settledAs {v : Validity} {d e : Device}
    (h : e = (({ d with tb.validity := v } : Device).raise .clock).settledAs e) :
    e = { d with tb.validity := v, su.zones := e.su.zones, op.causes := e.op.causes, op.changedZones := e.op.changedZones } := h

/-- A change of validity sets CLOCK and settles the zones, and nothing else changes. -/
theorem validity_settled (v : Validity) (d : Device) :
    let made := settling (fun e => ({ e with tb.validity := v } : Device).raise .clock) d
    made.op.holds .clock = true ∧ made = { d with
      tb.validity := v, su.zones := made.su.zones, op.causes := made.op.causes, op.changedZones := made.op.changedZones } :=
  ⟨settling_holds _ (raise_holds_same _ _), validity_settledAs (settling_frame _ _)⟩

/-- Settles O6: the range, the rollover and the lock are checked in turn, and what is taken goes by the clock's validity and date. -/
theorem timeIsSetAndRead : Obligations.TimeIsSetAndRead := by
  refine ⟨fun s tag day second tick ready => ?_, fun s tag ready => act_request_ready ready⟩
  intro set taken
  have hexec : exec (.setTime tag day second tick) s =
    answers s tag 1 (serveSetTime day second tick s.dev).1 (serveSetTime day second tick s.dev).2 := act_request_ready ready
  have set_eq (d : Device) : set d = clockSet second tick d := rfl
  rw [hexec]
  refine ⟨takeWaiting_none, fun bad => ?_, fun hday hsecond htick active => ?_, fun hday hsecond htick idle locked => ?_,
    fun hday hsecond htick idle unlocked => ?_⟩
  · rw [setTime_outOfRange bad]; rfl
  · rw [setTime_inRange hday hsecond htick, checked_fails (rolling_active active)]; rfl
  · rw [setTime_inRange hday hsecond htick, checked_passes (rolling_idle idle), checked_fails (by simp [locked])]; rfl
  · rw [setTime_taken hday hsecond htick idle unlocked]
    refine ⟨fun invalid => ?_, fun valid other => ?_, fun valid same later => ?_, fun valid same earlier => ?_⟩
    · have hv : (clockSet second tick taken).tb.validity ≠ .valid := by
        have : taken.tb = s.dev.tb := takeWaiting_tb s.dev
        show taken.tb.validity ≠ .valid
        rw [this, invalid]; decide
      rw [takeSetTime_invalid invalid, setValidity_changes hv, ← set_eq]
      exact ⟨rfl, validity_settled .valid (set taken)⟩
    · rw [takeSetTime_otherDate valid other, ← set_eq]
    · rw [takeSetTime_sameDate valid same, jumpNotice_forward (show s.dev.minute < (clockSet second tick s.dev).minute from later)]; rfl
    · rw [takeSetTime_sameDate valid same, jumpNotice_still (show (clockSet second tick s.dev).minute ≤ s.dev.minute from earlier),
        ← set_eq]

/-! ### SET_DISCIPLINE -/

theorem enabledCode_none {n : Nat} (h1 : n ≠ 1) (h2 : n ≠ 2) : enabledCode n = none := by
  unfold enabledCode; split <;> simp_all
theorem enabledCode_of (on : Bool) : enabledCode (if on then 1 else 2) = some on := by cases on <;> rfl

theorem setDiscipline_same {st : DisciplineState} {d : Device} (h : d.tb.discipline = st) :
    setDiscipline st d = { d with tb.discipline := st, tb.lockCount := 0, tb.unlockCount := 0 } := if_pos h
theorem setDiscipline_changes {st : DisciplineState} {d : Device} (h : d.tb.discipline ≠ st) :
    setDiscipline st d = ({ d with tb.discipline := st, tb.lockCount := 0, tb.unlockCount := 0 } : Device).raise .clock := if_neg h

/-- Settles O7: a change of setting is a fall to UNLOCKED, which raises CLOCK where the clock was LOCKED. -/
theorem setDisciplineChangesTheLock : Obligations.SetDisciplineChangesTheLock := by
  intro s tag setting ready
  have hexec : exec (.setDiscipline tag setting) s =
    answers s tag 3 (serveSetDiscipline setting s.dev).1 (serveSetDiscipline setting s.dev).2 := act_request_ready ready
  rw [hexec]
  refine ⟨fun h1 h2 => ?_, fun on hset => ?_⟩
  · unfold serveSetDiscipline; rw [enabledCode_none h1 h2]; rfl
  · have hserve : serveSetDiscipline setting s.dev = (ok .empty, changeDiscipline on s.dev) := by
      unfold serveSetDiscipline; rw [hset, enabledCode_of]
    rw [hserve]
    refine ⟨fun same => ?_, fun other => ⟨fun unlocked => ?_, fun locked => ?_⟩⟩ <;> unfold changeDiscipline
    · rw [if_pos same]
    · rw [if_neg other, setDiscipline_same (by exact unlocked)]
    · rw [if_neg other, setDiscipline_changes (by simp [locked])]

end Sys2Proof.Machine
end

section
/-! A cause held stays held while the records waiting are taken (R171, R179): arrivals and the notices they ask for only raise. -/
namespace Sys2Proof.Machine

theorem submit_holds {c : Cause} (n : Notice) {d : Device} (h : d.op.holds c = true) : (submit n d).op.holds c = true := by
  unfold submit; split
  · exact h
  · exact toCalls_holds _ _ _ h
theorem compose_holds {c : Cause} (b : NoticeBody) (p k x t s : Nat) {d : Device} (h : d.op.holds c = true) :
    (compose b p k x t s d).op.holds c = true := submit_holds (d := d.tagGiven d.freeTag) _ h
theorem composeLateness_holds {c : Cause} (b : NoticeBody) (roll : Nat) {d : Device} (h : d.op.holds c = true) :
    (composeLateness b roll d).op.holds c = true := by
  unfold composeLateness; split
  · exact compose_holds _ _ _ _ _ _ h
  · exact h
theorem composeLeftSite_holds {c : Cause} (r : SignOut) (roll : Nat) {d : Device} (h : d.op.holds c = true) :
    (composeLeftSite r roll d).op.holds c = true := by
  unfold composeLeftSite; split
  · exact compose_holds _ _ _ _ _ _ h
  · exact toCalls_holds (d := d.tagGiven d.freeTag) _ _ _ h

theorem absenceRule_holds {c : Cause} (asArrival : Bool) (roll t : Nat) {d : Device} (h : d.op.holds c = true) :
    (absenceRule asArrival roll t d).op.holds c = true := by
  have asked : ∀ (roll t k x s : Nat) {d : Device}, d.op.holds c = true → (composeArrived roll t k x s d).op.holds c = true :=
    fun _ _ _ _ _ _ hd => compose_holds _ _ _ _ _ _ hd
  unfold absenceRule; split
  · exact h
  · split
    · split
      · exact asked _ _ _ _ _ h
      · exact h
    · split
      · split
        · exact asked _ _ _ _ _ (d := leaveAwaiting t d) h
        · exact h
      · split
        · exact raise_keeps (d := { d with nu.calls := _ }) .calls h
        · split
          · split
            · exact asked _ _ _ _ _ h
            · exact h
          · exact h

theorem judgedNotices_holds {c : Cause} (e : RosterEntry) (b : Band) (m o n : Nat) {d : Device} (h : d.op.holds c = true) :
    (judgedNotices e b m o n d).op.holds c = true := by
  have followed : (if e.state.notified then absenceRuleFor true e.roll e.absenceTag d else d).op.holds c = true := by
    unfold absenceRuleFor
    split
    · split
      · exact h
      · exact absenceRule_holds _ _ _ h
    · exact h
  have recorded {d : Device} (hd : d.op.holds c = true) : (askLateRecorded e b m d).op.holds c = true := by
    unfold askLateRecorded; split
    · exact hd
    · split
      · exact composeLateness_holds _ _ hd
      · exact hd
  have pattern {d : Device} (hd : d.op.holds c = true) : (askLatePattern e.roll b o n d).op.holds c = true := by
    unfold askLatePattern; split
    · exact composeLateness_holds _ _ hd
    · exact hd
  unfold judgedNotices; dsimp only; split
  · exact pattern (recorded followed)
  · exact followed

theorem appendJournal_holds {c : Cause} (r : JournalRecord) {d : Device} (h : d.op.holds c = true) :
    (appendJournal r d).op.holds c = true :=
  raise_keeps (d := { d with ae.journal := _, ae.nextSerial := _, op.readCursor := _, op.lostCount := _ }) .journal h

theorem takeArrival_holds {c : Cause} (a : Arrival) {d : Device} (h : d.op.holds c = true) :
    (takeArrival a d).2.op.holds c = true := by
  unfold takeArrival; split
  · exact appendJournal_holds _ h
  · split
    · exact appendJournal_holds _ h
    · unfold timedArrival; split
      · split
        · exact judgedNotices_holds _ _ _ _ _ (appendJournal_holds _ h)
        · exact appendJournal_holds _ h
      · split
        · unfold signOutArrival; dsimp only; split
          · exact appendJournal_holds _ h
          · exact composeLeftSite_holds _ _ (appendJournal_holds _ h)
        · exact appendJournal_holds _ h

theorem takeNextRecord_holds {c : Cause} {d : Device} (h : d.op.holds c = true) : (takeNextRecord d).op.holds c = true := by
  unfold takeNextRecord; split
  · exact h
  · unfold takeRecord; dsimp only; split
    · exact h
    · exact takeArrival_holds (d := { d with gb.records := _ }) _ h

theorem takeWaiting_holds {c : Cause} {d : Device} (h : d.op.holds c = true) : (takeWaiting d).op.holds c = true :=
  repeated_inv (fun e : Device => e.op.holds c = true) _ (fun _ he => takeNextRecord_holds he) _ _ h

end Sys2Proof.Machine
end

section
/-! O8, O9: the master clock (R7 to R10). -/
namespace Sys2Proof.Machine

/-! ### Taking a mark -/

theorem markGuardPassed_iff (tb : TimeBase) :
    tb.markGuardPassed = true ↔ (tb.markSeen = true → ∀ t, tb.markSilence = some t → 2880 ≤ t) := by
  unfold TimeBase.markGuardPassed
  cases tb.markSeen with
  | false => simp
  | true =>
    cases tb.markSilence with
    | none => simp
    | some t => exact decide_eq_true_iff.trans ⟨fun h _ _ he => Option.some.inj he ▸ h, fun h => h rfl t rfl⟩

theorem takesMark_iff (d : Device) : d.takesMark = true ↔ d.tb.disciplined = true ∧ d.tb.validity = .valid ∧
    (d.tb.markSeen = true → ∀ t, d.tb.markSilence = some t → 2880 ≤ t) := by
  simp only [Device.takesMark, Bool.and_eq_true, clockValid_iff, markGuardPassed_iff, and_assoc]

theorem masterMark_ignored {d : Device} (h : d.takesMark = false) : masterMark d = d := by simp [masterMark, h]
theorem masterMark_taken {d : Device} (h : d.takesMark = true) : masterMark d = takeMasterMark d := by simp [masterMark, h]

theorem markError_eq (tb : TimeBase) :
    tb.markError = (let p : Int := ((tb.second % 60) * 64 + tb.tick : Nat)
      if p < 1920 then p else p - 3840) := by
  by_cases h : tb.second % 60 * 64 + tb.tick < 1920
  · exact (if_pos h).trans (if_pos (by omega)).symm
  · exact (if_neg h).trans (if_neg (by omega)).symm

/-- The device once a mark's error is stored and its timer restarted. -/
def Device.markStored (d : Device) : Device :=
  { d with tb.lastError := some d.tb.markError, tb.markSilence := some 0, tb.markSeen := true, tb.slewPhase := 0 }


/-! ### The lock rule -/

/-- The device with its two lock counts written. -/
def Device.lockCounts (lock unlock : Nat) (d : Device) : Device := { d with tb.lockCount := lock, tb.unlockCount := unlock }

theorem lockRule_near {e : Int} {d : Device} (h : e.natAbs ≤ 2) :
    lockRule e d = if d.tb.lockCount + 1 < 2 then d.lockCounts (d.tb.lockCount + 1) 0 else setDiscipline .locked d := if_pos h
theorem lockRule_far {e : Int} {d : Device} (h : 16 < e.natAbs) :
    lockRule e d = if d.tb.unlockCount + 1 < 2 then d.lockCounts 0 (d.tb.unlockCount + 1) else setDiscipline .unlocked d :=
  (if_neg (by simp only [Config.lockLimit]; omega)).trans (if_pos h)
theorem lockRule_between {e : Int} {d : Device} (h2 : 2 < e.natAbs) (h16 : e.natAbs ≤ 16) : lockRule e d = d.lockCounts 0 0 :=
  (if_neg (by simp only [Config.lockLimit]; omega)).trans (if_neg (by simp only [Config.unlockLimit]; omega))

/-- What the lock of a clock is: the counts and the state. -/
def TimeBase.lock (tb : TimeBase) : Nat × Nat × DisciplineState := (tb.lockCount, tb.unlockCount, tb.discipline)

theorem setDiscipline_lock (st : DisciplineState) (d : Device) : (setDiscipline st d).tb.lock = (0, 0, st) := by
  unfold setDiscipline; dsimp only; split <;> rfl
theorem setDiscipline_raises {st : DisciplineState} {d : Device} (h : d.tb.discipline ≠ st) :
    (setDiscipline st d).op.holds .clock = true := by
  rw [setDiscipline_changes h]; exact raise_holds_same _ _

/-- The lock rule touches nothing of the clock but its lock. -/
theorem lockRule_frame (e : Int) (d : Device) : (lockRule e d).tb = { d.tb with
    lockCount := (lockRule e d).tb.lockCount, unlockCount := (lockRule e d).tb.unlockCount
    discipline := (lockRule e d).tb.discipline } := by
  have moves (st : DisciplineState) : (setDiscipline st d).tb = { d.tb with
      lockCount := (setDiscipline st d).tb.lockCount, unlockCount := (setDiscipline st d).tb.unlockCount
      discipline := (setDiscipline st d).tb.discipline } := by
    unfold setDiscipline; dsimp only; split <;> rfl
  unfold lockRule
  split
  · split
    · rfl
    · exact moves _
  · split
    · split
      · rfl
      · exact moves _
    · rfl

/-! ### What a correction keeps -/

/-- What of the clock a correction does not touch: the lock, the marks' own items and the clock's settings. -/
def TimeBase.marks (tb : TimeBase) : (Nat × Nat × DisciplineState) × Option Int × Option Nat × Bool × Bool × Validity :=
  (tb.lock, tb.lastError, tb.markSilence, tb.markSeen, tb.disciplined, tb.validity)

/-- A change keeps the marks' items of the clock and every cause held. -/
structure MarksKept (a b : Device) : Prop where
  marks : b.tb.marks = a.tb.marks
  causes : ∀ c, a.op.holds c = true → b.op.holds c = true

theorem MarksKept.trans {a b c : Device} (h1 : MarksKept a b) (h2 : MarksKept b c) : MarksKept a c :=
  ⟨h2.marks.trans h1.marks, fun x hx => h2.causes x (h1.causes x hx)⟩

theorem handMinute_marksKept (d : Device) : MarksKept d (handMinute d) := by
  refine ⟨by rw [handMinute_tb], fun c h => ?_⟩
  unfold handMinute; split
  · exact topOfMinute_holds h
  · exact h

theorem crossMidnight_marksKept (kind : RolloverKind) (d : Device) : MarksKept d (crossMidnight kind d) := by
  unfold crossMidnight; split
  · split
    · exact ⟨rfl, fun _ h => h⟩
    · have taken : MarksKept d (takeWaiting d) := ⟨by rw [takeWaiting_tb], fun _ h => takeWaiting_holds h⟩
      exact taken.trans ⟨rfl, fun _ h => h⟩
  · exact ⟨rfl, fun _ h => h⟩

theorem stepClock_marksKept (e : Int) (d : Device) : MarksKept d (stepClock e d) := by
  have raised (second : Nat) : MarksKept d
      (({ d with tb.tick := 0, tb.balance := 0, tb.candidate := none, tb.second := second } : Device).raise .clock) :=
    ⟨rfl, fun _ h => raise_keeps (d := { d with tb.tick := 0, tb.balance := 0, tb.candidate := none, tb.second := second }) .clock h⟩
  have jumped (old : Nat) (b : Device) : MarksKept b (jumpNotice old b) := ⟨by rw [jumpNotice_tb], fun _ h => jumpNotice_holds _ h⟩
  unfold stepClock; dsimp only; split
  · split
    · exact raised _
    · exact ((raised _).trans (jumped _ _)).trans (handMinute_marksKept _)
  · exact (raised d.tb.second).trans (crossMidnight_marksKept _ _)

theorem correct_marksKept (e : Int) (d : Device) : MarksKept d (correct e d) := by
  unfold correct; split
  · exact ⟨rfl, fun _ h => h⟩
  · split
    · exact ⟨rfl, fun _ h => h⟩
    · split
      · exact stepClock_marksKept _ _
      · exact ⟨rfl, fun _ h => h⟩

theorem goesTo_inj {s : State} {d e : Device} (h : goesTo s d = goesTo s e) : d = e := by
  simpa [goesTo] using h

/-- A mark taken leaves the clock's marks' items and the causes as the lock rule does. -/
theorem takeMasterMark_marksKept (d : Device) :
    MarksKept (lockRule d.tb.markError d.markStored) (takeMasterMark d) := correct_marksKept _ _

theorem takeMasterMark_stores (d : Device) : (takeMasterMark d).tb.lastError = some d.tb.markError ∧
    (takeMasterMark d).tb.markSilence = some 0 ∧ (takeMasterMark d).tb.markSeen = true ∧
    (takeMasterMark d).tb.disciplined = d.tb.disciplined ∧ (takeMasterMark d).tb.validity = d.tb.validity := by
  have kept := (takeMasterMark_marksKept d).marks
  rw [lockRule_frame] at kept
  simp only [TimeBase.marks, Prod.mk.injEq] at kept
  exact kept.2

theorem takeMasterMark_lock (d : Device) :
    (takeMasterMark d).tb.lock = (lockRule d.tb.markError d.markStored).tb.lock :=
  congrArg Prod.fst (takeMasterMark_marksKept d).marks

theorem markSilenceExpired_counting {d : Device} {t : Nat} (h : d.tb.markSilence = some t) :
    markSilenceExpired d = setDiscipline .unlocked { d with tb.markSilence := none, tb.candidate := none } := by
  unfold markSilenceExpired; rw [h]
theorem markSilenceExpired_stopped {d : Device} (h : d.tb.markSilence = none) : markSilenceExpired d = d := by
  unfold markSilenceExpired; rw [h]

theorem lock_eq {tb : TimeBase} {l u : Nat} {st : DisciplineState} (h : tb.lock = (l, u, st)) :
    tb.lockCount = l ∧ tb.unlockCount = u ∧ tb.discipline = st := by
  simpa only [TimeBase.lock, Prod.mk.injEq] using h

/-- Settles O8: the correction behind the lock rule keeps the lock, the marks' items and the causes held. -/
theorem masterMarksLockTheClock : Obligations.MasterMarksLockTheClock := by
  have hexec (s : State) (h : Powered s) : exec .masterMark s = goesTo s (masterMark s.dev) := act_powered_on h
  have hexpiry (s : State) (h : Powered s) : exec .markSilenceExpiry s = goesTo s (markSilenceExpired s.dev) := act_powered_on h
  refine ⟨fun s powered => ?_, fun s d powered takes gone => ?_, fun s t powered counting => ?_, fun s powered stopped => ?_⟩
  · intro tb p takes
    rw [hexec s powered]
    refine ⟨fun hn => ?_, fun ht => ?_⟩
    · rw [masterMark_ignored (Bool.eq_false_iff.2 fun h => hn ((takesMark_iff _).1 h))]
    · obtain ⟨error, silence, seen, disciplined, validity⟩ := takeMasterMark_stores s.dev
      refine ⟨_, congrArg (goesTo s) (masterMark_taken ((takesMark_iff _).2 ht)), ?_, silence, seen, ?_, ?_⟩
      · rw [error, markError_eq]
      · rw [disciplined]; exact ht.1
      · rw [validity]; exact ht.2.1
  · rw [hexec s powered, masterMark_taken takes] at gone
    obtain rfl := goesTo_inj gone
    have lock := takeMasterMark_lock s.dev
    have causes := (takeMasterMark_marksKept s.dev).causes .clock
    intro e l u
    refine ⟨fun near more => ?_, fun near full => ?_, fun far more => ?_, fun far full => ?_, fun h2 h16 => ?_⟩
    · rw [lockRule_near near, if_pos (show s.dev.markStored.tb.lockCount + 1 < 2 from more)] at lock
      exact lock_eq lock
    · rw [lockRule_near near, if_neg (show ¬ s.dev.markStored.tb.lockCount + 1 < 2 from Nat.not_lt.2 full)] at lock causes
      obtain ⟨hl, hu, hd⟩ := lock_eq (lock.trans (setDiscipline_lock _ _))
      exact ⟨hl, hu, hd, fun was => causes (setDiscipline_raises (by show s.dev.tb.discipline ≠ _; simp [was]))⟩
    · rw [lockRule_far far, if_pos (show s.dev.markStored.tb.unlockCount + 1 < 2 from more)] at lock
      obtain ⟨hl, hu, hd⟩ := lock_eq lock
      exact ⟨hu, hl, hd⟩
    · rw [lockRule_far far, if_neg (show ¬ s.dev.markStored.tb.unlockCount + 1 < 2 from Nat.not_lt.2 full)] at lock causes
      obtain ⟨hl, hu, hd⟩ := lock_eq (lock.trans (setDiscipline_lock _ _))
      exact ⟨hl, hu, hd, fun was => causes (setDiscipline_raises (by show s.dev.tb.discipline ≠ _; simp [was]))⟩
    · rw [lockRule_between h2 h16] at lock
      exact lock_eq lock
  · intro expired
    rw [hexpiry s powered, markSilenceExpired_counting counting]
    refine ⟨fun unlocked => ?_, fun locked => ?_⟩
    · exact congrArg (goesTo s) (setDiscipline_same unlocked)
    · exact congrArg (goesTo s) (setDiscipline_changes (by show s.dev.tb.discipline ≠ _; simp [locked]))
  · rw [hexpiry s powered, markSilenceExpired_stopped stopped]

end Sys2Proof.Machine
end

section
/-! O9: the correction of a mark, slewed or stepped (R9, R10). -/
namespace Sys2Proof.Machine

/-! ### The minute handed on and midnight crossed -/

theorem handMinute_handed {d : Device} (idle : d.tb.rollover = none) (power : d.mainPower = true) : handMinute d = topOfMinute d := by
  unfold handMinute; rw [rolling_idle idle, power]; rfl
theorem handMinute_rolling {d : Device} (active : d.tb.rollover.isSome = true) : handMinute d = d := by
  unfold handMinute; rw [rolling_active active]; rfl
theorem handMinute_unpowered {d : Device} (power : d.mainPower = false) : handMinute d = d := by
  unfold handMinute; rw [power, Bool.and_false]; rfl

theorem crossMidnight_starts {k : RolloverKind} {d : Device} (valid : d.tb.validity = .valid) (idle : d.tb.rollover = none)
    (power : d.mainPower = true) : crossMidnight k d = startRollover k { takeWaiting d with tb.second := 0 } := by
  unfold crossMidnight; rw [if_pos ((clockValid_iff d).2 valid), rolling_idle idle, power]; rfl
theorem crossMidnight_counts {k : RolloverKind} {d : Device} (valid : d.tb.validity = .valid)
    (held : d.tb.rollover.isSome = true ∨ d.mainPower = false) :
    crossMidnight k d = { d with tb.second := 0, tb.missed := min 36524 (d.tb.missed + 1) } := by
  unfold crossMidnight
  rw [if_pos ((clockValid_iff d).2 valid), if_pos ?_]
  · rfl
  · rcases held with active | power
    · rw [rolling_active active]; rfl
    · rw [power]; simp
theorem crossMidnight_invalid {k : RolloverKind} {d : Device} (h : d.tb.validity = .invalid) :
    crossMidnight k d = { d with tb.second := 0 } := by
  unfold crossMidnight; rw [if_neg (by rw [(clockValid_false_iff d).2 h]; exact Bool.false_ne_true)]

/-! ### What a scan reaches -/

/-- e is d but for the scanner, the sweeps and the Sounder Unit, with its causes. -/
def Scanned (d e : Device) : Prop := e = { d with ss := e.ss, ae.sweeps := e.ae.sweeps, su := e.su, op := e.op }

theorem Scanned.refl (d : Device) : Scanned d d := rfl
theorem Scanned.trans {a b c : Device} (h1 : Scanned a b) (h2 : Scanned b c) : Scanned a c := by
  unfold Scanned at *; rw [h2, h1]
theorem Scanned.mainPower {d e : Device} (h : Scanned d e) : e.mainPower = d.mainPower := by rw [h]
theorem Scanned.rl {d e : Device} (h : Scanned d e) : e.rl = d.rl := by rw [h]
theorem Scanned.of_sounders {d e : Device} (h : e = { d with su := e.su, op := e.op }) : Scanned d e := by
  unfold Scanned; rw [h]
theorem Scanned.of_points {d e : Device} (h : e = { d with ss.confirm := e.ss.confirm, ae.sweeps := e.ae.sweeps }) : Scanned d e := by
  unfold Scanned; rw [h]

theorem onSlot_scanned (i : Nat) (f : PlanSlot → PlanSlot) (d : Device) : Scanned d (d.onSlot i f) := by
  unfold Device.onSlot; split <;> rfl

theorem foldl_scanned {α : Type} {f : Device → α → Device} (h : ∀ d a, Scanned d (f d a)) (l : List α) (d : Device) :
    Scanned d (l.foldl f d) :=
  foldl_inv (Scanned d) f (fun e a he => he.trans (h e a)) l d (.refl d)

theorem fireSlot_scanned (n i : Nat) (sl : PlanSlot) (sites : List Nat) (d : Device) : Scanned d (fireSlot n i sl sites d) := by
  refine (onSlot_scanned i (fun sl => { sl with fired := withSites sl.fired sites }) d).trans ?_
  unfold fireSlot; dsimp only; split
  · exact .of_sounders (startPattern_frame _ _ _)
  · exact .of_sounders (exchangeBanks_frame _)
  · exact .refl _
  · exact foldl_scanned (fun e t => .of_points (handClose_points _ _ _ _ _)) _ _

theorem overSlots_scanned {f : Nat → PlanSlot → Device → Device} (hf : ∀ i sl d, Scanned d (f i sl d)) (d : Device) :
    Scanned d (overSlots f d) :=
  foldl_scanned (fun e i => by
    split
    · exact .refl e
    · exact hf _ _ e) _ _

theorem fireDue_scanned (sites : List Nat) (n : Nat) (d : Device) : Scanned d (fireDue sites n d) :=
  overSlots_scanned (fun i sl e => by
    split
    · exact .refl e
    · exact fireSlot_scanned _ _ _ _ e) d

theorem catchUp_scanned (sites : List Nat) (n : Nat) (d : Device) : Scanned d (catchUp sites n d) :=
  overSlots_scanned (fun i sl e => by
    split
    · exact .refl e
    · split
      · exact onSlot_scanned _ _ e
      · exact fireSlot_scanned _ _ _ _ e
      · exact fireSlot_scanned _ _ _ _ e
      · exact fireSlot_scanned _ _ _ _ e) d

theorem reassess_scanned (sites : List Nat) (d : Device) : Scanned d (reassess sites d) := by
  have points (sites : List Nat) (n : Nat) (e : Device) : Scanned e (firePointsAt sites n e) :=
    .of_points (firePointsAt_points _ _ (fun _ => True) _).1
  have behind (l : List (Nat × Nat × Nat)) : Scanned d (l.foldl (fun acc q => firePoint q.2.1 q.2.2 acc) d) :=
    foldl_scanned (fun e q => .of_points (firePoint_points _ _ e)) l d
  unfold reassess; split
  · exact (behind _).trans ((catchUp_scanned _ _ _).trans ((fireDue_scanned _ _ _).trans (points _ _ _)))
  · exact .refl d

theorem jumpNotice_scanned (old : Nat) (d : Device) : Scanned d (jumpNotice old d) := by
  unfold jumpNotice; split
  · exact reassess_scanned _ d
  · exact .refl d

/-! ### The correction, case by case -/

theorem correct_slewed {e : Int} {d : Device} (h : e.natAbs ≤ 64) : correct e d = { d with tb.balance := e, tb.candidate := none } :=
  if_pos h

theorem correct_far {e : Int} {d : Device} (h : 64 < e.natAbs) : correct e d = match d.tb.candidate with
    | none => { d with tb.candidate := some e }
    | some c => if (e - c).natAbs ≤ 4 then stepClock e d else { d with tb.candidate := some e } := if_neg (Nat.not_le.2 h)
theorem correct_lone {e : Int} {d : Device} (h : 64 < e.natAbs) (hc : d.tb.candidate = none) :
    correct e d = { d with tb.candidate := some e } := by rw [correct_far h, hc]
theorem correct_disagrees {e c : Int} {d : Device} (h : 64 < e.natAbs) (hc : d.tb.candidate = some c) (hec : 4 < (e - c).natAbs) :
    correct e d = { d with tb.candidate := some e } := by
  rw [correct_far h, hc]; exact if_neg (Nat.not_le.2 hec)
theorem correct_agrees {e c : Int} {d : Device} (h : 64 < e.natAbs) (hc : d.tb.candidate = some c) (hec : (e - c).natAbs ≤ 4) :
    correct e d = stepClock e d := by
  rw [correct_far h, hc]; exact if_pos hec

/-- The clock at the tick a step lands on, with its cause, before its second is written. -/
def Device.stepSettled (d : Device) : Device :=
  ({ d with tb.tick := 0, tb.balance := 0, tb.candidate := none } : Device).raise .clock

theorem stepClock_rolling {e : Int} {d : Device} (h : d.tb.steppedMinute e < 1440) (active : d.tb.rollover.isSome = true) :
    stepClock e d = { d.stepSettled with tb.second := 60 * d.tb.steppedMinute e } :=
  (if_pos h).trans (if_pos (rolling_active active))
theorem stepClock_within {e : Int} {d : Device} (h : d.tb.steppedMinute e < 1440) (idle : d.tb.rollover = none)
    (power : d.mainPower = true) :
    stepClock e d = topOfMinute (jumpNotice d.minute { d.stepSettled with tb.second := 60 * d.tb.steppedMinute e }) := by
  refine (if_pos h).trans ((if_neg (by rw [rolling_idle idle]; exact Bool.false_ne_true)).trans (handMinute_handed ?_ ?_))
  · rw [jumpNotice_tb]; exact idle
  · rw [(jumpNotice_scanned _ _).mainPower]; exact power
theorem stepClock_across {e : Int} {d : Device} (h : 1440 ≤ d.tb.steppedMinute e) : stepClock e d = crossMidnight .step d.stepSettled :=
  if_neg (Nat.not_lt.2 h)

/-! ### The obligation -/

/-- The lock rule leaves alone all that a step asks of the device. -/
theorem lockRule_keeps (e : Int) (d : Device) :
    (lockRule e d).tb.second = d.tb.second ∧ (lockRule e d).tb.candidate = d.tb.candidate ∧
    (lockRule e d).tb.validity = d.tb.validity ∧ (lockRule e d).tb.rollover = d.tb.rollover ∧
    (lockRule e d).tb.missed = d.tb.missed ∧ (lockRule e d).mainPower = d.mainPower := by
  have power : (lockRule e d).mainPower = d.mainPower := by
    have set (st : DisciplineState) : (setDiscipline st d).mainPower = d.mainPower := by
      unfold setDiscipline; dsimp only; split <;> rfl
    unfold lockRule
    split
    · split
      · rfl
      · exact set _
    · split
      · split
        · rfl
        · exact set _
      · rfl
  refine ⟨?_, ?_, ?_, ?_, ?_, power⟩ <;> rw [lockRule_frame]

theorem setDiscipline_eq (st : DisciplineState) (d : Device) : setDiscipline st d =
    if d.tb.discipline = st then d.lockCounts 0 0 else ({ d.lockCounts 0 0 with tb.discipline := st } : Device).raise .clock := by
  by_cases h : d.tb.discipline = st
  · rw [if_pos h, setDiscipline_same h, ← h]; rfl
  · rw [if_neg h, setDiscipline_changes h]; rfl

/-- Settles O9: the correction goes by the error's size and the candidate, a step by the minute it lands on. -/
theorem marksSlewOrStep : Obligations.MarksSlewOrStep := by
  refine ⟨fun s powered takes => ?_, fun e d => ?_, fun old d => ⟨fun h => jumpNotice_forward h, fun h => jumpNotice_still h⟩⟩
  · intro tb e ruled minute settled stepped mark
    have hmark : mark = goesTo s (correct e ruled) := by
      have hexec : mark = goesTo s (masterMark s.dev) := act_powered_on powered
      rw [hexec, masterMark_taken takes]; rfl
    obtain ⟨second, candidate, validity, rollover, missed, power⟩ :
        ruled.tb.second = tb.second ∧ ruled.tb.candidate = tb.candidate ∧ ruled.tb.validity = tb.validity ∧
        ruled.tb.rollover = tb.rollover ∧ ruled.tb.missed = tb.missed ∧ ruled.mainPower = s.dev.mainPower :=
      lockRule_keeps e s.dev.markStored
    clear_value ruled
    have hminute : ruled.tb.steppedMinute e = minute := by
      unfold TimeBase.steppedMinute; exact congrArg (fun x => x / 60 + if e < 0 then 1 else 0) second
    have valid : ruled.tb.validity = .valid := validity.trans ((takesMark_iff _).1 takes).2.1
    rw [hmark]
    refine ⟨fun near => by rw [correct_slewed near], fun far lone => ?_, fun c far held apart => ?_, fun c far held agrees => ?_⟩
    · rw [correct_lone far (candidate.trans lone)]
    · rw [correct_disagrees far (candidate.trans held) apart]
    · rw [correct_agrees far (candidate.trans held) agrees]
      refine ⟨fun within => ⟨fun idle => ?_, fun active => ?_⟩, fun across => ?_⟩
      · rw [stepClock_within (hminute ▸ within) (rollover.trans idle) (power.trans powered), hminute]
        have old : ruled.minute = tb.second / 60 := congrArg (· / 60) second
        rw [old]; rfl
      · rw [stepClock_rolling (hminute ▸ within) ((congrArg Option.isSome rollover).trans active), hminute]; rfl
      · rw [stepClock_across (hminute ▸ across)]
        refine ⟨fun idle => ?_, fun active => ?_⟩
        · rw [crossMidnight_starts (d := ruled.stepSettled) valid (rollover.trans idle) (power.trans powered)]; rfl
        · rw [crossMidnight_counts (d := ruled.stepSettled) valid (.inl ((congrArg Option.isSome rollover).trans active))]
          have counted : ruled.stepSettled.tb.missed = tb.missed := missed
          rw [counted]; rfl
  · intro counts moves
    refine ⟨fun near => ?_, fun far => ?_, fun h2 h16 => lockRule_between h2 h16⟩
    · rw [lockRule_near near, setDiscipline_eq]; rfl
    · rw [lockRule_far far, setDiscipline_eq]; rfl

end Sys2Proof.Machine
end

section
/-! O10, O11: the clock advances, and a running second passes (R1, R9, section 7.1). -/
namespace Sys2Proof.Machine

/-! ### The top of a minute -/

theorem scanning_iff (d : Device) : d.scanning = true ↔ d.tb.validity = .valid ∧ d.tb.today ≠ .closed := by
  simp only [Device.scanning, Bool.and_eq_true, clockValid_iff, bne_iff_ne]
theorem topOfMinute_scanning {d : Device} (h : d.scanning = true) :
    topOfMinute d = firePointsAt [0, 1, 2] (d.tb.second / 60) (fireDue [0, 1, 2] (d.tb.second / 60) d) := if_pos h
theorem topOfMinute_still {d : Device} (h : d.tb.validity = .invalid ∨ d.tb.today = .closed) : topOfMinute d = d := by
  refine if_neg fun hs => ?_
  obtain ⟨valid, school⟩ := (scanning_iff d).1 hs
  rcases h with h | h
  · rw [h] at valid; cases valid
  · exact school h

theorem handMinute_eq (d : Device) :
    handMinute d = if d.tb.rollover = none ∧ d.mainPower = true then topOfMinute d else d := by
  unfold handMinute Device.rolling
  cases d.tb.rollover <;> simp

/-! ### The second advances -/

theorem advanceSecond_handed {d : Device} (hs : d.tb.second + 1 < 86400) (h60 : (d.tb.second + 1) % 60 = 0) :
    advanceSecond d = handMinute { d with tb.second := d.tb.second + 1 } := (if_pos hs).trans (if_pos h60)
theorem advanceSecond_within {d : Device} (hs : d.tb.second + 1 < 86400) (h60 : (d.tb.second + 1) % 60 ≠ 0) :
    advanceSecond d = { d with tb.second := d.tb.second + 1 } := (if_pos hs).trans (if_neg h60)
theorem advanceSecond_across {d : Device} (hs : 86400 ≤ d.tb.second + 1) :
    advanceSecond d = handMinute (crossMidnight .midnight d) := if_neg (Nat.not_lt.2 hs)

theorem midnight_starts {d : Device} (hs : 86400 ≤ d.tb.second + 1) (valid : d.tb.validity = .valid) (idle : d.tb.rollover = none)
    (power : d.mainPower = true) : advanceSecond d = startRollover .midnight { takeWaiting d with tb.second := 0 } := by
  rw [advanceSecond_across hs, crossMidnight_starts valid idle power, handMinute_rolling rfl]
theorem midnight_counted {d : Device} (hs : 86400 ≤ d.tb.second + 1) (valid : d.tb.validity = .valid)
    (held : d.tb.rollover.isSome = true ∨ d.mainPower = false) :
    advanceSecond d = { d with tb.second := 0, tb.missed := min 36524 (d.tb.missed + 1) } := by
  rw [advanceSecond_across hs, crossMidnight_counts valid held]
  rcases held with active | power
  · exact handMinute_rolling active
  · exact handMinute_unpowered power
theorem midnight_invalid {d : Device} (hs : 86400 ≤ d.tb.second + 1) (invalid : d.tb.validity = .invalid) :
    advanceSecond d = { d with tb.second := 0 } := by
  rw [advanceSecond_across hs, crossMidnight_invalid invalid, handMinute_eq]
  split
  · exact topOfMinute_still (.inl invalid)
  · rfl

/-- What of the clock an advance of the second moves: the second, and at midnight the rollover and the count missed. -/
theorem advanceSecond_frame (d : Device) : (advanceSecond d).tb = { d.tb with
    second := if d.tb.second + 1 < 86400 then d.tb.second + 1 else 0
    rollover := (advanceSecond d).tb.rollover, missed := (advanceSecond d).tb.missed } := by
  by_cases hin : d.tb.second + 1 < 86400
  · rw [if_pos hin]
    by_cases h60 : (d.tb.second + 1) % 60 = 0
    · rw [advanceSecond_handed hin h60, handMinute_tb]
    · rw [advanceSecond_within hin h60]
  · rw [if_neg hin, advanceSecond_across (Nat.not_lt.1 hin), handMinute_tb]
    unfold crossMidnight
    split
    · split
      · rfl
      · unfold startRollover; dsimp only; rw [takeWaiting_tb]
    · rfl

/-! ### The tick advances -/

/-- The device with its clock's tick written. -/
def Device.atTick (t : Nat) (d : Device) : Device := { d with tb.tick := t }

theorem advanceTick_within {d : Device} (h : d.tb.tick + 1 < 64) : advanceTick d = d.atTick (d.tb.tick + 1) := if_pos h
theorem advanceTick_carries {d : Device} (h : 64 ≤ d.tb.tick + 1) : advanceTick d = advanceSecond (d.atTick 0) :=
  if_neg (Nat.not_lt.2 h)

theorem advances_within (n : Nat) {d : Device} (h : d.tb.tick + n < 64) :
    repeated advanceTick n d = d.atTick (d.tb.tick + n) := by
  induction n generalizing d with
  | zero => rfl
  | succ n ih =>
    have later : (d.atTick (d.tb.tick + 1)).tb.tick + n = d.tb.tick + (n + 1) := by
      show d.tb.tick + 1 + n = _; omega
    calc repeated advanceTick n (advanceTick d)
      _ = repeated advanceTick n (d.atTick (d.tb.tick + 1)) := by rw [advanceTick_within (by omega)]
      _ = d.atTick (d.tb.tick + (n + 1)) := by rw [ih (by omega), later]; rfl

/-- Advances that carry into the second once. -/
theorem advances_carry (n : Nat) {d : Device} (ht : d.tb.tick < 64) (hn : n ≤ 64) (h : 64 ≤ d.tb.tick + n) :
    repeated advanceTick n d = (advanceSecond (d.atTick 0)).atTick (d.tb.tick + n - 64) := by
  induction n generalizing d with
  | zero => omega
  | succ n ih =>
    by_cases hin : d.tb.tick + 1 < 64
    · have later : (d.atTick (d.tb.tick + 1)).tb.tick + n = d.tb.tick + (n + 1) := by
        show d.tb.tick + 1 + n = _; omega
      calc repeated advanceTick n (advanceTick d)
        _ = repeated advanceTick n (d.atTick (d.tb.tick + 1)) := by rw [advanceTick_within hin]
        _ = (advanceSecond (d.atTick 0)).atTick (d.tb.tick + (n + 1) - 64) := by
          rw [ih hin (by omega) (by omega), later]; rfl
    · have zero : (advanceSecond (d.atTick 0)).tb.tick = 0 := by rw [advanceSecond_frame]; rfl
      have left : 0 + n = d.tb.tick + (n + 1) - 64 := by omega
      calc repeated advanceTick n (advanceTick d)
        _ = repeated advanceTick n (advanceSecond (d.atTick 0)) := by rw [advanceTick_carries (by omega)]
        _ = (advanceSecond (d.atTick 0)).atTick (d.tb.tick + (n + 1) - 64) := by
          rw [advances_within n (by omega), zero, left]

/-- What of the clock such advances move. -/
theorem advances_frame (n : Nat) {d : Device} (ht : d.tb.tick < 64) (hn : n ≤ 64) : (repeated advanceTick n d).tb = { d.tb with
    tick := (d.tb.tick + n) % 64
    second := if d.tb.tick + n < 64 then d.tb.second else if d.tb.second + 1 < 86400 then d.tb.second + 1 else 0
    rollover := (repeated advanceTick n d).tb.rollover, missed := (repeated advanceTick n d).tb.missed } := by
  by_cases h : d.tb.tick + n < 64
  · rw [advances_within n h, if_pos h, Nat.mod_eq_of_lt h]; rfl
  · have tick : (d.tb.tick + n) % 64 = d.tb.tick + n - 64 := by omega
    rw [advances_carry n ht hn (by omega), if_neg h, tick]
    unfold Device.atTick; dsimp only; rw [advanceSecond_frame]

/-! ### An oscillator tick -/

/-- The ticks the clock advances by at the next oscillator tick (R9). -/
def TimeBase.slewAdvance (tb : TimeBase) : Nat :=
  if tb.slewPhase = 15 then (if 0 < tb.balance then 0 else if tb.balance < 0 then 2 else 1) else 1

/-- The balance left by the next oscillator tick (R9). -/
def TimeBase.slewLeft (tb : TimeBase) : Int :=
  if tb.slewPhase = 15 ∧ 0 < tb.balance then tb.balance - 1
  else if tb.slewPhase = 15 ∧ tb.balance < 0 then tb.balance + 1 else tb.balance

/-- The device with its slew worked one oscillator tick on. -/
def Device.slewWorked (d : Device) : Device :=
  { d with tb.slewPhase := (d.tb.slewPhase + 1) % 16, tb.balance := d.tb.slewLeft }

theorem slewAdvance_le (tb : TimeBase) : tb.slewAdvance ≤ 2 := by
  unfold TimeBase.slewAdvance; repeat' split
  all_goals omega

theorem slewedAdvance_eq {d : Device} (h : d.tb.slewPhase < 16) :
    slewedAdvance d = repeated advanceTick d.tb.slewAdvance d.slewWorked := by
  unfold slewedAdvance Device.slewWorked TimeBase.slewAdvance TimeBase.slewLeft
  by_cases h15 : d.tb.slewPhase = 15
  · simp only [h15, Config.slewPeriod, true_and, if_true]
    by_cases hp : 0 < d.tb.balance
    · simp only [hp, if_true]; rfl
    · by_cases hn : d.tb.balance < 0
      · simp only [hp, hn, if_false, if_true]; rfl
      · have zero : d.tb.balance = 0 := by omega
        simp only [hp, hn, if_false]; rfl
  · have small : d.tb.slewPhase + 1 < 16 := by omega
    rw [if_pos (show d.tb.slewPhase + 1 < Config.slewPeriod from small), Nat.mod_eq_of_lt small]
    simp only [h15, false_and, if_false]; rfl

/-- The device once an oscillator tick has been counted outside the clock. -/
def Device.counted (sense : ZoneSet) (d : Device) : Device :=
  if d.mainPower then runningTick (silenceTick { d with sense := sense }) else { d with sense := sense }

theorem oscillatorTick_eq (sense : ZoneSet) (d : Device) : oscillatorTick sense d = slewedAdvance (d.counted sense) := rfl

theorem counted_frame (sense : ZoneSet) (d : Device) : (d.counted sense).mainPower = d.mainPower ∧ (d.counted sense).tb =
    { d.tb with runningPhase := (d.counted sense).tb.runningPhase, markSilence := (d.counted sense).tb.markSilence } := by
  have running (e : Device) : (runningTick e).mainPower = e.mainPower ∧
      (runningTick e).tb = { e.tb with runningPhase := (runningTick e).tb.runningPhase } := by
    unfold runningTick; split <;> exact ⟨rfl, rfl⟩
  unfold Device.counted
  split
  · obtain ⟨hp, htb⟩ := running (silenceTick { d with sense := sense })
    exact ⟨hp, by rw [htb]; rfl⟩
  · exact ⟨rfl, rfl⟩

/-- Settles O10: a tick is 0, 1 or 2 advances of the clock, of which at most one carries into the second. -/
theorem oscillatorTickAdvancesTheClock : Obligations.OscillatorTickAdvancesTheClock := by
  refine ⟨fun s sense clock => ?_, fun s sense ht hphase => ?_, fun d => ⟨topOfMinute_still, fun valid school => ?_⟩⟩
  · intro tb sixteenth advance left
    have hleft : tb.slewLeft = left := by
      simp only [TimeBase.slewLeft, left, sixteenth]
      split_ifs <;> omega
    obtain ⟨-, counted⟩ := counted_frame sense s.dev
    have worked : (s.dev.counted sense).slewWorked.tb = { tb with
        slewPhase := (tb.slewPhase + 1) % 16, balance := left
        runningPhase := (s.dev.counted sense).tb.runningPhase, markSilence := (s.dev.counted sense).tb.markSilence } := by
      unfold Device.slewWorked; dsimp only; rw [counted, ← hleft]; rfl
    have hadvance : (s.dev.counted sense).tb.slewAdvance = advance := by rw [counted]; rfl
    refine ⟨_, rfl, ?_⟩
    rw [oscillatorTick_eq, slewedAdvance_eq (by rw [counted]; exact clock.slew), hadvance]
    have hle : advance ≤ 2 := slewAdvance_le tb
    have frame := advances_frame advance (d := (s.dev.counted sense).slewWorked) (by rw [worked]; exact clock.tick) (by omega)
    rw [worked] at frame
    rw [frame]
    have hs : tb.second < 86400 := clock.second
    have ht : tb.tick < 64 := clock.tick
    refine ⟨?_, ?_, Nat.mod_lt _ (by omega), rfl, rfl, rfl, rfl, rfl, rfl⟩
    · dsimp only; split_ifs <;> omega
    · dsimp only; split_ifs <;> omega
  · intro tb sixteenth advance left counted worked before handed ticked at'
    have kept : worked.mainPower = s.dev.mainPower ∧ worked.tb =
        { tb with runningPhase := worked.tb.runningPhase, markSilence := worked.tb.markSilence } := counted_frame sense s.dev
    have hticked : ticked = goesTo s (slewedAdvance worked) := rfl
    clear_value worked ticked
    obtain ⟨hpower, htb⟩ := kept
    have hbefore : worked.slewWorked = before := by
      have phase : worked.tb.slewPhase = tb.slewPhase := by rw [htb]
      have hleft : worked.tb.slewLeft = left := by rw [htb]; rfl
      unfold Device.slewWorked; rw [phase, hleft]
    have hadvance : worked.tb.slewAdvance = advance := by rw [htb]; rfl
    have hle : advance ≤ 2 := slewAdvance_le tb
    rw [hticked, slewedAdvance_eq (by rw [htb]; exact hphase), hbefore, hadvance]
    have tick : before.tb.tick = tb.tick := by show worked.tb.tick = _; rw [htb]
    have second : before.tb.second = tb.second := by show worked.tb.second = _; rw [htb]
    have validity : before.tb.validity = tb.validity := by show worked.tb.validity = _; rw [htb]
    have rollover : before.tb.rollover = tb.rollover := by show worked.tb.rollover = _; rw [htb]
    have missed : before.tb.missed = tb.missed := by show worked.tb.missed = _; rw [htb]
    have power : before.mainPower = s.dev.mainPower := hpower
    clear_value before
    have carry (h : 64 ≤ tb.tick + advance) :
        repeated advanceTick advance before = at' (advanceSecond (before.atTick 0)) := by
      rw [advances_carry advance (tick ▸ ht) (by omega) (tick ▸ h), tick]; rfl
    refine ⟨fun within => ?_, fun carries inDay => ?_, fun carries across => ?_⟩
    · rw [advances_within _ (tick ▸ within), tick]; rfl
    · rw [carry carries]
      refine ⟨fun h60 => ?_, fun h60 => ?_⟩
      · rw [advanceSecond_handed (d := before.atTick 0) (by rw [← second] at inDay; exact inDay)
          (by rw [← second] at h60; exact h60), handMinute_eq, ← second]; rfl
      · rw [advanceSecond_within (d := before.atTick 0) (by rw [← second] at inDay; exact inDay)
          (by rw [← second] at h60; exact h60), ← second]; rfl
    · rw [← second] at across
      rw [carry carries]
      refine ⟨fun valid idle hp => ?_, fun valid held => ?_, fun invalid => ?_⟩
      · rw [midnight_starts (d := before.atTick 0) across (validity.trans valid) (rollover.trans idle) (power.trans hp)]; rfl
      · rw [midnight_counted (d := before.atTick 0) across (validity.trans valid)
          (held.imp (fun h => (congrArg Option.isSome rollover).trans h) power.trans), ← missed]; rfl
      · rw [midnight_invalid (d := before.atTick 0) across (validity.trans invalid)]; rfl
  · exact topOfMinute_scanning ((scanning_iff d).2 ⟨valid, school⟩)

/-! ### A running second -/

theorem runningTick_counts {d : Device} (h : d.tb.runningPhase < 63) :
    runningTick d = { d with tb.runningPhase := d.tb.runningPhase + 1 } :=
  if_pos (show d.tb.runningPhase + 1 < 64 by omega)
theorem runningTick_passes {d : Device} (h : d.tb.runningPhase = 63) : runningTick d = secondPassed { d with tb.runningPhase := 0 } :=
  if_neg (show ¬ d.tb.runningPhase + 1 < 64 by omega)

theorem counted_counts {sense : ZoneSet} {d : Device} (power : d.mainPower = true) (h : d.tb.runningPhase < 63) : d.counted sense =
    { silenceTick { d with sense := sense } with tb.runningPhase := d.tb.runningPhase + 1 } :=
  (if_pos power).trans (runningTick_counts (d := silenceTick { d with sense := sense }) h)
theorem counted_passes {sense : ZoneSet} {d : Device} (power : d.mainPower = true) (h : d.tb.runningPhase = 63) : d.counted sense =
    secondPassed { silenceTick { d with sense := sense } with tb.runningPhase := 0 } :=
  (if_pos power).trans (runningTick_passes (d := silenceTick { d with sense := sense }) h)

/-- An oscillator tick that carries nowhere. -/
theorem oscillatorTick_within {sense : ZoneSet} {d : Device} (ht : d.tb.tick < 63) (hphase : d.tb.slewPhase < 15) :
    oscillatorTick sense d =
      { d.counted sense with tb.tick := d.tb.tick + 1, tb.slewPhase := d.tb.slewPhase + 1 } := by
  obtain ⟨-, htb⟩ := counted_frame sense d
  have phase : (d.counted sense).tb.slewPhase = d.tb.slewPhase := by rw [htb]
  have tick : (d.counted sense).tb.tick = d.tb.tick := by rw [htb]
  have advance : (d.counted sense).tb.slewAdvance = 1 := if_neg (by omega)
  have left : (d.counted sense).tb.slewLeft = (d.counted sense).tb.balance := by
    unfold TimeBase.slewLeft; rw [if_neg (by omega), if_neg (by omega)]
  have tick' : (d.counted sense).slewWorked.tb.tick = d.tb.tick := tick
  rw [oscillatorTick_eq, slewedAdvance_eq (by omega), advance, advances_within 1 (by omega), tick']
  unfold Device.slewWorked Device.atTick
  rw [left, phase, Nat.mod_eq_of_lt (by omega)]

/-- Settles O11: a tick that carries nowhere is the count of running seconds and one advance. -/
theorem runningSecondPasses : Obligations.RunningSecondPasses := by
  have hexec (s : State) (sense : ZoneSet) (ht : s.dev.tb.tick < 63) (hphase : s.dev.tb.slewPhase < 15) :
      exec (.oscillatorTick sense) s = goesTo s
        { s.dev.counted sense with tb.tick := s.dev.tb.tick + 1, tb.slewPhase := s.dev.tb.slewPhase + 1 } :=
    congrArg (goesTo s) (oscillatorTick_within ht hphase)
  refine ⟨fun s sense powered ht hphase => ⟨fun counts => ?_, fun passes => ?_⟩, fun s sense off ht hphase => ?_⟩
  · rw [hexec s sense ht hphase, counted_counts powered counts]; rfl
  · rw [hexec s sense ht hphase, counted_passes powered passes]; rfl
  · have unpowered : s.dev.counted sense = { s.dev with sense := sense } := if_neg (by simp [off])
    rw [hexec s sense ht hphase, unpowered]

end Sys2Proof.Machine
end

section
/-! O12, O13, O14: the exceptions, the cycle and the calendar (R11 to R14). -/
namespace Sys2Proof.Machine

/-! ### Codes -/

theorem planChoice_plan {n : Nat} (h1 : 1 ≤ n) (h8 : n ≤ 8) : planChoice n = some (.plan n) :=
  (if_neg (by omega)).trans (if_pos ⟨h1, h8⟩)
theorem planChoice_none {n : Nat} (h : n = 0 ∨ (8 < n ∧ n ≠ 255)) : planChoice n = none :=
  (if_neg (by omega)).trans (if_neg (by omega))
theorem exceptionOutcome_of {n : Nat} (h : n ≤ 8 ∨ n = 255) :
    exceptionOutcome n = some (if n = 0 then none else some (if n = 255 then .closed else .plan n)) := by
  unfold exceptionOutcome
  by_cases h0 : n = 0
  · rw [if_pos h0, if_pos h0]
  · rw [if_neg h0, if_neg h0]
    by_cases h255 : n = 255
    · rw [if_pos h255, h255]; rfl
    · rw [if_neg h255, planChoice_plan (by omega) (by omega)]; rfl
theorem exceptionOutcome_none {n : Nat} (h : 8 < n ∧ n ≠ 255) : exceptionOutcome n = none := by
  unfold exceptionOutcome; rw [if_neg (by omega), planChoice_none (.inr h)]; rfl
theorem flagCode_of (start : Bool) : flagCode (if start then 1 else 0) = some start := by cases start <;> rfl
theorem flagCode_none {n : Nat} (h : 1 < n) : flagCode n = none := by
  unfold flagCode; split
  · omega
  · omega
  · rfl

/-! ### The exceptions -/

theorem dateHeld_iff (l : List CalException) (date : Nat) : l.any (·.date == date) = true ↔ ∃ y ∈ l, y.date = date := by
  simp [List.any_eq_true]
theorem dateHeld_not {l : List CalException} {date : Nat} : l.any (·.date == date) = false ↔ ∀ y ∈ l, y.date ≠ date := by
  simp [List.any_eq_false]

theorem mem_putException (x y : CalException) (l : List CalException) :
    y ∈ putException x l ↔ y = x ∨ y ∈ l ∧ y.date ≠ x.date := by
  unfold putException; rw [mem_insertBefore, List.mem_filter]; simp

theorem putException_ascending (x : CalException) {l : List CalException} (h : l.Pairwise (·.date < ·.date)) :
    (putException x l).Pairwise (·.date < ·.date) := by
  have others : ((l.filter (·.date != x.date)).map CalException.date).Pairwise (· < ·) :=
    List.pairwise_map.2 (h.filter _)
  have new : x.date ∉ (l.filter (·.date != x.date)).map CalException.date := by simp
  exact List.pairwise_map.1 (ascending_insert others new)

theorem loadException_checks {date outcome flag : Nat} {out : Option DayPlanChoice} {start : Bool} {d : Device}
    (ho : exceptionOutcome outcome = some out) (hf : flagCode flag = some start) (hdate : date ≤ 36524)
    (idle : d.tb.rollover = none) : serveLoadException date outcome flag d =
      checked d [(Config.maxExceptions ≤ d.tb.exceptions.length && !d.tb.exceptions.any (·.date == date), .full)]
        (ok .empty, { d with tb.exceptions := putException ⟨date, out, start⟩ d.tb.exceptions }) := by
  unfold serveLoadException
  rw [ho, hf]
  exact (checked_passes (decide_eq_false (Nat.not_lt.2 hdate))).trans (checked_passes (rolling_idle idle))

theorem loadException_outOfRange {date outcome flag : Nat} {d : Device}
    (h : 36524 < date ∨ (8 < outcome ∧ outcome ≠ 255) ∨ 1 < flag) : serveLoadException date outcome flag d = refuse .range d := by
  unfold serveLoadException
  split
  · rename_i ho hf
    rcases h with hdate | hout | hflag
    · exact checked_fails (decide_eq_true hdate)
    · rw [exceptionOutcome_none hout] at ho; cases ho
    · rw [flagCode_none hflag] at hf; cases hf
  · rfl

/-- Settles O12: an exception is put at its date's place among those of other dates. -/
theorem exceptionsAreHeldByDate : Obligations.ExceptionsAreHeldByDate := by
  refine ⟨fun s tag date outcome start steady hdate hout => ?_, fun s tag date outcome flag ready bad => ?_,
    fun s tag date steady => ?_⟩
  · intro load x
    have hload : load = answers s tag 6 _ _ := act_request_ready steady.1
    rw [loadException_checks (exceptionOutcome_of hout) (flagCode_of start) hdate steady.2] at hload
    refine ⟨fun full absent => ?_, fun room => ?_⟩
    · rw [hload, checked_fails (by rw [dateHeld_not.2 absent, Bool.not_false, Bool.and_true]; exact decide_eq_true full)]; rfl
    · refine ⟨putException x s.dev.tb.exceptions, ?_, fun y => mem_putException x y _, putException_ascending x⟩
      rw [hload, checked_passes, checked_nil]
      rw [Bool.and_eq_false_iff]
      rcases room with room | held
      · exact .inl (decide_eq_false (Nat.not_le.2 room))
      · exact .inr (by rw [(dateHeld_iff _ _).2 held]; rfl)
  · have hload : exec (.loadException tag date outcome flag) s = answers s tag 6 _ _ := act_request_ready ready
    rw [hload, loadException_outOfRange bad]; rfl
  · obtain ⟨ready, idle⟩ := steady
    have hdrop : exec (.dropException tag date) s = answers s tag 7 _ _ := act_request_ready ready
    have hquery : exec (.queryExceptions tag date) s = answers s tag 8 _ _ := act_request_ready ready
    unfold serveDropException at hdrop
    rw [checked_passes (rolling_idle idle)] at hdrop
    refine ⟨fun absent => ?_, fun held => ?_, ?_⟩
    · rw [hdrop, checked_fails (by rw [dateHeld_not.2 absent]; rfl)]; rfl
    · rw [hdrop, checked_passes (by rw [(dateHeld_iff _ _).2 held]; rfl), checked_nil]
    · rw [hquery]; unfold serveQueryExceptions; rw [checked_passes (rolling_idle idle), checked_nil]; rfl

/-! ### The cycle and the calendar -/

theorem setNth_pos {α : Type} {n : Nat} (h : 1 ≤ n) (l : List α) (a : α) : setNth l n a = l.set (n - 1) a := if_neg (by omega)

/-- A request whose one range check and the rollover's it passes is taken. -/
theorem inRange_checks {d : Device} {bad : Bool} {t : Answer × Device} (hbad : bad = false) :
    (d.tb.rollover.isSome = true → checked d [(bad, .range), (d.rolling, .busy)] t = refuse .busy d) ∧
    (d.tb.rollover = none → checked d [(bad, .range), (d.rolling, .busy)] t = t) := by
  rw [checked_passes hbad]
  exact ⟨fun active => checked_fails (rolling_active active), fun idle => (checked_passes (rolling_idle idle)).trans (checked_nil _ _)⟩

theorem numberBad_iff {n limit : Nat} : (n == 0 || decide (limit < n)) = true ↔ n = 0 ∨ limit < n := by simp
theorem numberBad_not {n limit : Nat} (h1 : 1 ≤ n) (hl : n ≤ limit) : (n == 0 || decide (limit < n)) = false := by simp; omega
theorem ruleBad_iff {n w c limit : Nat} : (n == 0 || decide (8 < n) || !fitsMask 7 w || decide (limit < c)) = true ↔
    n = 0 ∨ 8 < n ∨ 128 ≤ w ∨ limit < c := by
  simp [fitsMask, or_assoc]

theorem serveLoadRule_of {number weekdays cycleDay outcome : Nat} {c : DayPlanChoice} {d : Device} (ho : planChoice outcome = some c)
    (hn : 1 ≤ number) (h8 : number ≤ 8) (hw : weekdays < 128) (hc : cycleDay ≤ 10) (idle : d.tb.rollover = none) :
    serveLoadRule number weekdays cycleDay outcome d =
      (ok .empty, { d with tb.rules := d.tb.rules.set (number - 1) (loadedRule weekdays cycleDay c) }) := by
  have bad : (number == 0 || 8 < number || !fitsMask 7 weekdays || Config.maxCycle < cycleDay) = false := by
    refine Bool.eq_false_iff.2 fun h => ?_
    rcases ruleBad_iff.1 h with h | h | h | (h : 10 < cycleDay) <;> omega
  unfold serveLoadRule
  rw [ho]; dsimp only
  rw [(inRange_checks bad).2 idle, setNth_pos hn]

theorem serveLoadRule_refuses {number weekdays cycleDay outcome : Nat} {d : Device}
    (h : number = 0 ∨ 8 < number ∨ 128 ≤ weekdays ∨ 10 < cycleDay ∨ outcome = 0 ∨ (8 < outcome ∧ outcome ≠ 255)) :
    serveLoadRule number weekdays cycleDay outcome d = refuse .range d := by
  unfold serveLoadRule
  split
  · rfl
  · rename_i ho
    have hout : ¬ (outcome = 0 ∨ (8 < outcome ∧ outcome ≠ 255)) := fun hx => by rw [planChoice_none hx] at ho; cases ho
    refine checked_fails (ruleBad_iff.2 ?_)
    show number = 0 ∨ 8 < number ∨ 128 ≤ weekdays ∨ 10 < cycleDay
    omega

theorem serveLoadWeekday_of {day outcome : Nat} {c : DayPlanChoice} {d : Device} (ho : planChoice outcome = some c)
    (h1 : 1 ≤ day) (h7 : day ≤ 7) (idle : d.tb.rollover = none) :
    serveLoadWeekday day outcome d = (ok .empty, { d with tb.weekdays := d.tb.weekdays.set (day - 1) c }) := by
  unfold serveLoadWeekday
  rw [ho]; dsimp only
  rw [(inRange_checks (numberBad_not h1 h7)).2 idle, setNth_pos h1]

theorem serveLoadWeekday_refuses {day outcome : Nat} {d : Device}
    (h : day = 0 ∨ 7 < day ∨ outcome = 0 ∨ (8 < outcome ∧ outcome ≠ 255)) : serveLoadWeekday day outcome d = refuse .range d := by
  unfold serveLoadWeekday
  split
  · rfl
  · rename_i ho
    have hout : ¬ (outcome = 0 ∨ (8 < outcome ∧ outcome ≠ 255)) := fun hx => by rw [planChoice_none hx] at ho; cases ho
    exact checked_fails (numberBad_iff.2 (by omega))

/-- Settles O13: each request makes its range check and the rollover's, and writes its one item. -/
theorem cycleAndCalendarAreSet : Obligations.CycleAndCalendarAreSet := by
  refine ⟨fun s tag n ready => ?_, fun s tag number weekdays cycleDay outcome steady => ?_, fun s tag day outcome steady => ?_,
    fun s tag steady => ?_, fun r date candidate none => ?_⟩
  · have hlength : exec (.setCycleLength tag n) s = answers s tag 4 _ _ := act_request_ready ready
    have hday : exec (.setCycleDay tag n) s = answers s tag 5 _ _ := act_request_ready ready
    unfold serveSetCycleLength at hlength
    unfold serveSetCycleDay at hday
    have lengthFits (h1 : 1 ≤ n) (h10 : n ≤ 10) : (n == 0 || decide (Config.maxCycle < n)) = false := numberBad_not h1 h10
    refine ⟨fun bad => ?_, fun h1 h10 active => ?_, fun h1 h10 idle within => ?_, fun h1 h10 idle beyond => ?_,
      fun bad => ?_, fun h1 hl active => ?_, fun h1 hl idle => ?_⟩
    · rw [hlength, checked_fails (numberBad_iff (limit := Config.maxCycle).2 bad)]; rfl
    · rw [hlength, (inRange_checks (lengthFits h1 h10)).1 active]; rfl
    · rw [hlength, (inRange_checks (lengthFits h1 h10)).2 idle, if_neg (Nat.not_lt.2 within)]
    · rw [hlength, (inRange_checks (lengthFits h1 h10)).2 idle, if_pos beyond]
    · rw [hday, checked_fails (numberBad_iff.2 bad)]; rfl
    · rw [hday, (inRange_checks (numberBad_not h1 hl)).1 active]; rfl
    · rw [hday, (inRange_checks (numberBad_not h1 hl)).2 idle]
  · intro load rule
    have hload : load = answers s tag 9 _ _ := act_request_ready steady.1
    refine ⟨fun bad => by rw [hload, serveLoadRule_refuses bad]; rfl, fun hn h8 hw hc => ⟨fun o1 o8 => ?_, fun closed => ?_⟩⟩
    · rw [hload, serveLoadRule_of (planChoice_plan o1 o8) hn h8 hw hc steady.2]; rfl
    · rw [hload, closed, serveLoadRule_of rfl hn h8 hw hc steady.2]; rfl
  · intro load
    have hload : load = answers s tag 10 _ _ := act_request_ready steady.1
    refine ⟨fun bad => by rw [hload, serveLoadWeekday_refuses bad]; rfl, fun h1 h7 => ⟨fun o1 o8 => ?_, fun closed => ?_⟩⟩
    · rw [hload, serveLoadWeekday_of (planChoice_plan o1 o8) h1 h7 steady.2]
    · rw [hload, closed, serveLoadWeekday_of rfl h1 h7 steady.2]
  · have hquery : exec (.queryCalendar tag) s = answers s tag 11 _ _ := act_request_ready steady.1
    rw [hquery]; unfold serveQueryCalendar; rw [checked_passes (rolling_idle steady.2), checked_nil]
  · unfold CalRule.matchesDay; rw [none]; simp

/-! ### The plan for a date -/

theorem candidateDay_eq (tb : TimeBase) (cycle : Nat) :
    tb.candidateDay cycle = if cycle < tb.cycleLength then cycle + 1 else 1 := by
  unfold TimeBase.candidateDay nextOf; split_ifs <;> omega

theorem matchesDay_iff (r : CalRule) (date candidate : Nat) : r.matchesDay date candidate = true ↔
    r.weekdays.getLsbD ((date + 5) % 7) = true ∧ (r.cycleDay = none ∨ r.cycleDay = some candidate) := by
  simp [CalRule.matchesDay, weekday]

theorem planFor_excepted {tb : TimeBase} {date cycle : Nat} {x : CalException} {c : DayPlanChoice}
    (hx : tb.exceptions.find? (·.date == date) = some x) (hc : x.outcome = some c) : tb.planFor date cycle = c := by
  unfold TimeBase.planFor TimeBase.exceptionFor; rw [hx, Option.bind_some, hc]

/-- No exception held for a date overrides its outcome. -/
def TimeBase.unexcepted (tb : TimeBase) (date : Nat) : Prop :=
  ∀ x, tb.exceptions.find? (·.date == date) = some x → x.outcome = none

theorem unexcepted_outcome {tb : TimeBase} {date : Nat} (h : tb.unexcepted date) :
    (tb.exceptionFor date).bind (·.outcome) = none := by
  unfold TimeBase.exceptionFor
  cases hx : tb.exceptions.find? (·.date == date) with
  | none => rfl
  | some x => exact h x hx

theorem planFor_ruled {tb : TimeBase} {date cycle : Nat} {r : CalRule} (h : tb.unexcepted date)
    (found : tb.rules.find? (CalRule.matchesDay date (tb.candidateDay cycle)) = some r) : tb.planFor date cycle = r.outcome := by
  unfold TimeBase.planFor; simp only [unexcepted_outcome h, found]
theorem planFor_default {tb : TimeBase} {date cycle : Nat} (h : tb.unexcepted date)
    (found : tb.rules.find? (CalRule.matchesDay date (tb.candidateDay cycle)) = none) :
    tb.planFor date cycle = tb.weekdays.getD ((date + 5) % 7) .closed := by
  unfold TimeBase.planFor; simp only [unexcepted_outcome h, found, weekday]

/-- Settles O14, from the three sources of a plan in turn. -/
theorem planForADate : Obligations.PlanForADate := by
  intro tb date cycle candidate day fits
  have fits_iff (r : CalRule) : r.matchesDay date (tb.candidateDay cycle) = true ↔ fits r := by
    rw [matchesDay_iff, candidateDay_eq]
  refine ⟨fun x c hx hc => planFor_excepted hx hc, fun unset => ?_, fun school d hd => ?_, fun all closed => ?_⟩
  · refine ⟨fun i r hi hr first => ?_, fun unfit c hc => ?_⟩
    · obtain ⟨hlt, hget⟩ := List.getElem?_eq_some_iff.1 hi
      refine planFor_ruled unset (List.find?_eq_some_iff_getElem.2 ⟨(fits_iff r).2 hr, i, hlt, hget, fun j hj => ?_⟩)
      have unfit := mt (fits_iff _).1 (first j _ hj (List.getElem?_eq_getElem (hj.trans hlt)))
      rw [Bool.not_eq_true']; exact Bool.eq_false_iff.2 unfit
    · rw [planFor_default unset (List.find?_eq_none.2 fun r hr hm => unfit r hr ((fits_iff r).1 hm)),
        List.getD_eq_getElem?_getD, hc]; rfl
  · unfold Device.schoolDay; rw [hd]; exact bne_iff_ne.2 school
  · have := all { Device.reset with tb := tb } rfl
    unfold Device.schoolDay at this
    exact bne_iff_ne.1 this closed

end Sys2Proof.Machine
end

section
/-! O15: the rollover's steps that are taken whole, and its end (R16, R19, R26). -/
namespace Sys2Proof.Machine

/-! ### The step at hand -/

theorem rolloverStep_idle {d : Device} (h : d.tb.rollover = none) : rolloverStep d = d := by
  unfold rolloverStep; rw [h]

section
variable {d : Device} {r : Rollover} (hr : d.tb.rollover = some r)
include hr

theorem rolloverStep_1 (h : r.step = 1) : rolloverStep d = toStep 2 r (d.onAe fun ae => { ae with sweeps := [] }) := by
  unfold rolloverStep; simp only [hr, h]
theorem rolloverStep_2 (h : r.step = 2) : rolloverStep d = step2 r d := by unfold rolloverStep; simp only [hr, h]
theorem rolloverStep_3 (h : r.step = 3) : rolloverStep d = toStep 4 r (d.onAe fun ae => { ae with roster := none, latch := none }) := by
  unfold rolloverStep; simp only [hr, h]
theorem rolloverStep_4 (h : r.step = 4) : rolloverStep d = step4 r d := by unfold rolloverStep; simp only [hr, h]
theorem rolloverStep_5 (h : r.step = 5) : rolloverStep d = step5 r d := by unfold rolloverStep; simp only [hr, h]
theorem rolloverStep_6 (h : r.step = 6) : rolloverStep d = toStep 7 r { d with tb.cycleDay := r.nextCycle } := by
  unfold rolloverStep; simp only [hr, h]
theorem rolloverStep_7 (h : r.step = 7) : rolloverStep d = step7 r d := by unfold rolloverStep; simp only [hr, h]
theorem rolloverStep_8 (h : r.step = 8) : rolloverStep d = toStep 9 r { d with ss := d.ss.dayCleared } := by
  unfold rolloverStep; simp only [hr, h]
theorem rolloverStep_9 (h : r.step = 9) : rolloverStep d = step9 r d := by unfold rolloverStep; simp only [hr, h]
theorem rolloverStep_10 (h : r.step = 10) : rolloverStep d = step10 r d := by unfold rolloverStep; simp only [hr, h]
theorem rolloverStep_11 (h : r.step = 11) : rolloverStep d = step11 r d := by unfold rolloverStep; simp only [hr, h]
theorem rolloverStep_12 (h : r.step = 12) : rolloverStep d = step12 r d := by unfold rolloverStep; simp only [hr, h]
theorem rolloverStep_13 (h : r.step = 13) : rolloverStep d = step13 r d := by unfold rolloverStep; simp only [hr, h]

end

theorem exec_rolloverStep {s : State} (h : Powered s) : exec .rolloverStep s = goesTo s (rolloverStep s.dev) := act_powered_on h

/-! ### Walking on -/

theorem walkOn_eq (size nextStep : Nat) (r : Rollover) (d : Device) : walkOn size nextStep r d = { d with
    tb.rollover := some (if r.cursor < size then { r with cursor := r.cursor + 1 } else { r with step := nextStep, cursor := 1 }) } := by
  unfold walkOn; split <;> rfl

/-! ### The start of day -/

theorem releaseHeld_none {d : Device} (h : d.rl.rolloverHold = []) : releaseHeld d = d := by
  have same : ({ d with rl.rolloverHold := [] } : Device) = d := by rw [← h]
  unfold releaseHeld
  simp only [h, List.getLast?_nil, List.foldl_nil, same]

theorem releaseHeld_last {d : Device} {l : List HeldMessage} {m : HeldMessage} (h : d.rl.rolloverHold = l ++ [m]) :
    releaseHeld d =
      let handed := (l ++ [m]).foldl (fun e x => takeContent x.content e) { d with rl.rolloverHold := [] }
      { handed with rl := handed.rl.collect m.place } := by
  unfold releaseHeld
  simp only [h, List.getLast?_concat]

/-- Settles O15; the start of day finds the held messages as they were, for a scan leaves the Relay Link alone. -/
theorem rolloverStepsInOrder : Obligations.RolloverStepsInOrder := by
  refine ⟨fun s r powered hr => ?_, fun s r powered hr hs => ?_, fun d => ?_, fun kind d => rfl, fun s powered idle => ?_⟩
  · rw [exec_rolloverStep powered]
    refine ⟨fun hs => ?_, fun hs => ?_, fun hs => ?_, fun hs => ?_, fun hs => ?_, fun hs idle => ?_, fun hs inFlight => ?_⟩
    · rw [rolloverStep_1 hr hs]; rfl
    · rw [rolloverStep_3 hr hs]; rfl
    · rw [rolloverStep_6 hr hs]; rfl
    · rw [rolloverStep_7 hr hs]; unfold step7; rw [walkOn_eq]; rfl
    · rw [rolloverStep_8 hr hs]; rfl
    · rw [rolloverStep_11 hr hs]; unfold step11; rw [if_pos idle]; rfl
    · rw [rolloverStep_11 hr hs]; unfold step11; rw [if_neg inFlight]; rfl
  · intro ended
    rw [exec_rolloverStep powered, rolloverStep_13 hr hs]
    refine ⟨fun more => ?_, fun all => ?_⟩
    · exact congrArg (goesTo s) (if_pos (Nat.sub_pos_of_lt more))
    · exact congrArg (goesTo s) (if_neg (by omega))
  · intro ready
    have held : ready.rl.rolloverHold = d.rl.rolloverHold := congrArg RelayLink.rolloverHold (reassess_scanned _ d).rl
    exact ⟨fun h => releaseHeld_none (held.trans h), fun l m h => releaseHeld_last (held.trans h)⟩
  · rw [exec_rolloverStep powered, rolloverStep_idle idle]

end Sys2Proof.Machine
end

section
/-! O16: the rollover's steps that open the day (R14 to R16, R21, R22). -/
namespace Sys2Proof.Machine

/-! ### Step 4 -/

theorem step4_sets {r : Rollover} {d : Device} (h : r.newDate d.tb ≤ 36524) : step4 r d =
    { d with tb.date := r.newDate d.tb, tb.rollover := some { r with
      step := 5, cursor := 1, taken := if r.kind = .resume then d.tb.missed else 0 } } := if_neg (Nat.not_lt.2 h)
theorem step4_ends {r : Rollover} {d : Device} (h : 36524 < r.newDate d.tb) : step4 r d = calendarEnd r d := if_pos h

theorem setValidity_eq (v : Validity) (d : Device) : setValidity v d =
    if d.tb.validity = v then d else settling (fun e => ({ e with tb.validity := v } : Device).raise .clock) d := rfl

theorem calendarEnd_eq (r : Rollover) (d : Device) : calendarEnd r d =
    ({ setValidity .invalid (setDiscipline .unlocked d) with
      tb.candidate := none, tb.date := 36524, tb.today := .closed, tb.missed := if r.kind = .resume then 0 else d.tb.missed
      tb.rollover := some { r with step := 13, cursor := 1, taken := 0 } } : Device).raise .clock := rfl

/-- What the end of the calendar range leaves of the clock. -/
theorem calendarEnd_clock (r : Rollover) (d : Device) :
    (calendarEnd r d).tb.validity = .invalid ∧ (calendarEnd r d).tb.discipline = .unlocked ∧
    (calendarEnd r d).tb.lockCount = 0 ∧ (calendarEnd r d).tb.unlockCount = 0 ∧ (calendarEnd r d).op.holds .clock = true := by
  obtain ⟨hl, hu, hd⟩ := lock_eq (setDiscipline_lock .unlocked d)
  rw [calendarEnd_eq]
  have htb := setValidity_tb .invalid (setDiscipline .unlocked d)
  generalize setValidity .invalid (setDiscipline .unlocked d) = ended at htb ⊢
  refine ⟨?_, ?_, ?_, ?_, raise_holds_same .clock _⟩
  · show ended.tb.validity = _; rw [htb]
  · show ended.tb.discipline = _; rw [htb]; exact hd
  · show ended.tb.lockCount = _; rw [htb]; exact hl
  · show ended.tb.unlockCount = _; rw [htb]; exact hu

theorem setDiscipline_validity (st : DisciplineState) (d : Device) : (setDiscipline st d).tb.validity = d.tb.validity := by
  unfold setDiscipline; dsimp only; split <;> rfl

/-! ### Step 5 -/

theorem step5_takes {r : Rollover} {d : Device} {date : Nat} (h : (r.dates d.tb.date)[r.datePlace]? = some date)
    (h0 : r.termRoll = 0) : step5 r d = takeDate date r d := by
  unfold step5; simp only [h, h0, if_true]
theorem step5_walks {r : Rollover} {d : Device} {date : Nat} (h : (r.dates d.tb.date)[r.datePlace]? = some date)
    (h0 : r.termRoll ≠ 0) : step5 r d = cursorOn r (d.onAe fun ae => ae.onPupil r.termRoll Pupil.termStarted) := by
  unfold step5; simp only [h, h0, if_false]
theorem step5_removes {r : Rollover} {d : Device} (h : (r.dates d.tb.date)[r.datePlace]? = none) : step5 r d = removeException r d := by
  unfold step5; simp only [h]

theorem onPupil_eq (roll : Nat) (f : Pupil → Pupil) (ae : Attendance) :
    ae.onPupil roll f = { ae with pupils := ae.pupils.map fun p => if p.roll = roll then f p else p } := by
  simp only [Attendance.onPupil, beq_iff_eq]

theorem dates_eq (r : Rollover) (date : Nat) :
    r.dates date = if r.kind = .resume then List.range' (date + 1 - r.taken) r.taken else [date] := by
  unfold Rollover.dates; cases r.kind <;> rfl

/-- The cycle day a taken date leaves: held on a CLOSED day and by a SET, moved on otherwise (R15, Table 1-6). -/
theorem cycle_after (tb : TimeBase) (k : RolloverKind) (plan : DayPlanChoice) (soFar : Nat) :
    (if k.holdsCycle then soFar else tb.cycleAfter plan soFar) =
      if plan = .closed ∨ ¬ (k = .midnight ∨ k = .step ∨ k = .resume) then soFar
      else if soFar < tb.cycleLength then soFar + 1 else 1 := by
  have moves : tb.cycleAfter plan soFar =
      if plan = .closed then soFar else if soFar < tb.cycleLength then soFar + 1 else 1 := by
    unfold TimeBase.cycleAfter; rw [candidateDay_eq]
  cases k <;> simp [RolloverKind.holdsCycle, moves]

theorem termStartOn_eq (tb : TimeBase) (date : Nat) :
    tb.termStartOn date = (tb.exceptions.find? (·.date == date)).any (·.termStart) := by
  unfold TimeBase.termStartOn TimeBase.exceptionFor; cases tb.exceptions.find? (·.date == date) <;> rfl

theorem removeException_first {r : Rollover} {d : Device} {l m : List CalException} {x : CalException}
    (h : d.tb.exceptions = l ++ x :: m) (hl : ∀ y ∈ l, d.tb.date ≤ y.date) (hx : x.date < d.tb.date) :
    removeException r d = { d with tb.exceptions := l ++ m } := by
  have found : d.tb.exceptions.any (·.date < d.tb.date) = true := by
    rw [List.any_eq_true, h]; exact ⟨x, by simp, decide_eq_true hx⟩
  have left : d.tb.exceptions.eraseP (·.date < d.tb.date) = l ++ m := by
    have kept : ∀ y ∈ l, ¬ decide (y.date < d.tb.date) = true := fun y hy => by simpa using hl y hy
    rw [h, List.eraseP_append_right _ kept, List.eraseP_cons_of_pos (p := fun y : CalException => decide (y.date < d.tb.date))
      (decide_eq_true hx)]
  unfold removeException; rw [if_pos found, left]
theorem removeException_done {r : Rollover} {d : Device} (h : ∀ x ∈ d.tb.exceptions, d.tb.date ≤ x.date) :
    removeException r d = toStep 6 r d := by
  have none : d.tb.exceptions.any (·.date < d.tb.date) = false := by
    rw [List.any_eq_false]; intro x hx; have := h x hx; simpa using this
  unfold removeException; rw [none]; rfl

/-- Settles O16: step 4 by whether the new date exists, step 5 by the place of its cursor. -/
theorem rolloverOpensTheDay : Obligations.RolloverOpensTheDay := by
  intro s r powered hr tb date
  have hdate : r.newDate tb = date := by
    show r.newDate tb = match r.kind with | .set day _ => day | .resume => tb.date + tb.missed | _ => tb.date + 1
    unfold Rollover.newDate; cases r.kind <;> rfl
  rw [exec_rolloverStep powered]
  refine ⟨fun hs fits => ?_, fun hs beyond => ?_, fun hs => ?_⟩
  · rw [rolloverStep_4 hr hs, step4_sets (hdate ▸ fits)]
    exact congrArg (fun n => goesTo s { s.dev with
      tb.date := n, tb.rollover := some { r with step := 5, cursor := 1, taken := if r.kind = .resume then tb.missed else 0 } }) hdate
  · intro loose unlocked ended
    refine ⟨calendarEnd r s.dev, by rw [rolloverStep_4 hr hs, step4_ends (hdate ▸ beyond)], ?_, calendarEnd_clock r s.dev⟩
    have hunlocked : setDiscipline .unlocked s.dev = unlocked := by
      cases hd : tb.discipline with
      | locked => exact (setDiscipline_changes (by rw [show s.dev.tb.discipline = _ from hd]; decide)).trans (if_pos hd).symm
      | unlocked => exact (setDiscipline_same hd).trans (if_neg (by rw [hd]; decide)).symm
    have hended : setValidity .invalid (setDiscipline .unlocked s.dev) = ended := by
      rw [setValidity_eq, setDiscipline_validity, hunlocked]
    rw [calendarEnd_eq, hended]
  · intro dates place roll
    have hplace : (r.dates s.dev.tb.date)[r.datePlace]? = dates[place]? := by rw [dates_eq]; rfl
    rw [rolloverStep_5 hr hs]
    refine ⟨fun day hday h0 => ?_, fun day hday h0 => ?_, fun none => ⟨fun l x m hl kept gone => ?_, fun done => ?_⟩⟩
    · intro soFar plan held termStart
      rw [step5_takes (hplace.trans hday) h0]
      unfold takeDate; dsimp only
      rw [cycle_after, termStartOn_eq]
      rfl
    · rw [step5_walks (hplace.trans hday) h0]; simp only [onPupil_eq]; rfl
    · rw [step5_removes (hplace.trans none), removeException_first hl kept gone]
    · rw [step5_removes (hplace.trans none), removeException_done done]; rfl

end Sys2Proof.Machine
end

section
/-! O17: the rollover's steps that walk a table (R16, R57, R96, R122). -/
namespace Sys2Proof.Machine

theorem rollOn_eq (nextStep : Nat) (r : Rollover) (d : Device) : rollOn nextStep r d = { d with
    tb.rollover := if r.cursor < 2400 then some { r with cursor := r.cursor + 1 }
      else some { r with step := nextStep, cursor := 1 } } := by
  unfold rollOn; rw [walkOn_eq, apply_ite some]; rfl

/-! ### Step 2 -/

theorem countsAbsence_of {k : RolloverKind} (h : ∀ day, k ≠ .set day false) : k.countsAbsence = true := by
  cases k with
  | set day wasValid =>
    cases wasValid with
    | false => exact absurd rfl (h day)
    | true => rfl
  | midnight => rfl
  | step => rfl
  | resume => rfl

theorem countUnexplained_counts {roll : Nat} {ae : Attendance} {e : RosterEntry} (he : ae.entry roll = some e)
    (hu : e.state = .unexplained) : countUnexplained roll ae = { ae with
      pupils := ae.pupils.map fun p => if p.roll = roll then { p with unexplainedDays := min 255 (p.unexplainedDays + 1) } else p } := by
  unfold countUnexplained; simp only [he, hu, if_true, onPupil_eq]; rfl
theorem countUnexplained_same {roll : Nat} {ae : Attendance} (h : ∀ e, ae.entry roll = some e → e.state ≠ .unexplained) :
    countUnexplained roll ae = ae := by
  unfold countUnexplained
  cases he : ae.entry roll with
  | none => rfl
  | some e => exact if_neg (h e he)

/-! ### Steps 9 and 10 -/

theorem stale_iff (date : Nat) (n : Notice) : n.stale date = true ↔ n.cls ≠ .bulk ∧ n.subjectDay < date := by
  simp [Notice.stale]

theorem leaveQueue_queued (tag : Nat) (d : Device) :
    (leaveQueue tag d).nu.queued = d.nu.queued.filter (fun m => m.tag != tag) := by
  show _ ++ _ ++ _ = _
  unfold NoticeUnit.queued; rw [List.filter_append, List.filter_append]; rfl

/-! ### Step 12 -/

theorem builtEntry_off {schoolDay : Bool} {due : Option DuePoint} {roll : Nat} (h : schoolDay = false ∨ due = none) :
    builtEntry schoolDay due roll = .blank roll none .notDue true := by
  unfold builtEntry
  rcases h with rfl | rfl
  · rfl
  · cases schoolDay <;> rfl

/-- Step 12 once the pupil at the cursor has had an entry, or none. -/
theorem step12_built {r : Rollover} {d : Device} {l entries : List RosterEntry}
    (hl : (if r.cursor = 1 then some [] else d.ae.roster) = some l)
    (hb : buildAt d.schoolDay d.tb.cycleDay r.cursor { d.ae with roster := some l } = { d.ae with roster := some (l ++ entries) }) :
    step12 r d =
      let built : Device := { d with ae.roster := some (l ++ entries) }
      if r.cursor < 2400 then { built with tb.rollover := some { r with cursor := r.cursor + 1 } }
      else { built with
        tb.rollover := some { r with step := 13, cursor := 1 }, ae := applyAbsences d.tb.date built.ae } := by
  have held : (if r.cursor = 1 then d.onAe fun ae => { ae with roster := some [] } else d) = { d with ae.roster := some l } := by
    split at hl
    · rename_i h1; obtain rfl := Option.some.inj hl; rw [if_pos h1]; rfl
    · rename_i h1; rw [if_neg h1, ← hl]
  have built : Device.onAe (buildAt d.schoolDay d.tb.cycleDay r.cursor) { d with ae.roster := some l } =
      { d with ae.roster := some (l ++ entries) } := by
    unfold Device.onAe; dsimp only; rw [hb]
  unfold step12
  rw [held]; dsimp only
  rw [built, rollOn_eq]
  by_cases hc : r.cursor < 2400
  · rw [if_pos hc, if_pos (show r.cursor < Config.maxRoll from hc), if_pos hc]
  · rw [if_neg hc, if_neg (show ¬ r.cursor < Config.maxRoll from hc), if_neg hc]; rfl

theorem excuseTaken_eq (x : Excuse) (st : RosterState) (ae : Attendance) : ae.excuseTaken x st = { ae with
    excuses := ae.excuses.map fun y =>
      if y.pupil = x.pupil ∧ y.kind = x.kind ∧ y.first = x.first then { y with state := .applied } else y
    roster := ae.roster.map fun l => l.map fun e =>
      if e.roll = x.pupil then { e with state := st, excuseRef := some ⟨x.kind, x.first⟩ } else e } := by
  simp only [Attendance.excuseTaken, Attendance.markExcuse, Attendance.onEntry, Excuse.ref, Bool.and_eq_true, beq_iff_eq, and_assoc]

/-- Settles O17, step by step; the last part reads the ABSENT excuses as one fold. -/
theorem rolloverWalksItsTables : Obligations.RolloverWalksItsTables := by
  refine ⟨fun s r powered hr => ?_, fun date ae => ?_⟩
  · intro past next on
    rw [exec_rolloverStep powered]
    refine ⟨fun hs counts => ?_, fun hs set => ?_, fun hs => ?_, fun hs => ?_, fun l hs hl => ?_⟩
    · have step : rolloverStep s.dev = rollOn 3 r (s.dev.onAe (countUnexplained r.cursor)) := by
        rw [rolloverStep_2 hr hs]; exact if_pos (countsAbsence_of counts)
      rw [step, rollOn_eq]
      refine ⟨fun e he hu => ?_, fun same => ?_⟩
      · unfold Device.onAe; rw [countUnexplained_counts he hu]
      · unfold Device.onAe; rw [countUnexplained_same same]
    · obtain ⟨day, hk⟩ := set
      rw [rolloverStep_2 hr hs]
      exact congrArg (goesTo s) (if_neg (by rw [hk]; exact Bool.false_ne_true))
    · rw [rolloverStep_9 hr hs]
      unfold step9
      refine ⟨fun x hx gone => ?_, fun x hx kept => ?_, fun none => ?_⟩
      · simp only [hx, if_pos gone]; rfl
      · simp only [hx, if_neg (Nat.not_lt.2 kept)]; rfl
      · simp only [none]; rfl
    · intro stale
      rw [rolloverStep_10 hr hs]
      unfold step10
      refine ⟨fun n hn old => ?_, fun n hn fresh => ?_, fun none old => ?_, fun none fresh => ?_⟩
      · refine ⟨leaveQueue n.tag s.dev, ?_, leaveQueue_queued _ _, leaveQueue_resumes _ _, rfl⟩
        simp only [hn, if_pos ((stale_iff _ n).2 old)]
      · simp only [hn, if_neg (mt (stale_iff _ n).1 fresh)]; rfl
      · obtain ⟨n, hn, hold⟩ := old
        have found : s.dev.nu.queued.any (Notice.stale s.dev.tb.date) = true :=
          List.any_eq_true.2 ⟨n, hn, (stale_iff _ n).2 hold⟩
        simp only [none, found, if_true]; rfl
      · have unfound : s.dev.nu.queued.any (Notice.stale s.dev.tb.date) = false :=
          List.any_eq_false.2 fun n hn => mt (stale_iff _ n).1 (fresh n hn)
        simp only [none, unfound, Bool.false_eq_true, if_false]; rfl
    · intro goes
      have hgoes (entries : List RosterEntry)
          (hb : buildAt s.dev.schoolDay s.dev.tb.cycleDay r.cursor { s.dev.ae with roster := some l } =
            { s.dev.ae with roster := some (l ++ entries) }) : goes entries :=
        congrArg (goesTo s) ((rolloverStep_12 hr hs).trans (step12_built hl hb))
      refine ⟨fun none => hgoes [] ?_, fun p hp => ?_⟩
      · rw [List.append_nil]
        unfold buildAt
        rw [show Attendance.pupil { s.dev.ae with roster := some l } r.cursor = _ from none]
      · intro duePoint
        have hb : buildAt s.dev.schoolDay s.dev.tb.cycleDay r.cursor { s.dev.ae with roster := some l } =
            { s.dev.ae with roster := some (l ++ [builtEntry s.dev.schoolDay duePoint r.cursor]) } := by
          unfold buildAt
          rw [show Attendance.pupil { s.dev.ae with roster := some l } r.cursor = _ from hp]; rfl
        refine ⟨fun off => hgoes _ ?_, fun q school due => hgoes _ ?_⟩
        · rw [hb, builtEntry_off (off.imp_left fun closed => by unfold Device.schoolDay; rw [closed]; rfl)]; rfl
        · have day : s.dev.schoolDay = true := bne_iff_ne.2 school
          rw [hb, due, day]; rfl
  · intro absent away
    unfold applyAbsences
    refine congrArg (fun f => absent.foldl f ae) (funext fun a => funext fun x => ?_)
    cases he : a.entry x.pupil with
    | none => rfl
    | some e =>
      by_cases hx : e.state = .expected
      · simp only [hx, Option.map_some, if_true, excuseTaken_eq]; rfl
      · simp only [hx, Option.map_some, if_false, Option.some.injEq]

end Sys2Proof.Machine
end

section
/-! O19: main power goes and comes back (R22, R23). -/
namespace Sys2Proof.Machine

/-! ### Power lost -/

theorem losePower_nothingWaits {d : Device} (h : d.mainPower = false ∨ d.gb.records = []) :
    losePower d = { d with mainPower := false } := by
  have taken : powered takeWaiting d = d := by
    rcases h with off | none
    · exact powered_off off
    · unfold powered; rw [takeWaiting_none none, ite_self]
  unfold losePower; rw [taken]

theorem losePower_on {d : Device} (h : d.mainPower = true) : losePower d = { takeWaiting d with mainPower := false } := by
  unfold losePower; rw [powered_on h]

/-! ### With power off -/

/-- A command that does nothing with main power off. -/
def Unheard (x : State → Host.Outcome State Fault Refusal) : Prop :=
  ∀ s : State, s.dev.mainPower = false → x s = goesTo s s.dev

theorem request_unheard (code tag : Nat) (serve : Device → Answer × Device) : Unheard (act (request code tag serve)) :=
  fun s off => by rw [act_eq, request_off off]; rfl
theorem event_unheard (f : Device → Device) : Unheard (act (powered f)) :=
  fun s off => by rw [act_eq, powered_off off]; rfl
theorem mainPowerLoss_unheard : Unheard execMainPowerLoss := fun s off => by
  have still : losePower s.dev = s.dev := by rw [losePower_nothingWaits (.inl off), ← off]
  exact congrArg (goesTo s) still

/-- An event acts on the device whatever the supply, or is heard with main power on alone. -/
theorem exec_unheard {c : Instr} (hc : actsUnpowered c = false) : Unheard (exec c) := by
  cases hr : requestOfInstr c with
  | some q =>
    obtain ⟨serve, hserve, -⟩ := request_served c q.1 q.2 hr
    intro s off
    rw [hserve s]; exact request_unheard _ _ _ s off
  | none =>
    cases c
    case oscillatorTick | powerUp | retentionLoss | alertInput | paKey => cases hc
    case unknownRequest | wrongBodyLength => exact request_unheard _ _ _
    case officeBadFrame | officeByteTimeout => exact fun _ _ => rfl
    case mainPowerLoss => exact mainPowerLoss_unheard
    case overrun | replyComplete | warmReset | masterMark | markSilenceExpiry | rolloverStep | closeSweepStep | confirmSweepStep
        | gateRoundStart | poll | gateReply | gateReplyTimeout | arrivalRecord | outcomeTimeout | relayDownFallback | fanoutStep
        | rxMsg | rxMark | rxIdle | rxResync | rxStart | rxBadFrame | relayByteTimeout | txLineFree | startTimer | markDue | idleDue
        | silenceTimeout | resyncTimeout | autoRestart | generatorUnit | alertWarbleUnit | idleCheck => exact event_unheard _
    all_goals cases hr

/-! ### A warm reset -/

theorem scannerWarm_rolling {d : Device} (h : d.tb.rollover.isSome = true) : scannerWarm d = d := if_pos h
theorem scannerWarm_idle {d : Device} (h : d.tb.rollover = none) : scannerWarm d = reassess [0, 1, 2] d :=
  if_neg (by rw [rolling_idle h]; exact Bool.false_ne_true)

theorem warmReset_rolling {d : Device} (h : d.tb.rollover.isSome = true) : warmReset d = blocksWarm d :=
  scannerWarm_rolling (by rw [blocksWarm_tb]; exact h)
theorem warmReset_idle {d : Device} (h : d.tb.rollover = none) : warmReset d = reassess [0, 1, 2] (blocksWarm d) :=
  scannerWarm_idle (by rw [blocksWarm_tb]; exact h)

theorem exec_warmReset {s : State} (h : Powered s) : exec .warmReset s = goesTo s (warmReset s.dev) := act_powered_on h

theorem resumeMissed_resumes {d : Device} (idle : d.tb.rollover = none) (h : 0 < d.tb.missed) :
    resumeMissed d = startRollover .resume d := if_pos ⟨h, by rw [rolling_idle idle]; rfl⟩
theorem resumeMissed_scans {d : Device} (h : d.tb.rollover.isSome = true ∨ d.tb.missed = 0) : resumeMissed d = scannerWarm d := by
  refine if_neg fun ⟨missed, idle⟩ => ?_
  rcases h with active | zero
  · rw [rolling_active active] at idle; cases idle
  · omega

/-- Settles O19: a power-up and a warm reset share the blocks' values, and a request or an event without power is unheard. -/
theorem powerComesAndGoes : Obligations.PowerComesAndGoes := by
  refine ⟨fun s => ⟨fun h => ?_, fun h => ?_⟩, fun s strap => ?_, fun c s off hc => exec_unheard hc s off⟩
  · exact congrArg (goesTo s) (losePower_nothingWaits h)
  · exact congrArg (goesTo s) (losePower_on h)
  · intro on warm
    have htb : warm.tb = s.dev.tb.warm := blocksWarm_tb on.dev
    obtain ⟨power, baud, sense⟩ : SamePins on.dev warm := blocksWarm_pins on.dev
    have hup : exec (.powerUp strap) s = goesTo s (resumeMissed warm) := rfl
    have hreset : exec .warmReset on = goesTo s (warmReset on.dev) := exec_warmReset rfl
    refine ⟨fun h => ?_, fun idle missed => ?_, fun active => ?_, fun idle => ?_, power, baud, sense, htb⟩
    · rw [hup, hreset, resumeMissed_scans (by rw [htb]; exact h)]; rfl
    · rw [hup, resumeMissed_resumes (by rw [htb]; exact idle) (by rw [htb]; exact missed)]
    · rw [hreset, warmReset_rolling (d := on.dev) active]
    · rw [hreset, warmReset_idle (d := on.dev) idle]

end Sys2Proof.Machine
end

section
/-! O18: retention loss (R23, R165). -/
namespace Sys2Proof.Machine

/-! ### The inputs sampled with no zone supervised -/

theorem paKeyIs_unsupervised {held : Bool} {d : Device} (h : ∀ v ∈ d.su.zones, v.supervised = false) :
    paKeyIs held d = { d with su.paKeyHeld := held } :=
  settling_unsupervised (change := fun d => { d with su.paKeyHeld := held }) h

theorem changeAlert_unsupervised {f : Sounder → Sounder} {d : Device} (h : ∀ v ∈ (f d.su).zones, v.supervised = false)
    (hf : (f d.su).alert.isSome ≠ d.su.alert.isSome) : changeAlert f d = ({ d with su := f d.su } : Device).raise .alert := by
  have settled : settling (fun d => { d with su := f d.su }) d = { d with su := f d.su } :=
    settling_unsupervised (change := fun d => { d with su := f d.su }) h
  unfold changeAlert
  rw [settled]
  exact if_neg fun hc => hf hc.1

/-- An alert input sampled active with no ALERT raises it over its zones; a key sampled held is held. -/
theorem sampleInputs_unsupervised {alert key : Bool} {d : Device} (h : ∀ v ∈ d.su.zones, v.supervised = false)
    (released : d.su.paKeyHeld = false) (quiet : d.su.alert = none) : sampleInputs alert key d =
      let alerted := if alert then ({ d with su.alert := some ⟨d.su.alertInputZones, 0⟩ } : Device).raise .alert else d
      { alerted with su.paKeyHeld := key } := by
  have raised : (d.su.raised d.su.alertInputZones) = { d.su with alert := some ⟨d.su.alertInputZones, 0⟩ } := by
    unfold Sounder.raised; rw [quiet]
  have alerted : (if alert then changeAlert (Sounder.raised d.su.alertInputZones) d else d) =
      if alert then ({ d with su.alert := some ⟨d.su.alertInputZones, 0⟩ } : Device).raise .alert else d := by
    rw [changeAlert_unsupervised (f := Sounder.raised d.su.alertInputZones) (by rw [raised]; exact h)
      (by rw [raised, quiet]; exact Bool.noConfusion), raised]
  unfold sampleInputs
  rw [alerted]
  cases key with
  | true =>
    refine paKeyIs_unsupervised ?_
    split <;> exact h
  | false =>
    have same (e : Device) (he : e.su.paKeyHeld = false) : e = { e with su.paKeyHeld := false } := by rw [← he]
    refine (if_neg Bool.false_ne_true).trans (same _ ?_)
    split <;> exact released

theorem reset_unsupervised : ∀ v ∈ Device.reset.su.zones, v.supervised = false :=
  fun v hv => by rw [List.eq_of_mem_replicate hv]; rfl

/-- Settles O18: with no zone supervised the inputs' sampling settles nothing. -/
theorem retentionLossGivesTheResetValues : Obligations.RetentionLossGivesTheResetValues := by
  refine ⟨fun s strap => ?_, ?_⟩
  · have hexec : exec (.retentionLoss strap) s = goesTo s (retentionLost strap s.dev) := rfl
    have sampled := sampleInputs_unsupervised (alert := s.dev.su.alertLevel) (key := s.dev.su.paKeyHeld)
      (d := { Device.reset with fastBaud := strap, sense := s.dev.sense, su.alertLevel := s.dev.su.alertLevel })
      reset_unsupervised rfl rfl
    rw [hexec]
    unfold retentionLost
    rw [sampled]
    cases s.dev.su.alertLevel <;> rfl
  · and_intros <;> rfl

end Sys2Proof.Machine
end

section
/-! O20: where a warm reset leaves the notices of the ring (R113, R119, R182). -/
namespace Sys2Proof.Machine

/-! ### What the return of the ring reaches -/

/-- e is d but for what the return of the ring and the fall back reach: the queue, the desk call list, the fan-out and the causes, and
the PAUSED sweeps. -/
structure Returned (d e : Device) : Prop where
  frame : e = { d with
    ae.sweeps := e.ae.sweeps, op.causes := e.op.causes
    nu.urgent := e.nu.urgent, nu.routine := e.nu.routine, nu.bulk := e.nu.bulk
    nu.calls := e.nu.calls, nu.nextCall := e.nu.nextCall, nu.fanout := e.nu.fanout }
  sweeps : (∀ v ∈ d.ae.sweeps, v.status ≠ .paused) → e.ae.sweeps = d.ae.sweeps

theorem Returned.refl (d : Device) : Returned d d := ⟨rfl, fun _ => rfl⟩
theorem Returned.trans {a b c : Device} (h1 : Returned a b) (h2 : Returned b c) : Returned a c :=
  ⟨by rw [h2.frame, h1.frame], fun h => by
    have hb := h1.sweeps h
    rw [h2.sweeps (by rw [hb]; exact h), hb]⟩
theorem Returned.fallbackDelay {d e : Device} (h : Returned d e) : e.nu.fallbackDelay = d.nu.fallbackDelay := by rw [h.frame]

theorem addCall_returned (r : CallReason) (u : Bool) (x : CallContent) (d : Device) : Returned d (addCall r u x d) := by
  unfold addCall; split <;> exact ⟨rfl, fun _ => rfl⟩
theorem toCalls_returned (r : CallReason) (o : Option NoticeOutcome) (n : Notice) (d : Device) : Returned d (toCalls r o n d) :=
  addCall_returned _ _ _ _

theorem resumed_awake {l : List Sweep} (h : ∀ v ∈ l, v.status ≠ .paused) : l.map Sweep.resumed = l := by
  conv_rhs => rw [← List.map_id l]
  exact List.map_congr_left fun v hv => if_neg (h v hv)
theorem leaveQueue_returned (tag : Nat) (d : Device) : Returned d (leaveQueue tag d) := by
  refine ⟨rfl, fun awake => ?_⟩
  show (if _ then _ else _) = _
  split
  · exact resumed_awake awake
  · rfl
theorem fallBack_returned (n : Notice) (d : Device) : Returned d (fallBack n d) :=
  (leaveQueue_returned _ _).trans (toCalls_returned _ _ _ _)
theorem fallBackAll_returned (d : Device) : Returned d (fallBackAll d) :=
  foldl_inv (Returned d) _ (fun e n he => he.trans (fallBack_returned n e)) _ _ (.refl d)
theorem returnNotices_returned (l : List Notice) (u r b : Nat) (d : Device) : Returned d (returnNotices l u r b d) := by
  induction l generalizing u r b d with
  | nil => exact .refl d
  | cons n l ih =>
    have placed (e : Device) (h : e = { d with nu.urgent := e.nu.urgent, nu.routine := e.nu.routine, nu.bulk := e.nu.bulk }) :
        Returned d e := ⟨by rw [h], fun _ => by rw [h]⟩
    unfold returnNotices
    split <;> split
    · exact (placed _ rfl).trans (ih _ _ _ _)
    · exact (toCalls_returned _ _ _ _).trans (ih _ _ _ _)
    · exact (placed _ rfl).trans (ih _ _ _ _)
    · exact (toCalls_returned _ _ _ _).trans (ih _ _ _ _)
    · exact (placed _ rfl).trans (ih _ _ _ _)
    · exact ih _ _ _ _

/-! ### The ring's notices, with room for them all -/

/-- The notices of a class, in their order. -/
def ofClass (c : NoticeClass) (l : List Notice) : List Notice := l.filter (·.cls == c)

/-- A list put into another behind its first k members. -/
def insertAll {α : Type} (k : Nat) (new l : List α) : List α := l.take k ++ new ++ l.drop k

theorem insertAll_nil {α : Type} (k : Nat) (l : List α) : insertAll k [] l = l := by simp [insertAll]
/-- Notices returned one behind the other come to stand together. -/
theorem insertAll_insertAt {α : Type} {k : Nat} (a : α) (new : List α) {l : List α} (h : k ≤ l.length) :
    insertAll (k + 1) new (insertAt k a l) = insertAll k (a :: new) l := by
  have split : insertAt k a l = (l.take k ++ [a]) ++ l.drop k := by simp [insertAt]
  have len : (l.take k ++ [a]).length = k + 1 := by simp [h]
  unfold insertAll
  rw [split, ← len, List.take_left, List.drop_left]; simp

theorem roomFor_few {c : NoticeClass} {count : Nat} (h : count < 192) : roomFor c count = true := by
  unfold roomFor
  split
  · exact decide_eq_true (Nat.lt_of_lt_of_le h (by decide))
  · exact decide_eq_true (Nat.lt_of_lt_of_le h (by decide))
  · exact decide_eq_true h

/-- Where every notice of the ring finds room, each goes behind those of its class already returned. -/
theorem returnNotices_room (l : List Notice) : ∀ (u r b : Nat) (d : Device), d.nu.queueCount + l.length ≤ 192 →
    u ≤ d.nu.urgent.length → r ≤ d.nu.routine.length → b ≤ d.nu.bulk.length → returnNotices l u r b d = { d with
      nu.urgent := insertAll u (ofClass .urgent l) d.nu.urgent
      nu.routine := insertAll r (ofClass .routine l) d.nu.routine
      nu.bulk := insertAll b (ofClass .bulk l) d.nu.bulk } := by
  induction l with
  | nil => intro u r b d _ _ _ _; simp only [ofClass, List.filter_nil, insertAll_nil]; rfl
  | cons n l ih =>
    intro u r b d room hu hr hb
    rw [List.length_cons] at room
    have count : d.nu.queueCount = d.nu.urgent.length + d.nu.routine.length + d.nu.bulk.length := rfl
    unfold returnNotices
    split
    case h_1 hc =>
      rw [if_pos (roomFor_few (by omega)), ih]
      · simp only [ofClass, List.filter_cons, hc]
        rw [insertAll_insertAt n _ hu]; rfl
      · show (insertAt u n d.nu.urgent).length + d.nu.routine.length + d.nu.bulk.length + l.length ≤ 192
        rw [length_insertAt]; omega
      · show u + 1 ≤ (insertAt u n d.nu.urgent).length
        rw [length_insertAt]; omega
      · exact hr
      · exact hb
    case h_2 hc =>
      rw [if_pos (roomFor_few (by omega)), ih]
      · simp only [ofClass, List.filter_cons, hc]
        rw [insertAll_insertAt n _ hr]; rfl
      · show d.nu.urgent.length + (insertAt r n d.nu.routine).length + d.nu.bulk.length + l.length ≤ 192
        rw [length_insertAt]; omega
      · exact hu
      · show r + 1 ≤ (insertAt r n d.nu.routine).length
        rw [length_insertAt]; omega
      · exact hb
    case h_3 hc =>
      rw [if_pos (roomFor_few (by omega)), ih]
      · simp only [ofClass, List.filter_cons, hc]
        rw [insertAll_insertAt n _ hb]; rfl
      · show d.nu.urgent.length + d.nu.routine.length + (insertAt b n d.nu.bulk).length + l.length ≤ 192
        rw [length_insertAt]; omega
      · exact hu
      · exact hr
      · show b + 1 ≤ (insertAt b n d.nu.bulk).length
        rw [length_insertAt]; omega

/-! ### The fall back of the old -/

theorem fallBackAll_young {d : Device} (h : ∀ n ∈ d.nu.urgent, n.age < 60 * d.nu.fallbackDelay) : fallBackAll d = d := by
  have none : d.nu.urgent.filter (d.nu.fallbackSeconds ≤ ·.age) = [] := by
    rw [List.filter_eq_nil_iff]
    intro n hn old
    have young := h n hn
    have old : d.nu.fallbackDelay * 60 ≤ n.age := of_decide_eq_true old
    omega
  unfold fallBackAll; rw [none]; rfl

/-- Notices that fall back leave the URGENT queue, and take those of their tags with them. -/
theorem mem_fallBacks {m : Notice} (l : List Notice) {d : Device}
    (h : m ∈ (l.foldl (fun acc n => fallBack n acc) d).nu.urgent) : m ∈ d.nu.urgent ∧ ∀ n ∈ l, m.tag ≠ n.tag := by
  induction l generalizing d with
  | nil => exact ⟨h, nofun⟩
  | cons n l ih =>
    obtain ⟨hm, hl⟩ := ih h
    have left : (fallBack n d).nu.urgent = d.nu.urgent.filter (·.tag != n.tag) := toCalls_urgent _ _ _ _
    rw [left, List.mem_filter] at hm
    obtain ⟨hm, hn⟩ := hm
    exact ⟨hm, List.forall_mem_cons.2 ⟨bne_iff_ne.1 hn, hl⟩⟩

/-- No old notice is left in the URGENT queue once they have fallen back. -/
theorem fallBackAll_leaves (d : Device) : ∀ m ∈ (fallBackAll d).nu.urgent, m.age < 60 * d.nu.fallbackDelay := by
  intro m hm
  obtain ⟨hq, apart⟩ := mem_fallBacks _ hm
  by_contra old
  have old : d.nu.fallbackDelay * 60 ≤ m.age := by omega
  exact apart m (List.mem_filter.2 ⟨hq, decide_eq_true old⟩) rfl

end Sys2Proof.Machine
end

section
/-! O20: what a warm reset keeps and clears (R23, R182). -/
namespace Sys2Proof.Machine

/-! ### The Relay Link -/

/-- The Relay Link's values after a warm reset, auto-start taken (Table 8-12). -/
def RelayLink.restarted (rl : RelayLink) : RelayLink :=
  { rl.warm with
    link := if rl.settings.autoStart then .starting else .off
    frame := if rl.settings.autoStart then some .start else none }

/-- The device once its ring has gone back to the Notice Unit (R113, R119). -/
def Device.ringReturned (d : Device) : Device := if d.rl.link = .up then fallBackAll (emptyLink d) else emptyLink d

/-- The device with its link OFF or, with auto-start, STARTING (R151). -/
def Device.linkRestarted (auto : Bool) (d : Device) : Device :=
  let off : Device := { d with rl := d.rl.warm }
  if auto then enterStarting off else off

theorem relayWarm_eq (d : Device) : relayWarm d = d.ringReturned.linkRestarted d.rl.settings.autoStart := rfl

theorem ringReturned_returned (d : Device) : Returned { d with rl := d.rl.emptied } d.ringReturned := by
  have emptied : Returned { d with rl := d.rl.emptied } (emptyLink d) := returnNotices_returned _ _ _ _ _
  unfold Device.ringReturned
  split
  · exact emptied.trans (fallBackAll_returned _)
  · exact emptied

theorem linkRestarted_frame {auto : Bool} {d : Device} (h : d.rl.settings.autoStart = auto) : d.linkRestarted auto =
    { d with rl := d.rl.restarted, op.causes := (d.linkRestarted auto).op.causes } := by
  unfold Device.linkRestarted RelayLink.restarted
  rw [h]
  cases auto <;> rfl

/-- No more is reached where no sweep waits PAUSED. -/
theorem relayWarm_frame {d : Device} (awake : ∀ v ∈ d.ae.sweeps, v.status ≠ .paused) : relayWarm d = { d with
    rl := d.rl.restarted, op.causes := (relayWarm d).op.causes
    nu.urgent := (relayWarm d).nu.urgent, nu.routine := (relayWarm d).nu.routine, nu.bulk := (relayWarm d).nu.bulk
    nu.calls := (relayWarm d).nu.calls, nu.nextCall := (relayWarm d).nu.nextCall, nu.fanout := (relayWarm d).nu.fanout } := by
  have returned := ringReturned_returned d
  have frame := returned.frame
  rw [returned.sweeps awake] at frame
  rw [relayWarm_eq]
  generalize d.ringReturned = left at frame ⊢
  have link := linkRestarted_frame (d := left) (auto := d.rl.settings.autoStart) (by rw [frame]; rfl)
  generalize left.linkRestarted d.rl.settings.autoStart = e at link ⊢
  rw [link, frame]
  rfl

/-! ### The blocks -/

/-- The device with every block at its warm-reset values, before the inputs are sampled. -/
def Device.warmed (d : Device) : Device :=
  let linked := relayWarm { d with tb := d.tb.warm, ae := d.ae.warm, gb := d.gb.warm }
  let sounders := ({ linked with su := linked.su.warm }).zonesWarm
  { sounders with op := sounders.op.warm }

theorem valuesWarm_eq (d : Device) : valuesWarm d = sampleInputs d.su.alertLevel d.su.paKeyHeld d.warmed := rfl

theorem warm_awake (ae : Attendance) : ∀ v ∈ ae.warm.sweeps, v.status ≠ .paused := by
  intro v hv
  obtain ⟨w, -, rfl⟩ := List.mem_map.1 hv
  show (if w.status = .waiting then SweepStatus.waiting else .running) ≠ .paused
  split <;> decide

/-- A device's blocks after a warm reset, each by its table (Tables 1-8, 3-4, 4-9, 5-6, 6-6, 7-7, 8-12, 9-9, 10-4, 11-4). -/
theorem warmed_frame (b : Device) : b.warmed = { b with
    tb := b.tb.warm, ae := b.ae.warm, gb := b.gb.warm, rl := b.rl.restarted
    nu.urgent := b.warmed.nu.urgent, nu.routine := b.warmed.nu.routine, nu.bulk := b.warmed.nu.bulk
    nu.calls := b.warmed.nu.calls, nu.nextCall := b.warmed.nu.nextCall, nu.fanout := b.warmed.nu.fanout
    su := { b.su.warm with zones := (List.range' 1 24).map fun z =>
      { b.su.zone z with
        fault := false, bad := 0, good := 0, timer := if (b.su.zone z).supervised && !b.warmed.engaged z then some 0 else none } }
    op := b.op.warm } := by
  have linked := relayWarm_frame (d := { b with tb := b.tb.warm, ae := b.ae.warm, gb := b.gb.warm }) (warm_awake b.ae)
  unfold Device.warmed
  generalize relayWarm { b with tb := b.tb.warm, ae := b.ae.warm, gb := b.gb.warm } = e at linked ⊢
  rw [linked]
  rfl

theorem gateWarm_eq (gb : GateBus) : gb.warm =
    ⟨gb.stations.map fun st => ⟨if st.state = .disabled then .disabled else .searching, st.site, 0, [], [], 0, 0⟩,
      0, 9, none, false, [], none⟩ := by
  have station (st : Station) :
      st.warm = ⟨if st.state = .disabled then .disabled else .searching, st.site, 0, [], [], 0, 0⟩ := by
    unfold Station.warm Station.enabled
    by_cases h : st.state = .disabled
    · rw [h]; rfl
    · rw [if_neg h, if_pos (bne_iff_ne.2 h)]; rfl
  have stations : gb.stations.map Station.warm = _ := List.map_congr_left fun st _ => station st
  unfold GateBus.warm; rw [stations]; rfl

/-! ### The notices of the ring -/

/-- The ring's notices given back to the Notice Unit. -/
def Device.givenBack (d : Device) : Device := returnNotices (d.rl.ring.map (·.notice)) 0 0 0 d

theorem warmed_nu (b : Device) : b.warmed.nu = (if b.rl.link = .up then fallBackAll b.givenBack else b.givenBack).nu :=
  relayWarm_nu (d := b) (e := { b with tb := b.tb.warm, ae := b.ae.warm, gb := b.gb.warm }) ⟨rfl, rfl, rfl⟩ rfl

theorem givenBack_room {b : Device} (room : b.nu.queueCount + b.rl.ring.length ≤ 192) : b.givenBack = { b with
    nu.urgent := ofClass .urgent (b.rl.ring.map (·.notice)) ++ b.nu.urgent
    nu.routine := ofClass .routine (b.rl.ring.map (·.notice)) ++ b.nu.routine
    nu.bulk := ofClass .bulk (b.rl.ring.map (·.notice)) ++ b.nu.bulk } :=
  returnNotices_room _ 0 0 0 b (by rw [List.length_map]; exact room) (Nat.zero_le _) (Nat.zero_le _) (Nat.zero_le _)

theorem warmed_nu_room {b : Device} (room : b.nu.queueCount + b.rl.ring.length ≤ 192)
    (young : b.rl.link ≠ .up ∨
      ∀ n ∈ ofClass .urgent (b.rl.ring.map (·.notice)) ++ b.nu.urgent, n.age < 60 * b.nu.fallbackDelay) :
    b.warmed.nu = { b.nu with
      urgent := ofClass .urgent (b.rl.ring.map (·.notice)) ++ b.nu.urgent
      routine := ofClass .routine (b.rl.ring.map (·.notice)) ++ b.nu.routine
      bulk := ofClass .bulk (b.rl.ring.map (·.notice)) ++ b.nu.bulk } := by
  rw [warmed_nu, givenBack_room room]
  split
  · rename_i up
    rw [fallBackAll_young (young.resolve_left (absurd up))]
  · rfl

theorem warmed_young {b : Device} (up : b.rl.link = .up) : ∀ n ∈ b.warmed.nu.urgent, n.age < 60 * b.nu.fallbackDelay := by
  rw [warmed_nu, if_pos up]
  have delay : b.givenBack.nu.fallbackDelay = b.nu.fallbackDelay := (returnNotices_returned _ _ _ _ _).fallbackDelay
  rw [← delay]
  exact fallBackAll_leaves _

/-! ### The reset by its request, and the inputs -/

theorem replyGone_resets {d : Device} {r : Reply} (h : d.op.inHand = some r) (hc : r.code = 75) (hr : r.answer.result = .ok) :
    replyGone d = warmReset { d with op.inHand := none } := by
  have resets : r.resets = true := by unfold Reply.resets; rw [hc, hr]; rfl
  unfold replyGone; simp only [h, resets, if_true]
theorem replyGone_frees {d : Device} {r : Reply} (h : d.op.inHand = some r) (hr : r.code ≠ 75 ∨ r.answer.result ≠ .ok) :
    replyGone d = { d with op.inHand := none } := by
  have stays : r.resets = false := by
    unfold Reply.resets; rw [Bool.and_eq_false_iff, beq_eq_false_iff_ne, beq_eq_false_iff_ne]; exact hr
  unfold replyGone; simp only [h, stays, Bool.false_eq_true, if_false]
theorem replyGone_none {d : Device} (h : d.op.inHand = none) : replyGone d = d := by
  unfold replyGone; rw [h]

theorem exec_replyComplete {s : State} (h : Powered s) : exec .replyComplete s = goesTo s (replyGone s.dev) := act_powered_on h

theorem alertInputIs_raised {d : Device} (h : d.su.alertLevel = false) :
    alertInputIs true d = sampleInputs true false { d with su.alertLevel := true } :=
  if_neg (by rw [h]; exact Bool.noConfusion)

/-- Settles O20, from the blocks' values and from what the return of the ring and the fall back can reach. -/
theorem warmResetKeepsAndClears : Obligations.WarmResetKeepsAndClears := by
  refine ⟨fun s tag ready => act_request_ready ready, fun s r powered inHand => ⟨fun hc hr => ?_, fun other => ?_⟩, fun s ready => ?_,
    fun s powered => ⟨fun active => ?_, fun idle => ?_⟩, fun d => ?_, fun d => ⟨rfl, rfl⟩,
    fun s powered => ⟨fun inactive => ?_, ?_⟩⟩
  · have reset : exec .warmReset { s with dev := { s.dev with op.inHand := none } } = goesTo s _ := exec_warmReset powered
    rw [exec_replyComplete powered, replyGone_resets inHand hc hr, reset]
  · rw [exec_replyComplete powered, replyGone_frees inHand other]
  · rw [exec_replyComplete ready.1, replyGone_none ready.2]
  · rw [exec_warmReset powered, warmReset_rolling active]
  · rw [exec_warmReset powered, warmReset_idle idle]
  · have moved := takeWaiting_move d
    have frame := warmed_frame (takeWaiting d)
    have values := valuesWarm_eq (takeWaiting d)
    have nu := warmed_nu (takeWaiting d)
    have room := warmed_nu_room (b := takeWaiting d)
    have young := warmed_young (b := takeWaiting d)
    rw [moved.tb, moved.rl, moved.su, gateWarm_eq] at frame
    rw [moved.su] at values
    unfold Device.givenBack at nu
    rw [moved.rl] at nu room young
    refine ⟨(takeWaiting d).warmed, values, takeWaiting_none, moved.tb, moved.ss, moved.rl, moved.su, frame, nu, ?_, young⟩
    rw [List.length_map]
    exact room
  · have hexec : exec (.alertInput true) s = goesTo s _ := congrArg (goesTo s) (if_pos powered)
    rw [hexec, alertInputIs_raised inactive]
  · have hexec : exec (.paKey true) s = goesTo s _ := congrArg (goesTo s) (if_pos powered)
    rw [hexec]; rfl

end Sys2Proof.Machine
end

section
/-! O60: the commands whose events the laws of Safety.lean do not look at: what they leave as it stood. -/
namespace Sys2Proof.Machine

/-! ### The view -/

/-- e shows the laws what d shows them. -/
structure SameView (d e : Device) : Prop where
  rest : e.rest = d.rest := by exact rfl
  places : e.places = d.places := by exact rfl
  pupils : e.ae.pupils = d.ae.pupils := by exact rfl
  contacts : e.ae.contacts = d.ae.contacts := by exact rfl
  roster : e.ae.roster = d.ae.roster := by exact rfl
  sweeps : e.ae.sweeps = d.ae.sweeps := by exact rfl
  ss : e.ss = d.ss := by exact rfl
  power : e.mainPower = d.mainPower := by exact rfl
  validity : e.tb.validity = d.tb.validity := by exact rfl
  today : e.tb.today = d.tb.today := by exact rfl
  minute : e.minute = d.minute := by exact rfl

theorem SameView.refl (d : Device) : SameView d d := {}
theorem SameView.of_eq {d e : Device} (h : e = d) : SameView d e := h ▸ .refl d
theorem SameView.trans {a b c : Device} (h1 : SameView a b) (h2 : SameView b c) : SameView a c :=
  ⟨h2.rest.trans h1.rest, h2.places.trans h1.places, h2.pupils.trans h1.pupils, h2.contacts.trans h1.contacts,
    h2.roster.trans h1.roster, h2.sweeps.trans h1.sweeps, h2.ss.trans h1.ss, h2.power.trans h1.power,
    h2.validity.trans h1.validity, h2.today.trans h1.today, h2.minute.trans h1.minute⟩

theorem SameView.limits {d e : Device} (h : SameView d e) (hd : Limits d) : Limits e := by
  have hp := h.places
  have hr := h.rest
  simp only [Device.places, Places.mk.injEq] at hp
  simp only [Device.rest, Rest.mk.injEq, Attendance.core, Prod.mk.injEq] at hr
  obtain ⟨urgent, routine, bulk, awaiting, calls, ring, -, -⟩ := hp
  exact hd.of_eq hr.1.2.2.2 urgent routine bulk awaiting calls ring

theorem SameView.laws {d e : Device} (h : SameView d e) (hd : Laws [] d) : Laws [] e := hd.of_view h.rest h.places

theorem SameView.rollover {d e : Device} (h : SameView d e) : e.tb.rollover = d.tb.rollover := congrArg Rest.rollover h.rest

/-- The day's laws look at the rollover's step and the scanner, and of the Attendance Engine at its tables. -/
theorem SameView.day {f : Scanner} {d e : Device} (h : SameView d e) (hd : Day f d) : Day f e := by
  have ae : AeOk (frameOf d.mainPower d.tb d.ss) e.ae := hd.tables.ae.of_view h.pupils h.contacts h.roster h.sweeps
  have tables : DayTables e := by
    refine ⟨by rw [h.ss]; exact hd.tables.plans, ?_, by rw [h.today]; exact hd.tables.dated⟩
    refine ae.mono (fun kind k s swept => ?_) (fun k s closed => ?_)
    · exact ⟨by rw [h.rollover]; exact swept.1, by rw [h.ss]; exact swept.2⟩
    · exact ⟨by rw [h.ss]; exact closed.1, by rw [h.rollover]; exact closed.2⟩
  exact ⟨tables, hd.behind.of_view h.ss (fun on => h.power ▸ on) h.validity h.today h.rollover h.minute.le,
    by rw [h.ss]; exact hd.flags⟩

/-! ### Changes out of view -/

theorem checked_view {d : Device} (l : List (Bool × Result)) {t : Answer × Device} (h : SameView d t.2) :
    SameView d (checked d l t).2 := checked_keeps l (.refl d) fun _ => h

theorem raise_view (c : Cause) (d : Device) : SameView d (d.raise c) := {}

theorem settledAs_view (d e : Device) : SameView d (d.settledAs e) := {}

theorem settling_view {change : Device → Device} {d : Device} (h : SameView d (change d)) : SameView d (settling change d) := by
  rw [settling_frame]; exact h.trans (settledAs_view _ _)

theorem putZone_view (z : Nat) (v : ZoneSupervision) (d : Device) : SameView d (d.putZone z v) := by
  rw [putZone_frame]; exact settledAs_view _ _

theorem setZone_view (zones : ZoneSet) (z : Nat) (d : Device) : SameView d (setZone zones z d) := by
  unfold setZone freeZone
  split
  · exact .refl d
  · split
    · exact {}
    · exact putZone_view _ _ _

theorem setSupervision_view (zones : ZoneSet) (d : Device) : SameView d (setSupervision zones d) :=
  foldl_inv (SameView d) _ (fun _ _ h => h.trans (setZone_view _ _ _)) _ _ (.refl d)

theorem changeAlert_view (f : Sounder → Sounder) (d : Device) : SameView d (changeAlert f d) := by
  have settled : SameView d (settling (fun d => { d with su := f d.su }) d) := by refine settling_view ?_; exact {}
  unfold changeAlert
  dsimp only
  split
  · exact settled
  · exact settled.trans (raise_view _ _)

theorem alertInputIs_view (active : Bool) (d : Device) : SameView d (alertInputIs active d) := by
  unfold alertInputIs
  split
  · exact .refl d
  · dsimp only
    split
    · exact .trans (b := { d with su.alertLevel := active }) {} (changeAlert_view _ _)
    · exact {}

theorem alertInput_view (active : Bool) (d : Device) :
    SameView d (if d.mainPower then alertInputIs active d else { d with su.alertLevel := active }) := by
  split
  · exact alertInputIs_view _ _
  · exact {}

theorem paKey_view (held : Bool) (d : Device) :
    SameView d (if d.mainPower then paKeyIs held d else { d with su.paKeyHeld := held }) := by
  split
  · refine settling_view ?_
    exact {}
  · exact {}

theorem idleCheck_view (z : Nat) (d : Device) : SameView d (idleCheck z d) := by
  unfold idleCheck
  dsimp only
  split
  · exact .trans (b := { d with su.zones := setNth d.su.zones z { d.su.zone z with timer := some 0 } }) {} (putZone_view _ _ _)
  · exact .refl d

theorem setDiscipline_view (st : DisciplineState) (d : Device) : SameView d (setDiscipline st d) := by
  rw [setDiscipline_eq]; split <;> exact {}

theorem changeDiscipline_view (on : Bool) (d : Device) : SameView d (changeDiscipline on d) := by
  unfold changeDiscipline
  split
  · exact .refl d
  · exact .trans {} (setDiscipline_view _ _)

theorem markSilenceExpired_view (d : Device) : SameView d (markSilenceExpired d) := by
  cases h : d.tb.markSilence with
  | none => exact .of_eq (markSilenceExpired_stopped h)
  | some t => rw [markSilenceExpired_counting h]; exact .trans {} (setDiscipline_view _ _)

theorem relayStart_view (d : Device) : SameView d (relayStart d) := by unfold relayStart; split <;> exact {}
theorem badFrame_view (d : Device) : SameView d (badFrame d) := by
  unfold badFrame; dsimp only; split
  · split <;> exact {}
  · exact .refl d
theorem writeSettings_view (s : RelaySettings) (d : Device) : SameView d (writeSettings s d) := by
  unfold writeSettings; dsimp only; split <;> exact {}
theorem beginRound_view (d : Device) : SameView d (beginRound d) := by unfold beginRound; split <;> exact {}
theorem overrunFrame_view (d : Device) : SameView d (overrunFrame d) := by unfold overrunFrame; split <;> exact {}

/-! ### Requests that read their operands first -/

theorem serveQueryPlan_view (plan copy : Nat) (d : Device) : SameView d (serveQueryPlan plan copy d).2 := by
  unfold serveQueryPlan; split
  · exact .refl d
  · exact checked_view _ (.refl d)
theorem serveQueryPupil_view (roll : Nat) (d : Device) : SameView d (serveQueryPupil roll d).2 := by
  unfold serveQueryPupil; split <;> exact checked_view _ (.refl d)
theorem serveQueryCard_view (card : Nat) (d : Device) : SameView d (serveQueryCard card d).2 := by
  unfold serveQueryCard; split <;> exact checked_view _ (.refl d)
theorem serveQueryContact_view (key : Nat) (d : Device) : SameView d (serveQueryContact key d).2 := by
  unfold serveQueryContact; split <;> exact checked_view _ (.refl d)
theorem serveQueryCounts_view (d : Device) : SameView d (serveQueryCounts d).2 := by
  unfold serveQueryCounts; split <;> exact checked_view _ {}
theorem serveQueryNotice_view (tag : Nat) (d : Device) : SameView d (serveQueryNotice tag d).2 := by
  unfold serveQueryNotice; split <;> exact checked_view _ (.refl d)
theorem serveQueryNotices_view (place position : Nat) (d : Device) : SameView d (serveQueryNotices place position d).2 := by
  unfold serveQueryNotices; split
  · exact .refl d
  · exact checked_view _ (.refl d)
theorem serveQueryRoute_view (bank : Nat) (d : Device) : SameView d (serveQueryRoute bank d).2 := by
  unfold serveQueryRoute; split <;> exact .refl d
theorem serveSetDiscipline_view (setting : Nat) (d : Device) : SameView d (serveSetDiscipline setting d).2 := by
  unfold serveSetDiscipline; split
  · exact .refl d
  · exact changeDiscipline_view _ d
theorem serveLoadException_view (date outcome start : Nat) (d : Device) : SameView d (serveLoadException date outcome start d).2 := by
  unfold serveLoadException; split
  · exact checked_view _ {}
  · exact .refl d
theorem serveLoadRule_view (number weekdays day outcome : Nat) (d : Device) :
    SameView d (serveLoadRule number weekdays day outcome d).2 := by
  unfold serveLoadRule; split
  · exact .refl d
  · exact checked_view _ {}
theorem serveLoadWeekday_view (day outcome : Nat) (d : Device) : SameView d (serveLoadWeekday day outcome d).2 := by
  unfold serveLoadWeekday; split
  · exact .refl d
  · exact checked_view _ {}
theorem serveLoadGroup_view (group : Nat) (l : List GroupEntryOp) (d : Device) : SameView d (serveLoadGroup group l d).2 := by
  unfold serveLoadGroup; split
  · exact .refl d
  · exact checked_view _ {}
theorem serveSnapshot_view (d : Device) : SameView d (serveSnapshot d).2 := by
  unfold serveSnapshot; dsimp only; split <;> exact checked_view _ {}
theorem serveStopBulletin_view (d : Device) : SameView d (serveStopBulletin d).2 := by
  refine checked_view _ ?_
  dsimp only; split <;> exact {}
theorem serveSetRelayLink_view (run threshold time limit silence restart start : Nat) (d : Device) :
    SameView d (serveSetRelayLink run threshold time limit silence restart start d).2 := by
  unfold serveSetRelayLink; split
  · exact .refl d
  · exact checked_view _ (writeSettings_view _ _)
theorem serveLinkLampMode_view (mode : Nat) (d : Device) : SameView d (serveLinkLampMode mode d).2 := by
  unfold serveLinkLampMode; split <;> exact {}
theorem serveLamp_view (level : Nat) (d : Device) : SameView d (serveLamp level d).2 := by
  unfold serveLamp; split
  · exact .refl d
  · exact checked_view _ {}
theorem serveLoadPattern_view (number mode n p k r l : Nat) (d : Device) :
    SameView d (serveLoadPattern number mode n p k r l d).2 := by
  unfold serveLoadPattern; split
  · exact .refl d
  · exact checked_view _ {}
theorem serveLoadRoute_view (bank : Nat) (l : List RouteEntryOp) (d : Device) : SameView d (serveLoadRoute bank l d).2 := by
  unfold serveLoadRoute; split
  · refine checked_view _ ?_
    dsimp only; refine settling_view ?_
    exact {}
  · exact .refl d

/-! ### The commands out of view -/

/-- The commands that may change what the laws look at. -/
def seenByLaws : Instr → Bool
  | .setTime _ _ _ _ => true
  | .loadPlan _ _ _ => true
  | .setSite _ _ _ _ _ _ => true
  | .setShift _ _ _ => true
  | .selectToday _ _ => true
  | .loadPupil _ _ _ _ _ _ _ => true
  | .dropPupil _ _ => true
  | .loadContact _ _ _ _ _ => true
  | .dropContact _ _ => true
  | .clearTallies _ _ _ => true
  | .deskMark _ _ _ => true
  | .addExcuse _ _ _ _ _ _ => true
  | .removeExcuse _ _ _ _ => true
  | .closeCall _ _ => true
  | .setNoticeTimes _ _ _ => true
  | .relayStop _ => true
  | .setStation _ _ _ _ => true
  | .replyComplete => true
  | .warmReset => true
  | .powerUp _ => true
  | .retentionLoss _ => true
  | .mainPowerLoss => true
  | .oscillatorTick _ => true
  | .masterMark => true
  | .rolloverStep => true
  | .closeSweepStep _ _ => true
  | .confirmSweepStep _ _ => true
  | .poll => true
  | .gateReply _ _ _ _ _ => true
  | .gateReplyTimeout => true
  | .arrivalRecord => true
  | .outcomeTimeout _ => true
  | .relayDownFallback _ => true
  | .fanoutStep => true
  | .rxMsg _ _ _ _ => true
  | .rxMark _ => true
  | .rxIdle _ => true
  | .rxResync _ _ => true
  | .rxStart => true
  | .txLineFree => true
  | .silenceTimeout => true
  | .resyncTimeout => true
  | _ => false

/-- A command's meaning goes on to a device that shows the laws what they saw. -/
def LeavesView (run : State → Host.Outcome State Fault Refusal) : Prop := ∀ s, ∃ d, run s = goesTo s d ∧ SameView s.dev d

theorem LeavesView.always {f : Device → Device} (h : ∀ d, SameView d (f d)) : LeavesView (act f) := fun s => ⟨f s.dev, rfl, h _⟩
theorem LeavesView.event {f : Device → Device} (h : ∀ d, SameView d (f d)) : LeavesView (act (powered f)) :=
  .always fun d => powered_keeps (.refl d) (h d)
theorem LeavesView.request {code tag : Nat} {serve : Device → Answer × Device} (h : ∀ d, SameView d (serve d).2) :
    LeavesView (act (request code tag serve)) :=
  .always fun d => request_keeps (.refl d) (fun _ _ he => he.trans {}) (h d)

theorem exec_leaves_view {c : Instr} (hc : seenByLaws c = false) : LeavesView (exec c) := by
  cases c
  case setTime | loadPlan | setSite | setShift | selectToday | loadPupil | dropPupil | loadContact | dropContact | clearTallies
      | deskMark | addExcuse | removeExcuse | closeCall | setNoticeTimes | relayStop | setStation | replyComplete | warmReset | powerUp
      | retentionLoss | mainPowerLoss | oscillatorTick | masterMark | rolloverStep | closeSweepStep | confirmSweepStep | poll
      | gateReply | gateReplyTimeout | arrivalRecord | outcomeTimeout | relayDownFallback | fanoutStep | rxMsg | rxMark | rxIdle
      | rxResync | rxStart | txLineFree | silenceTimeout | resyncTimeout => cases hc
  case queryTime | queryRelayLink | queryLink | querySounder | queryZones | queryStations | reset | unknownRequest | wrongBodyLength
      | readJournal | status => exact .request fun _ => {}
  case queryExceptions | queryCalendar | queryDay | queryContacts | queryGroup | queryRoster | querySweeps | queryLateStep
      | queryExcuses | queryFanout | queryCalls | queryNoticeTimes | queryPattern | setCycleLength | setCycleDay | dropException
      | setLateStep | composeBulletin | setAlertInput | setAttentionMask => exact .request fun _ => checked_view _ {}
  case queryPlan => exact .request (serveQueryPlan_view _ _)
  case queryPupil => exact .request (serveQueryPupil_view _)
  case queryCard => exact .request (serveQueryCard_view _)
  case queryContact => exact .request (serveQueryContact_view _)
  case queryCounts => exact .request serveQueryCounts_view
  case queryNotice => exact .request (serveQueryNotice_view _)
  case queryNotices => exact .request (serveQueryNotices_view _ _)
  case queryRoute => exact .request (serveQueryRoute_view _)
  case setDiscipline => exact .request (serveSetDiscipline_view _)
  case loadException => exact .request (serveLoadException_view _ _ _)
  case loadRule => exact .request (serveLoadRule_view _ _ _ _)
  case loadWeekday => exact .request (serveLoadWeekday_view _ _)
  case loadGroup => exact .request (serveLoadGroup_view _ _)
  case snapshot => exact .request serveSnapshot_view
  case stopBulletin => exact .request serveStopBulletin_view
  case relayStart => exact .request relayStart_view
  case setRelayLink => exact .request (serveSetRelayLink_view _ _ _ _ _ _ _)
  case linkLampMode => exact .request (serveLinkLampMode_view _)
  case lamp => exact .request (serveLamp_view _)
  case loadPattern => exact .request (serveLoadPattern_view _ _ _ _ _ _ _)
  case loadRoute => exact .request (serveLoadRoute_view _ _)
  case alertStart | alertStop =>
    refine .request fun _ => checked_view _ ?_
    dsimp only; exact changeAlert_view _ _
  case paStart =>
    refine .request fun _ => checked_view _ ?_
    dsimp only; refine settling_view ?_
    exact {}
  case swapBank | setQuiet | paStop | setPaKey =>
    refine .request fun _ => ?_
    dsimp only; refine settling_view ?_
    exact {}
  case setSupervision =>
    refine .request fun _ => ?_
    dsimp only; exact setSupervision_view _ _
  case officeBadFrame | officeByteTimeout => exact .always .refl
  case overrun => exact .event overrunFrame_view
  case markSilenceExpiry => exact .event markSilenceExpired_view
  case startTimer | markDue | idleDue | autoRestart => exact .event fun _ => by split <;> exact {}
  case rxBadFrame | relayByteTimeout => exact .event badFrame_view
  case gateRoundStart => exact .event beginRound_view
  case generatorUnit =>
    refine .event fun _ => ?_
    dsimp only; refine settling_view ?_
    exact {}
  case alertWarbleUnit => exact .event fun _ => {}
  case idleCheck => exact .event (idleCheck_view _)
  case alertInput => exact .always (alertInput_view _)
  case paKey => exact .always (paKey_view _)

end Sys2Proof.Machine
end

section
/-! O60: the requests that write what the laws look at, each said once: refused, or taken with what its checks found. -/
namespace Sys2Proof.Machine

/-- A request with checks leaves the device as it was, or each of its checks passed and it is taken. -/
theorem checked_device (d : Device) (l : List (Bool × Result)) (t : Answer × Device) :
    (checked d l t).2 = d ∨ (∀ c ∈ l, c.1 = false) ∧ (checked d l t).2 = t.2 := by
  rcases checked_cases d l t with ⟨h, passed⟩ | ⟨c, -, -, h⟩
  · exact .inr ⟨passed, by rw [h]⟩
  · exact .inl (by rw [h]; rfl)

theorem idle_of_rolling {d : Device} (h : d.rolling = false) : d.tb.rollover = none := Option.not_isSome_iff_eq_none.1 (by
  rw [show d.tb.rollover.isSome = false from h]; exact Bool.false_ne_true)

/-- The first check of a list passed, and the others. -/
theorem passed_cons {b : Bool} {r : Result} {l : List (Bool × Result)} (h : ∀ c ∈ (b, r) :: l, c.1 = false) :
    b = false ∧ ∀ c ∈ l, c.1 = false := List.forall_mem_cons.1 h

theorem serveSetTime_writes (day second tick : Nat) (d : Device) : (serveSetTime day second tick d).2 = d ∨
    d.tb.rollover = none ∧ (serveSetTime day second tick d).2 = takeSetTime day second tick d := by
  rcases checked_device d _ _ with same | ⟨passed, taken⟩
  · exact .inl same
  · exact .inr ⟨idle_of_rolling (passed_cons (passed_cons passed).2).1, taken⟩

theorem serveLoadPlan_writes (plan : Nat) (entries : List PlanEntryOp) (d : Device) : (serveLoadPlan plan entries d).2 = d ∨
    ∃ l, 1 ≤ plan ∧ l.any (closesEarly l) = false ∧ (serveLoadPlan plan entries d).2 =
      { d with ss.plans := setNth d.ss.plans plan ((d.ss.plan plan).loaded (d.planInUse plan) (inPlanOrder l)) } := by
  unfold serveLoadPlan
  split
  · exact .inl rfl
  · rename_i l _
    rcases checked_device d _ _ with same | ⟨passed, taken⟩
    · exact .inl same
    · obtain ⟨number, passed⟩ := passed_cons passed
      obtain ⟨-, passed⟩ := passed_cons passed
      obtain ⟨-, passed⟩ := passed_cons passed
      have closes := (passed_cons passed).1
      rw [Bool.or_eq_false_iff, beq_eq_false_iff_ne] at number
      exact .inr ⟨l, Nat.pos_of_ne_zero number.1, closes, taken⟩

/-- SET_SITE writes the site's settings with the shift it has, and reassesses the site where the offset changed. -/
theorem serveSetSite_writes (site : Nat) (offset : Int) (grace delay each : Nat) (d : Device) :
    (serveSetSite site offset grace delay each d).2 = d ∨ ∃ v : SiteSettings, site < 3 ∧ d.tb.rollover = none ∧
      v.shift = (d.ss.site site).shift ∧ ((serveSetSite site offset grace delay each d).2 = reassess [site] (d.putSite site v) ∨
        v.offset = (d.ss.site site).offset ∧ (serveSetSite site offset grace delay each d).2 = d.putSite site v) := by
  unfold serveSetSite
  split
  · exact .inl rfl
  · rename_i on _
    rcases checked_device d _ _ with same | ⟨passed, taken⟩
    · exact .inl same
    · obtain ⟨number, passed⟩ := passed_cons passed
      refine .inr ⟨(d.ss.site site).written offset grace delay on, ?_, idle_of_rolling (passed_cons passed).1, rfl, ?_⟩
      · rw [decide_eq_false_iff_not] at number; omega
      · rw [taken]
        dsimp only
        split
        · rename_i stands; exact .inr ⟨stands, rfl⟩
        · exact .inl rfl

theorem serveSetShift_writes (site minutes : Nat) (d : Device) : (serveSetShift site minutes d).2 = d ∨ ∃ v : SiteSettings,
    site < 3 ∧ d.tb.rollover = none ∧ (serveSetShift site minutes d).2 = reassess [site] (d.putSite site v) := by
  rcases checked_device d _ _ with same | ⟨passed, taken⟩
  · exact .inl same
  · obtain ⟨number, passed⟩ := passed_cons passed
    refine .inr ⟨_, ?_, idle_of_rolling (passed_cons passed).1, taken⟩
    rw [decide_eq_false_iff_not] at number; omega

theorem serveSelectToday_writes (plan : Nat) (d : Device) : (serveSelectToday plan d).2 = d ∨ ∃ c : DayPlanChoice, c.InRange ∧
    d.tb.rollover = none ∧ allSites.any d.ss.regStarted = false ∧ (serveSelectToday plan d).2 = selectPlan c d := by
  unfold serveSelectToday
  split
  · exact .inl rfl
  · rename_i c choice
    rcases checked_device d _ _ with same | ⟨passed, taken⟩
    · exact .inl same
    · obtain ⟨idle, passed⟩ := passed_cons passed
      obtain ⟨-, passed⟩ := passed_cons passed
      rw [taken]
      dsimp only
      split
      · exact .inl rfl
      · exact .inr ⟨c, planChoice_range choice, idle_of_rolling idle, (passed_cons passed).1, rfl⟩

/-- What LOAD_PUPIL's checks leave, as the tables' agreement asks it (R41). -/
theorem pupilLoads_of_checks {ae : Attendance} {roll : Nat} {card : Option Nat} {slots : List (Option Nat)}
    (three : slots.length = 3) (known : ((slots.filterMap id).any fun k => (ae.contactOf k).isNone) = false)
    (once : (hasRepeat (slots.filterMap id) || ae.cardTaken roll card) = false)
    (room : (slots.filterMap id).any (ae.slotFull roll) = false) : PupilLoads ae roll card slots := by
  rw [Bool.or_eq_false_iff] at once
  obtain ⟨once, free⟩ := once
  rw [List.any_eq_false] at known room
  refine ⟨three, fun k hk => ?_, ?_, fun q hq n hn hc => ?_, fun k hk c hc => ?_⟩
  · have := known k hk
    exact Option.ne_none_iff_exists'.1 (by simpa using this)
  · by_contra twice
    rw [(hasRepeat_iff _).2 twice] at once; cases once
  · subst hn
    unfold Attendance.cardTaken at free
    dsimp only at free
    rw [List.any_eq_false] at free
    simpa [hc] using free q hq
  · have full := room k hk
    unfold Attendance.slotFull at full
    rw [hc] at full
    have listed : Config.maxListed = 6 := rfl
    simp only [Bool.and_eq_true, decide_eq_true_eq, Bool.not_eq_true', List.contains_eq_mem, decide_eq_false_iff_not, not_and,
      not_not, listed] at full
    by_cases few : c.pupils.length < 6
    · exact .inl few
    · exact .inr (full (by omega))

theorem serveLoadPupil_writes (roll : Nat) (card : Option Nat) (cohort group grace : Nat) {slots : List (Option Nat)}
    (three : slots.length = 3) (d : Device) : (serveLoadPupil roll card cohort group grace slots d).2 = d ∨
      badRoll roll = false ∧ d.rolling = false ∧ PupilLoads d.ae roll card slots ∧
      (serveLoadPupil roll card cohort group grace slots d).2 =
        d.onAe fun ae => ae.loadPupil (ae.loadedPupil roll card cohort group grace slots) := by
  rcases checked_device d _ _ with same | ⟨passed, taken⟩
  · exact .inl same
  · obtain ⟨range, passed⟩ := passed_cons passed
    obtain ⟨idle, passed⟩ := passed_cons passed
    obtain ⟨known, passed⟩ := passed_cons passed
    obtain ⟨once, passed⟩ := passed_cons passed
    simp only [Bool.or_eq_false_iff] at range
    exact .inr ⟨range.1.1.1.1, idle, pupilLoads_of_checks three known once (passed_cons passed).1, taken⟩

theorem serveDropPupil_writes (roll : Nat) (d : Device) : (serveDropPupil roll d).2 = d ∨
    d.rolling = false ∧ (serveDropPupil roll d).2 = d.onAe (·.dropPupil roll) := by
  rcases checked_device d _ _ with same | ⟨passed, taken⟩
  · exact .inl same
  · exact .inr ⟨(passed_cons (passed_cons passed).2).1, taken⟩

theorem serveLoadContact_writes (key mayExcuse mayNotify : Nat) (pupils : List Nat) (d : Device) :
    (serveLoadContact key mayExcuse mayNotify pupils d).2 = d ∨ ∃ e n, ContactLoads d.ae key pupils ∧
      (serveLoadContact key mayExcuse mayNotify pupils d).2 = d.onAe (·.loadContact ⟨d.ae.indexFor key, key, e, n, pupils⟩) := by
  unfold serveLoadContact
  split
  · rename_i e n _ _
    rcases checked_device d _ _ with same | ⟨passed, taken⟩
    · exact .inl same
    · obtain ⟨range, passed⟩ := passed_cons passed
      obtain ⟨-, passed⟩ := passed_cons passed
      obtain ⟨known, passed⟩ := passed_cons passed
      obtain ⟨once, passed⟩ := passed_cons passed
      have room := (passed_cons passed).1
      have listed : Config.maxListed = 6 := rfl
      have table : Config.maxContacts = 4096 := rfl
      simp only [Bool.or_eq_false_iff, decide_eq_false_iff_not, Nat.not_lt, listed] at range
      simp only [Bool.or_eq_false_iff, Bool.and_eq_false_imp, Option.isNone_iff_eq_none, decide_eq_false_iff_not, Nat.not_le, table,
        Bool.not_eq_false', List.all_eq_true] at room
      rw [List.any_eq_false] at known
      refine .inr ⟨e, n, ⟨range.1.2, fun r hr => ?_, ?_, room.1, room.2⟩, taken⟩
      · exact pupil_isSome.1 (by simpa [Option.isSome_iff_ne_none] using known r hr)
      · by_contra twice
        rw [(hasRepeat_iff _).2 twice] at once; cases once
  · exact .inl rfl

theorem serveDropContact_writes (key : Nat) (d : Device) : (serveDropContact key d).2 = d ∨
    ∃ c, d.ae.contactOf key = some c ∧ (serveDropContact key d).2 = d.onAe (·.dropContact c) := by
  unfold serveDropContact
  split
  · exact .inl (by rcases checked_device d _ (refuse .notFound d) with h | ⟨-, h⟩ <;> exact h)
  · rename_i c held
    rcases checked_device d _ _ with same | ⟨-, taken⟩
    · exact .inl same
    · exact .inr ⟨c, held, taken⟩

theorem serveClearTallies_writes (roll choice : Nat) (d : Device) : (serveClearTallies roll choice d).2 = d ∨
    (serveClearTallies roll choice d).2 = d.onAe fun ae => { ae with
      pupils := ae.pupils.map fun p => if (roll == 0 || p.roll == roll) then p.tallyCleared (BitVec.ofNat 3 choice) else p } :=
  (checked_device d _ _).imp_right And.right

theorem serveDeskMark_writes (roll mark : Nat) (d : Device) : (serveDeskMark roll mark d).2 = d ∨
    ∃ m e, markCode mark = some m ∧ (serveDeskMark roll mark d).2 = takeMarkFor m e d := by
  unfold serveDeskMark
  split
  · exact .inl rfl
  · rename_i m code
    dsimp only
    split
    · exact .inl (by rcases checked_device d _ (refuse .notFound d) with h | ⟨-, h⟩ <;> exact h)
    · rename_i e _
      exact (checked_device d _ _).imp_right fun h => ⟨m, e, code, h.2⟩

theorem serveAddExcuse_writes (roll kind first last minute : Nat) (d : Device) :
    (serveAddExcuse roll kind first last minute d).2 = d ∨ ∃ x : Excuse, x.first ≤ x.last ∧
      (serveAddExcuse roll kind first last minute d).2 = (recordAndApply x d).2 := by
  unfold serveAddExcuse
  split
  · exact .inl rfl
  · rename_i k _
    rcases checked_device d _ _ with same | ⟨passed, taken⟩
    · exact .inl same
    · have range := (passed_cons passed).1
      simp only [Bool.or_eq_false_iff, decide_eq_false_iff_not, Nat.not_lt] at range
      exact .inr ⟨deskExcuse roll k first last minute, range.1.2, taken⟩

theorem serveRemoveExcuse_writes (roll kind day : Nat) (d : Device) : (serveRemoveExcuse roll kind day d).2 = d ∨
    ∃ x, (serveRemoveExcuse roll kind day d).2 = d.onAe (·.removeExcuse x) := by
  unfold serveRemoveExcuse
  split
  · exact .inl rfl
  · dsimp only
    split
    · exact .inl (by rcases checked_device d _ (refuse .notFound d) with h | ⟨-, h⟩ <;> exact h)
    · rename_i x _
      exact (checked_device d _ _).imp_right fun h => ⟨x, h.2⟩

theorem serveCloseCall_writes (number : Nat) (d : Device) : (serveCloseCall number d).2 = d ∨
    (serveCloseCall number d).2 = { d with nu.calls := d.nu.calls.filter (·.number != number) } := by
  unfold serveCloseCall
  split
  · exact .inl (by rcases checked_device d _ (refuse .notFound d) with h | ⟨-, h⟩ <;> exact h)
  · exact (checked_device d _ _).imp_right And.right

theorem serveSetNoticeTimes_writes (timeout delay : Nat) (d : Device) : ∃ e, SameView d e ∧
    ((serveSetNoticeTimes timeout delay d).2 = e ∨ (serveSetNoticeTimes timeout delay d).2 = fallBackAll e) := by
  unfold serveSetNoticeTimes
  dsimp only
  rcases checked_device d _ _ with same | ⟨-, taken⟩
  · exact ⟨d, .refl d, .inl same⟩
  · refine ⟨{ d with nu.outcomeTimeout := clampNat 5 120 timeout, nu.fallbackDelay := clampNat 1 60 delay }, {}, ?_⟩
    rw [taken]
    dsimp only
    split
    · exact .inl rfl
    · exact .inr rfl

theorem serveSetStation_writes (address enabled site : Nat) (d : Device) : (serveSetStation address enabled site d).2 = d ∨
    ∃ on, 1 ≤ address ∧ (serveSetStation address enabled site d).2 = setStation address on site d := by
  unfold serveSetStation
  split
  · exact .inl rfl
  · rename_i on _
    rcases checked_device d _ _ with same | ⟨passed, taken⟩
    · exact .inl same
    · have range := (passed_cons passed).1
      simp only [Bool.or_eq_false_iff, beq_eq_false_iff_ne] at range
      exact .inr ⟨on, Nat.pos_of_ne_zero range.1.1, taken⟩

end Sys2Proof.Machine
end

section
/-! O60: every command keeps the limits, the laws of the tables and places, and the day's laws. -/
namespace Sys2Proof.Machine

/-! ### Keeping -/

/-- A command's meaning takes a device with P to one with Q. -/
def Takes (P Q : Device → Prop) (run : State → Host.Outcome State Fault Refusal) : Prop :=
  ∀ s, P s.dev → ∃ d, run s = goesTo s d ∧ Q d

/-- What holds before a command and what holds after it: nothing beyond the view, and what is kept where nothing happens. -/
structure Keeping (P Q : Device → Prop) : Prop where
  stays : ∀ {d}, P d → Q d
  view : ∀ {d e}, SameView d e → Q d → Q e

theorem Takes.always {P Q : Device → Prop} {f : Device → Device} (h : ∀ {d}, P d → Q (f d)) : Takes P Q (act f) :=
  fun s hs => ⟨f s.dev, rfl, h hs⟩

section
variable {P Q : Device → Prop} (keeping : Keeping P Q)
include keeping

theorem Keeping.unseen {c : Instr} (hc : seenByLaws c = false) : Takes P Q (exec c) := fun s hs =>
  let ⟨d, hd, same⟩ := exec_leaves_view hc s
  ⟨d, hd, keeping.view same (keeping.stays hs)⟩

theorem Keeping.event {f : Device → Device} (h : ∀ {d}, P d → Q (f d)) : Takes P Q (act (powered f)) :=
  .always fun hd => powered_keeps (keeping.stays hd) (h hd)

theorem Keeping.request {code tag : Nat} {serve : Device → Answer × Device} (h : ∀ {d}, P d → (serve d).2 = d ∨ Q (serve d).2) :
    Takes P Q (act (request code tag serve)) := by
  refine .always fun {d} hd => request_keeps (keeping.stays hd) (fun _ _ he => keeping.view {} he) ?_
  rcases h hd with same | kept
  · rw [same]; exact keeping.stays hd
  · exact kept

end

theorem limits_keeping : Keeping Limits Limits := ⟨id, SameView.limits⟩
theorem laws_keeping : Keeping (fun d => Clock d ∧ Laws [] d) (Laws []) := ⟨And.right, SameView.laws⟩
theorem day_keeping (f : Scanner) : Keeping (fun d => Clock d ∧ Laws [] d ∧ Day f d) (Day f) := ⟨fun h => h.2.2, SameView.day⟩

/-! ### The limits -/

theorem pollNext_limits {d : Device} (h : Limits d) : Limits (pollNext d) := by
  unfold pollNext; split
  · split <;> exact h.of_eq rfl rfl rfl rfl rfl rfl rfl
  · exact h

theorem takeSetTime_limits (day second tick : Nat) {d : Device} (h : Limits d) : Limits (takeSetTime day second tick d) := by
  have taken : Limits (clockSet second tick (takeWaiting d)) := (takeWaiting_limits h).of_eq rfl rfl rfl rfl rfl rfl rfl
  unfold takeSetTime; split
  · exact startRollover_limits _ (setValidity_limits _ taken)
  · split
    · exact startRollover_limits _ taken
    · exact jumpNotice_limits _ (h.of_eq rfl rfl rfl rfl rfl rfl rfl)

theorem selectPlan_limits (c : DayPlanChoice) {d : Device} (h : Limits d) : Limits (selectPlan c d) := by
  have set : Limits { d with tb.today := c } := h.of_eq rfl rfl rfl rfl rfl rfl rfl
  unfold selectPlan; refine reassess_limits _ ?_
  dsimp only; split
  · exact set
  · exact changeDayKind_limits _ set

theorem takeMarkFor_limits (m : RosterState) (e : RosterEntry) {d : Device} (h : Limits d) : Limits (takeMarkFor m e d) := by
  unfold takeMarkFor; dsimp only; split
  · exact absenceRuleFor_limits _ _ _ (onEntry_limits _ _ h)
  · exact onEntry_limits _ _ h

theorem calls_limits (p : CallEntry → Bool) {d : Device} (h : Limits d) : Limits { d with nu.calls := d.nu.calls.filter p } :=
  ⟨h.queue, h.grouped, h.ring, h.journal, h.awaiting, (List.length_filter_le _ _).trans h.calls⟩

theorem loadPupil_journal (p : Pupil) (ae : Attendance) : (ae.loadPupil p).journal = ae.journal := by
  unfold Attendance.loadPupil; dsimp only; split <;> rfl

theorem silenceTimeout_limits {d : Device} (h : Limits d) : Limits (if d.rl.link = .up then leaveUp .down d else d) := by
  split
  · exact leaveUp_limits _ h
  · exact h

theorem warmReset_limits {d : Device} (h : Limits d) : Limits (warmReset d) := scannerWarm_limits (blocksWarm_limits h)

theorem exec_keeps_limits (c : Instr) : Takes Limits Limits (exec c) := by
  by_cases seen : seenByLaws c = false
  · exact limits_keeping.unseen seen
  cases c
  case setTime =>
    exact limits_keeping.request fun h => (serveSetTime_writes _ _ _ _).imp_right fun ⟨_, e⟩ => e ▸ takeSetTime_limits _ _ _ h
  case loadPlan =>
    exact limits_keeping.request fun h => (serveLoadPlan_writes _ _ _).imp_right fun ⟨_, _, _, e⟩ =>
      e ▸ h.of_eq rfl rfl rfl rfl rfl rfl rfl
  case setSite tag site offset grace delay each =>
    refine limits_keeping.request fun {d} h => (serveSetSite_writes _ _ _ _ _ _).imp_right fun ⟨v, _, _, _, written⟩ => ?_
    have put : Limits (d.putSite site v) := h.of_eq rfl rfl rfl rfl rfl rfl rfl
    rcases written with e | ⟨-, e⟩
    · rw [e]; exact reassess_limits _ put
    · rw [e]; exact put
  case setShift =>
    exact limits_keeping.request fun h => (serveSetShift_writes _ _ _).imp_right fun ⟨_, _, _, e⟩ =>
      e ▸ reassess_limits _ (h.of_eq rfl rfl rfl rfl rfl rfl rfl)
  case selectToday =>
    exact limits_keeping.request fun h => (serveSelectToday_writes _ _).imp_right fun ⟨_, _, _, _, e⟩ => e ▸ selectPlan_limits _ h
  case loadPupil =>
    refine limits_keeping.request fun h => ?_
    exact (checked_device _ _ _).imp_right fun ⟨_, e⟩ => e ▸ onAe_limits h (loadPupil_journal _ _)
  case dropPupil =>
    exact limits_keeping.request fun h => (serveDropPupil_writes _ _).imp_right fun ⟨_, e⟩ => e ▸ onAe_limits h rfl
  case loadContact =>
    exact limits_keeping.request fun h => (serveLoadContact_writes _ _ _ _ _).imp_right fun ⟨_, _, _, e⟩ => e ▸ onAe_limits h rfl
  case dropContact =>
    exact limits_keeping.request fun h => (serveDropContact_writes _ _).imp_right fun ⟨_, _, e⟩ => e ▸ onAe_limits h rfl
  case clearTallies =>
    refine limits_keeping.request fun h => (serveClearTallies_writes _ _ _).imp_right fun e => ?_
    rw [e]; exact onAe_limits h rfl
  case deskMark =>
    exact limits_keeping.request fun h => (serveDeskMark_writes _ _ _).imp_right fun ⟨_, _, _, e⟩ => e ▸ takeMarkFor_limits _ _ h
  case addExcuse =>
    exact limits_keeping.request fun h => (serveAddExcuse_writes _ _ _ _ _ _).imp_right fun ⟨_, _, e⟩ => e ▸ recordAndApply_limits _ h
  case removeExcuse =>
    exact limits_keeping.request fun h => (serveRemoveExcuse_writes _ _ _ _).imp_right fun ⟨_, e⟩ => e ▸ onAe_limits h rfl
  case closeCall =>
    refine limits_keeping.request fun h => (serveCloseCall_writes _ _).imp_right fun e => ?_
    rw [e]; exact calls_limits _ h
  case setNoticeTimes =>
    refine limits_keeping.request fun h => .inr ?_
    obtain ⟨_, same, e | e⟩ := serveSetNoticeTimes_writes _ _ _ <;> rw [e]
    · exact same.limits h
    · exact fallBackAll_limits (same.limits h)
  case setStation =>
    exact limits_keeping.request fun h => (serveSetStation_writes _ _ _ _).imp_right fun ⟨_, _, e⟩ => e ▸ setStation_limits _ _ _ h
  case relayStop => exact limits_keeping.request fun h => .inr (relayStop_limits h)
  case replyComplete => exact limits_keeping.event replyGone_limits
  case warmReset => exact limits_keeping.event warmReset_limits
  case powerUp => exact .always (powerUp_limits _)
  case retentionLoss => exact .always fun _ => retentionLost_limits _ _
  case mainPowerLoss => exact .always losePower_limits
  case oscillatorTick => exact .always (oscillatorTick_limits _)
  case masterMark => exact limits_keeping.event masterMark_limits
  case rolloverStep => exact limits_keeping.event rolloverStep_limits
  case closeSweepStep => exact limits_keeping.event (closeStep_limits _ _)
  case confirmSweepStep => exact limits_keeping.event (confirmStep_limits _ _)
  case poll => exact limits_keeping.event pollNext_limits
  case gateReply => exact limits_keeping.event (receiveReply_limits _ _ _ _ _)
  case gateReplyTimeout => exact limits_keeping.event replyTimedOut_limits
  case arrivalRecord => exact limits_keeping.event takeNextRecord_limits
  case outcomeTimeout => exact limits_keeping.event (outcomeTimedOut_limits _)
  case relayDownFallback => exact limits_keeping.event (fallbackDue_limits _)
  case fanoutStep => exact limits_keeping.event fanoutStep_limits
  case rxMsg => exact limits_keeping.event (receiveMsg_limits _ _ _ _)
  case rxMark | rxIdle => exact limits_keeping.event (receiveMark_limits _)
  case rxResync => exact limits_keeping.event (receiveResync_limits _ _)
  case rxStart => exact limits_keeping.event receiveStart_limits
  case txLineFree => exact limits_keeping.event lineFree_limits
  case silenceTimeout => exact limits_keeping.event silenceTimeout_limits
  case resyncTimeout => exact limits_keeping.event resyncExpired_limits
  all_goals exact absurd rfl seen

/-! ### The laws of the tables and places -/

theorem takeSetTime_laws (day second tick : Nat) {d : Device} (h : Laws [] d) : Laws [] (takeSetTime day second tick d) := by
  have taken : Laws [] (clockSet second tick (takeWaiting d)) := (takeWaiting_laws h).of_view rfl rfl
  unfold takeSetTime; split
  · exact startRollover_laws _ (setValidity_laws _ taken)
  · split
    · exact startRollover_laws _ taken
    · exact jumpNotice_laws _ (h.of_view rfl rfl)

theorem selectPlan_laws (c : DayPlanChoice) {d : Device} (h : Laws [] d) : Laws [] (selectPlan c d) := by
  have set : Laws [] { d with tb.today := c } := h.of_view rfl rfl
  unfold selectPlan; refine reassess_laws _ ?_
  dsimp only; split
  · exact set
  · exact changeDayKind_laws _ set

theorem clearTallies_laws (chosen : Pupil → Bool) (choice : BitVec 3) {d : Device} (h : Laws [] d) :
    Laws [] (d.onAe fun ae => { ae with pupils := ae.pupils.map fun p => if chosen p then p.tallyCleared choice else p }) := by
  have rolls : (d.ae.pupils.map fun p => if chosen p then p.tallyCleared choice else p).map (·.roll) = d.ae.pupils.map (·.roll) := by
    rw [List.map_map]
    refine List.map_congr_left fun p _ => ?_
    dsimp only [Function.comp_apply]; split <;> rfl
  refine h.of_view ?_ rfl
  simp only [Device.rest, Attendance.core, Device.onAe, rolls]

theorem silenceTimeout_laws {d : Device} (h : Laws [] d) : Laws [] (if d.rl.link = .up then leaveUp .down d else d) := by
  split
  · exact leaveUp_laws _ h
  · exact h

theorem warmReset_laws {d : Device} (h : Laws [] d) : Laws [] (warmReset d) := scannerWarm_laws (blocksWarm_laws h)

theorem wf_slots {tag roll : Nat} {card : Option Nat} {cohort group grace : Nat} {slots : List (Option Nat)}
    (h : (Instr.loadPupil tag roll card cohort group grace slots).wf = true) : slots.length = 3 := by
  simp only [Instr.wf, Bool.and_eq_true, beq_iff_eq] at h
  exact h.1.2

theorem exec_keeps_laws {c : Instr} (sent : c.wf = true) : Takes (fun d => Clock d ∧ Laws [] d) (Laws []) (exec c) := by
  by_cases seen : seenByLaws c = false
  · exact laws_keeping.unseen seen
  cases c
  case setTime =>
    exact laws_keeping.request fun h => (serveSetTime_writes _ _ _ _).imp_right fun ⟨_, e⟩ => e ▸ takeSetTime_laws _ _ _ h.2
  case loadPlan =>
    exact laws_keeping.request fun h => (serveLoadPlan_writes _ _ _).imp_right fun ⟨_, _, _, e⟩ => e ▸ h.2.of_view rfl rfl
  case setSite tag site offset grace delay each =>
    refine laws_keeping.request fun {d} h => (serveSetSite_writes _ _ _ _ _ _).imp_right fun ⟨v, _, _, _, written⟩ => ?_
    have put : Laws [] (d.putSite site v) := h.2.of_view rfl rfl
    rcases written with e | ⟨-, e⟩
    · rw [e]; exact reassess_laws _ put
    · rw [e]; exact put
  case setShift =>
    exact laws_keeping.request fun h => (serveSetShift_writes _ _ _).imp_right fun ⟨_, _, _, e⟩ =>
      e ▸ reassess_laws _ (h.2.of_view rfl rfl)
  case selectToday =>
    exact laws_keeping.request fun h => (serveSelectToday_writes _ _).imp_right fun ⟨_, _, _, _, e⟩ => e ▸ selectPlan_laws _ h.2
  case loadPupil =>
    refine laws_keeping.request fun h => (serveLoadPupil_writes _ _ _ _ _ (wf_slots sent) _).imp_right fun ⟨number, idle, _, e⟩ => ?_
    rw [e]
    refine loadPupil_laws ?_ idle h.2
    rw [(loadedPupil_fields _ _ _ _ _ _ _).1]; exact number
  case dropPupil =>
    exact laws_keeping.request fun h => (serveDropPupil_writes _ _).imp_right fun ⟨idle, e⟩ => e ▸ dropPupil_laws _ idle h.2
  case loadContact =>
    exact laws_keeping.request fun h => (serveLoadContact_writes _ _ _ _ _).imp_right fun ⟨_, _, _, e⟩ => e ▸ loadContact_laws _ h.2
  case dropContact =>
    exact laws_keeping.request fun h => (serveDropContact_writes _ _).imp_right fun ⟨_, _, e⟩ => e ▸ dropContact_laws _ h.2
  case clearTallies =>
    refine laws_keeping.request fun h => (serveClearTallies_writes _ _ _).imp_right fun e => ?_
    rw [e]; exact clearTallies_laws _ _ h.2
  case deskMark =>
    exact laws_keeping.request fun h => (serveDeskMark_writes _ _ _).imp_right fun ⟨_, _, _, e⟩ => e ▸ takeMarkFor_laws _ _ h.2
  case addExcuse =>
    exact laws_keeping.request fun h => (serveAddExcuse_writes _ _ _ _ _ _).imp_right fun ⟨_, runs, e⟩ =>
      e ▸ recordAndApply_laws runs h.2
  case removeExcuse =>
    exact laws_keeping.request fun h => (serveRemoveExcuse_writes _ _ _ _).imp_right fun ⟨_, e⟩ => e ▸ removeExcuse_laws _ h.2
  case closeCall =>
    refine laws_keeping.request fun h => (serveCloseCall_writes _ _).imp_right fun e => ?_
    rw [e]; exact closeCall_laws _ h.2
  case setNoticeTimes =>
    refine laws_keeping.request fun h => .inr ?_
    obtain ⟨_, same, e | e⟩ := serveSetNoticeTimes_writes _ _ _ <;> rw [e]
    · exact same.laws h.2
    · exact fallBackAll_laws (same.laws h.2)
  case setStation =>
    exact laws_keeping.request fun h => (serveSetStation_writes _ _ _ _).imp_right fun ⟨_, address, e⟩ =>
      e ▸ setStation_laws address _ _ h.2
  case relayStop => exact laws_keeping.request fun h => .inr (relayStop_laws h.2)
  case replyComplete => exact laws_keeping.event fun h => replyGone_laws h.2
  case warmReset => exact laws_keeping.event fun h => warmReset_laws h.2
  case powerUp => exact .always fun h => powerUp_laws _ h.2
  case retentionLoss => exact .always fun _ => retentionLost_laws _ _
  case mainPowerLoss => exact .always fun h => losePower_laws h.2
  case oscillatorTick => exact .always fun h => oscillatorTick_laws _ h.2
  case masterMark => exact laws_keeping.event fun h => masterMark_laws h.2
  case rolloverStep => exact laws_keeping.event fun h => rolloverStep_laws h.1.date h.2
  case closeSweepStep => exact laws_keeping.event fun h => closeStep_laws _ _ h.2
  case confirmSweepStep => exact laws_keeping.event fun h => confirmStep_laws _ _ h.2
  case poll => exact laws_keeping.event fun h => pollNext_laws h.2
  case gateReply => exact laws_keeping.event fun h => receiveReply_laws _ _ _ _ _ h.2
  case gateReplyTimeout => exact laws_keeping.event fun h => replyTimedOut_laws h.2
  case arrivalRecord => exact laws_keeping.event fun h => takeNextRecord_laws h.2
  case outcomeTimeout => exact laws_keeping.event fun h => outcomeTimedOut_laws _ h.2
  case relayDownFallback => exact laws_keeping.event fun h => fallbackDue_laws _ h.2
  case fanoutStep => exact laws_keeping.event fun h => fanoutStep_laws h.2
  case rxMsg => exact laws_keeping.event fun h => receiveMsg_laws _ _ _ _ h.1.date h.2
  case rxMark | rxIdle => exact laws_keeping.event fun h => receiveMark_laws _ h.2
  case rxResync => exact laws_keeping.event fun h => receiveResync_laws _ _ h.2
  case rxStart => exact laws_keeping.event fun h => receiveStart_laws h.2
  case txLineFree => exact laws_keeping.event fun h => lineFree_laws h.2
  case silenceTimeout => exact laws_keeping.event fun h => silenceTimeout_laws h.2
  case resyncTimeout => exact laws_keeping.event fun h => resyncExpired_laws h.2
  all_goals exact absurd rfl seen

/-! ### The day's laws -/

theorem silenceTimeout_calm {F : DayFrame} {d : Device} (h : Calm F d) : Calm F (if d.rl.link = .up then leaveUp .down d else d) := by
  split
  · exact leaveUp_calm _ h
  · exact h

/-- An event at which the clock and the scanner stand. -/
theorem calm_event {f : Scanner} {g : Device → Device} (h : ∀ {F : DayFrame} {d : Device}, Calm F d → Calm F (g d)) :
    Takes (fun d => Clock d ∧ Laws [] d ∧ Day f d) (Day f) (act (powered g)) :=
  (day_keeping f).event fun hd => hd.2.2.calm h

theorem inRange_plan {c : DayPlanChoice} (h : c.InRange) : ∀ p, c = .plan p → 1 ≤ p := by rintro p rfl; exact h.1

/-- Every command but a retention loss and a rollover's step keeps the day's laws, with the flags of an earlier scanner standing. -/
theorem exec_keeps_day {c : Instr} (sent : c.wf = true) (f : Scanner) (kept : ∀ strap, c ≠ .retentionLoss strap)
    (unstepped : c ≠ .rolloverStep) : Takes (fun d => Clock d ∧ Laws [] d ∧ Day f d) (Day f) (exec c) := by
  by_cases seen : seenByLaws c = false
  · exact (day_keeping f).unseen seen
  cases c
  case setTime =>
    exact (day_keeping f).request fun h => (serveSetTime_writes _ _ _ _).imp_right fun ⟨idle, e⟩ =>
      e ▸ takeSetTime_day _ _ _ h.2.2 idle
  case loadPlan =>
    exact (day_keeping f).request fun h => (serveLoadPlan_writes _ _ _).imp_right fun ⟨_, number, closes, e⟩ =>
      e ▸ loadPlan_day number closes h.2.2
  case setSite tag site offset grace delay each =>
    refine (day_keeping f).request fun h => (serveSetSite_writes _ _ _ _ _ _).imp_right fun ⟨v, number, idle, shift, written⟩ => ?_
    rcases written with e | ⟨offset, e⟩
    · rw [e]; exact reassessSite_day h.2.2 _ _ number idle
    · rw [e]; exact putSite_day h.2.2 _ _ offset shift
  case setShift =>
    exact (day_keeping f).request fun h => (serveSetShift_writes _ _ _).imp_right fun ⟨_, number, idle, e⟩ =>
      e ▸ reassessSite_day h.2.2 _ _ number idle
  case selectToday =>
    exact (day_keeping f).request fun h => (serveSelectToday_writes _ _).imp_right fun ⟨_, range, idle, unstarted, e⟩ =>
      e ▸ selectPlan_day (inRange_plan range) h.2.2 idle unstarted
  case loadPupil =>
    exact (day_keeping f).request fun h => (serveLoadPupil_writes _ _ _ _ _ (wf_slots sent) _).imp_right
      fun ⟨number, idle, loads, e⟩ => e ▸ loadPupil_day h.2.2 h.2.1 idle number loads _ _ _
  case dropPupil =>
    exact (day_keeping f).request fun h => (serveDropPupil_writes _ _).imp_right fun ⟨idle, e⟩ => e ▸ dropPupil_day h.2.2 h.2.1 idle _
  case loadContact =>
    exact (day_keeping f).request fun h => (serveLoadContact_writes _ _ _ _ _).imp_right fun ⟨_, _, loads, e⟩ =>
      e ▸ loadContact_day h.2.2 h.2.1 loads _ _
  case dropContact =>
    exact (day_keeping f).request fun h => (serveDropContact_writes _ _).imp_right fun ⟨_, held, e⟩ =>
      e ▸ dropContact_day h.2.2 h.2.1 held
  case clearTallies =>
    refine (day_keeping f).request fun h => (serveClearTallies_writes _ _ _).imp_right fun e => ?_
    rw [e]; exact h.2.2.calm (clearTallies_calm _ _)
  case deskMark =>
    exact (day_keeping f).request fun h => (serveDeskMark_writes _ _ _).imp_right fun ⟨_, _, code, e⟩ =>
      e ▸ h.2.2.calm (takeMarkFor_calm code _)
  case addExcuse =>
    exact (day_keeping f).request fun h => (serveAddExcuse_writes _ _ _ _ _ _).imp_right fun ⟨_, _, e⟩ =>
      e ▸ h.2.2.calm (recordAndApply_calm _)
  case removeExcuse =>
    exact (day_keeping f).request fun h => (serveRemoveExcuse_writes _ _ _ _).imp_right fun ⟨_, e⟩ =>
      e ▸ h.2.2.calm (removeExcuse_calm _)
  case closeCall =>
    refine (day_keeping f).request fun h => (serveCloseCall_writes _ _).imp_right fun e => ?_
    rw [e]; exact h.2.2.calm fun calm => calm.of_eq rfl rfl rfl rfl
  case setNoticeTimes =>
    refine (day_keeping f).request fun h => .inr ?_
    obtain ⟨_, same, e | e⟩ := serveSetNoticeTimes_writes _ _ _ <;> rw [e]
    · exact same.day h.2.2
    · exact (same.day h.2.2).calm fallBackAll_calm
  case setStation =>
    exact (day_keeping f).request fun h => (serveSetStation_writes _ _ _ _).imp_right fun ⟨_, _, e⟩ =>
      e ▸ h.2.2.calm (setStation_calm _ _ _)
  case relayStop => exact (day_keeping f).request fun h => .inr (h.2.2.calm relayStop_calm)
  case replyComplete => exact (day_keeping f).event fun h => replyGone_day h.2.2
  case warmReset => exact (day_keeping f).event fun h => warmReset_day h.2.2
  case powerUp => exact .always fun h => powerUp_day _ h.2.2
  case retentionLoss strap => exact absurd rfl (kept strap)
  case mainPowerLoss => exact .always fun h => losePower_day h.2.2
  case oscillatorTick => exact .always fun h => oscillatorTick_day _ h.2.2
  case masterMark => exact (day_keeping f).event fun h => masterMark_day h.2.2
  case rolloverStep => exact absurd rfl unstepped
  case closeSweepStep => exact calm_event (closeStep_calm _ _)
  case confirmSweepStep => exact calm_event (confirmStep_calm _ _)
  case poll => exact calm_event pollNext_calm
  case gateReply => exact calm_event (receiveReply_calm _ _ _ _ _)
  case gateReplyTimeout => exact calm_event replyTimedOut_calm
  case arrivalRecord => exact calm_event takeNextRecord_calm
  case outcomeTimeout => exact calm_event (outcomeTimedOut_calm _)
  case relayDownFallback => exact calm_event (fallbackDue_calm _)
  case fanoutStep => exact calm_event fanoutStep_calm
  case rxMsg => exact calm_event (receiveMsg_calm _ _ _ _)
  case rxMark | rxIdle => exact calm_event (receiveMark_calm _)
  case rxResync => exact calm_event (receiveResync_calm _ _)
  case rxStart => exact calm_event receiveStart_calm
  case txLineFree => exact calm_event lineFree_calm
  case silenceTimeout => exact calm_event silenceTimeout_calm
  case resyncTimeout => exact calm_event resyncExpired_calm
  all_goals exact absurd rfl seen

/-- A retention loss and a rollover's step keep the day's laws too, whatever becomes of the flags. -/
theorem exec_keeps_someDay {c : Instr} (sent : c.wf = true) (f : Scanner) :
    Takes (fun d => Clock d ∧ Laws [] d ∧ Day f d) (fun d => ∃ g, Day g d) (exec c) := by
  by_cases lost : ∃ strap, c = .retentionLoss strap
  · obtain ⟨strap, rfl⟩ := lost
    exact .always fun _ => retentionLost_day _ _
  by_cases stepped : c = .rolloverStep
  · subst stepped
    exact .always fun h => powered_keeps (P := fun e => ∃ g, Day g e) ⟨f, h.2.2⟩ (rolloverStep_day h.1 h.2.1.pupils h.2.2).1
  · intro s hs
    obtain ⟨d, hd, day⟩ := exec_keeps_day sent f (fun strap hc => lost ⟨strap, hc⟩) stepped s hs
    exact ⟨d, hd, f, day⟩

/-! ### The obligation -/

theorem lawful_day {s : State} (h : Lawful s) : Day s.dev.ss s.dev := by
  refine (day_iff _).2 ⟨⟨h.links, h.tallies, h.day⟩, h.pupils.roster.nodup, h.pupils.roll.nodup, ?_⟩
  exact inRange_plan h.clock.calendar.today

theorem lawful_sound {s : State} (h : Lawful s) : Clock s.dev ∧ Laws [] s.dev ∧ Day s.dev.ss s.dev :=
  ⟨((lawful_iff s).1 h).1.1, ((lawful_iff s).1 h).1.2, lawful_day h⟩

theorem lawful_of_sound {s : State} (clock : Clock s.dev) (laws : Laws [] s.dev) {g : Scanner} (day : Day g s.dev)
    (sent : ∀ c ∈ s.pending, c.wf = true) : Lawful s := by
  obtain ⟨links, tallies, order⟩ := ((day_iff _).1 ⟨day.tables, day.behind, .refl _⟩).1
  exact (lawful_iff s).2 ⟨⟨clock, laws⟩, links, tallies, order, sent⟩

/-- A step is idle, or runs its front command on the device with the queue's rest. -/
theorem step_cases {s s' : State} (h : step s = .next s') : s.pending = [] ∧ s' = s ∨
    ∃ c rest, s.pending = c :: rest ∧ exec c { s with pending := rest } = .next s' := by
  unfold step at h
  split at h
  · rename_i none; cases h; exact .inl ⟨none, rfl⟩
  · rename_i c rest front; exact .inr ⟨c, rest, front, h⟩

theorem step_keeps_limits {s s' : State} (h : Limits s.dev) (hstep : step s = .next s') : Limits s'.dev := by
  obtain ⟨-, rfl⟩ | ⟨c, rest, -, run⟩ := step_cases hstep
  · exact h
  · obtain ⟨d, hd, kept⟩ := exec_keeps_limits c { s with pending := rest } h
    rw [hd] at run; cases run; exact kept

theorem step_keeps_lawful {s s' : State} (h : Lawful s) (hstep : step s = .next s') : Lawful s' := by
  obtain ⟨-, rfl⟩ | ⟨c, rest, front, run⟩ := step_cases hstep
  · exact h
  · have sent := h.commands
    rw [front, List.forall_mem_cons] at sent
    obtain ⟨clock, laws, day⟩ := lawful_sound h
    obtain ⟨d, hd, clock'⟩ := exec_keeps_clock c { s with pending := rest } clock
    obtain ⟨d1, hd1, laws'⟩ := exec_keeps_laws sent.1 { s with pending := rest } ⟨clock, laws⟩
    obtain ⟨d2, hd2, g, day'⟩ := exec_keeps_someDay sent.1 s.dev.ss { s with pending := rest } ⟨clock, laws, day⟩
    cases goesTo_inj (hd.symm.trans hd1)
    cases goesTo_inj (hd.symm.trans hd2)
    rw [hd] at run; cases run
    exact lawful_of_sound clock' laws' day' sent.2

/-- The flags stand over a command that is neither a retention loss nor a powered step 7 or 8 of a rollover. -/
theorem exec_flags_stand {c : Instr} (sent : c.wf = true) {s : State} (hs : Clock s.dev ∧ Laws [] s.dev ∧ Day s.dev.ss s.dev)
    (kept : ∀ strap, c ≠ .retentionLoss strap)
    (elsewhere : c = .rolloverStep → s.dev.mainPower = true → ∀ r, s.dev.tb.rollover = some r → r.step ≠ 7 ∧ r.step ≠ 8) :
    ∃ d, exec c s = goesTo s d ∧ FlagsStand s.dev.ss d.ss := by
  by_cases stepped : c = .rolloverStep
  · subst stepped
    refine ⟨_, rfl, ?_⟩
    by_cases power : s.dev.mainPower = true
    · rw [powered_on power]
      exact ((rolloverStep_day hs.1 hs.2.1.pupils hs.2.2).2 (elsewhere rfl power)).flags
    · rw [powered_off (by simpa using power)]; exact .refl _
  · obtain ⟨d, hd, day⟩ := exec_keeps_day sent s.dev.ss kept stepped s hs
    exact ⟨d, hd, day.flags⟩

theorem step_flags_stand {s s' : State} (h : Lawful s) (hstep : step s = .next s')
    (elsewhere : ∀ c, s.pending.head? = some c → (∀ strap, c ≠ .retentionLoss strap) ∧ (c = .rolloverStep →
      s.dev.mainPower = true → ∀ r, s.dev.tb.rollover = some r → r.step ≠ 7 ∧ r.step ≠ 8)) : FlagsStand s.dev.ss s'.dev.ss := by
  obtain ⟨-, rfl⟩ | ⟨c, rest, front, run⟩ := step_cases hstep
  · exact .refl _
  · obtain ⟨kept, unmoved⟩ := elsewhere c (by rw [front]; rfl)
    have sent : c.wf = true := h.commands c (by rw [front]; exact List.mem_cons_self)
    have sound := lawful_sound h
    obtain ⟨d, hd, stand⟩ := exec_flags_stand (s := { s with pending := rest }) sent sound kept unmoved
    rw [hd] at run; cases run; exact stand

/-- Settles O60: the limits, the laws and the flags are each kept by every command, and a step is idle or runs one. -/
theorem stepKeepsNoticesInLimits : Obligations.StepKeepsNoticesInLimits := by
  refine ⟨fun s s' notices tables hstep => ?_, fun _ _ => step_keeps_lawful, fun _ _ => step_flags_stand⟩
  exact (limits_iff s').2 (step_keeps_limits ((limits_iff s).1 ⟨notices, tables⟩) hstep)

end Sys2Proof.Machine
end

section
/-! O21: LOAD_PLAN (R24 to R26). -/
namespace Sys2Proof.Machine

/-! ### The operands -/

theorem planAction_isSome (e : PlanEntryOp) : (planAction e).isSome = true ↔
    e.action = 1 ∧ 1 ≤ e.generator ∧ e.generator ≤ 4 ∧ 1 ≤ e.pattern ∧ e.pattern ≤ 16 ∨
    e.action = 2 ∧ (e.siteMask = 1 ∨ e.siteMask = 2 ∨ e.siteMask = 4) ∨
    (e.action = 3 ∨ e.action = 4) ∧ 1 ≤ e.point ∧ e.point ≤ 4 := by
  unfold planAction
  split
  case h_1 ring => simp [ring]
  case h_2 swap => simp [swap]
  case h_3 start => simp [start]
  case h_4 close => simp [close]
  case h_5 ring swap start close =>
    refine ⟨fun h => (nomatch h), ?_⟩
    rintro (⟨code, -⟩ | ⟨code, -⟩ | ⟨code | code, -⟩)
    · exact (ring code).elim
    · exact (swap code).elim
    · exact (start code).elim
    · exact (close code).elim

theorem planAction_value {e : PlanEntryOp} {a : PlanAction} (h : planAction e = some a) :
    a = if e.action = 1 then .ring e.generator e.pattern else if e.action = 2 then .routeSwap
      else if e.action = 3 then .regStart e.point else .regClose e.point := by
  unfold planAction at h
  split at h
  case h_5 => cases h
  all_goals
    rename_i code
    obtain ⟨_, value⟩ := Option.ite_none_right_eq_some.1 h
    cases value
    rw [code]; rfl

theorem planEntry_isSome (e : PlanEntryOp) : (planEntry e).isSome = true ↔
    (e.minute ≤ 1439 ∧ e.siteMask ≠ 0 ∧ e.siteMask < 8) ∧ (planAction e).isSome = true := by
  have inRange : (e.minute ≤ Config.lastMinute ∧ e.siteMask ≠ 0 ∧ fitsMask 3 e.siteMask = true) ↔
      e.minute ≤ 1439 ∧ e.siteMask ≠ 0 ∧ e.siteMask < 8 := by simp [fitsMask, Config.lastMinute]
  unfold planEntry
  rw [← inRange]
  split
  · rename_i fits; simp [fits]
  · rename_i beyond; simp [beyond]

theorem planEntry_value {e : PlanEntryOp} {x : PlanEntry} (h : planEntry e = some x) :
    ∃ a, planAction e = some a ∧ x = ⟨e.minute, BitVec.ofNat 3 e.siteMask, a⟩ := by
  obtain ⟨_, h⟩ := Option.ite_none_right_eq_some.1 h
  obtain ⟨a, ha, rfl⟩ := Option.map_eq_some_iff.1 h
  exact ⟨a, ha, rfl⟩

/-! ### Entries that repeat, and closes without a start -/

theorem sitesMeet_iff (a b : SiteSet) : sitesMeet a b = true ↔ ∃ site, site ≤ 2 ∧ a.getLsbD site = true ∧ b.getLsbD site = true := by
  unfold sitesMeet
  rw [bne_iff_ne]
  constructor
  · intro meet
    by_contra apart
    refine meet (BitVec.eq_of_getLsbD_eq fun i hi => ?_)
    have zero : (0 : SiteSet).getLsbD i = false := BitVec.getLsbD_zero
    rw [BitVec.getLsbD_and, zero, Bool.and_eq_false_iff, ← Bool.not_eq_true, ← Bool.not_eq_true]
    by_contra both
    exact apart ⟨i, by omega, by simpa using both⟩
  · rintro ⟨site, -, ha, hb⟩ none
    have := BitVec.getLsbD_and (x := a) (y := b) (i := site)
    rw [none, ha, hb] at this
    simp at this

theorem repeats_iff (a b : PlanEntry) : a.repeats b = true ↔
    (∃ k, a.action = .regStart k ∧ b.action = .regStart k ∨ a.action = .regClose k ∧ b.action = .regClose k) ∧
    ∃ site, site ≤ 2 ∧ a.sites.getLsbD site = true ∧ b.sites.getLsbD site = true := by
  rw [← sitesMeet_iff]
  unfold PlanEntry.repeats
  split
  case h_1 j k ha hb =>
    rw [ha, hb]
    simp only [Bool.and_eq_true, beq_iff_eq, PlanAction.regStart.injEq, reduceCtorEq, false_and, or_false, exists_eq_left']
    exact and_congr_left' eq_comm
  case h_2 j k ha hb =>
    rw [ha, hb]
    simp only [Bool.and_eq_true, beq_iff_eq, PlanAction.regClose.injEq, reduceCtorEq, false_and, false_or, exists_eq_left']
    exact and_congr_left' eq_comm
  case h_3 unstarted unclosed =>
    refine ⟨fun h => (nomatch h), fun ⟨⟨k, pair⟩, _⟩ => ?_⟩
    rcases pair with ⟨ha, hb⟩ | ⟨ha, hb⟩
    · exact (unstarted k k ha hb).elim
    · exact (unclosed k k ha hb).elim

theorem planDuplicates_false (l : List PlanEntry) : planDuplicates l = false ↔ l.Pairwise fun a b => a.repeats b = false := by
  induction l with
  | nil => simp [planDuplicates]
  | cons e l ih => simp [planDuplicates, ih]

theorem planDuplicates_iff (l : List PlanEntry) : planDuplicates l = true ↔
    ∃ (i j : Nat) (a b : PlanEntry), i < j ∧ l[i]? = some a ∧ l[j]? = some b ∧ a.repeats b = true := by
  rw [← Bool.not_eq_false, planDuplicates_false, List.pairwise_iff_getElem]
  constructor
  · intro h
    push Not at h
    obtain ⟨i, j, hi, hj, before, repeats⟩ := h
    exact ⟨i, j, l[i], l[j], before, List.getElem?_eq_getElem hi, List.getElem?_eq_getElem hj, by simpa using repeats⟩
  · rintro ⟨i, j, a, b, before, hi, hj, repeats⟩ none
    obtain ⟨left, rfl⟩ := List.getElem?_eq_some_iff.1 hi
    obtain ⟨right, rfl⟩ := List.getElem?_eq_some_iff.1 hj
    rw [none i j left right before] at repeats
    cases repeats

theorem opensBy_false (l : List PlanEntry) (k site minute : Nat) : opensBy l k site minute = false ↔
    ∀ o ∈ l, o.action = .regStart k → o.sites.getLsbD site = true → minute < o.minute := by
  simp [opensBy]

theorem mem_allSites_iff (s : Nat) : s ∈ allSites ↔ s ≤ 2 := ⟨fun h => by have := mem_sites h; omega, fun h => mem_allSites (by omega)⟩

theorem closesEarly_iff (l : List PlanEntry) (e : PlanEntry) : closesEarly l e = true ↔ ∃ k site, e.action = .regClose k ∧
    site ≤ 2 ∧ e.sites.getLsbD site = true ∧ opensBy l k site e.minute = false := by
  unfold closesEarly
  split
  case h_1 k hk => 
    rw [hk]
    simp only [List.any_eq_true, Bool.and_eq_true, Bool.not_eq_true', mem_allSites_iff, PlanAction.regClose.injEq]
    exact ⟨fun ⟨site, place, early⟩ => ⟨k, site, rfl, place, early⟩, fun ⟨_, site, same, place, early⟩ => same ▸ ⟨site, place, early⟩⟩
  all_goals rename_i other; simp [other]

/-! ### Plan order -/

theorem planBefore_iff (a b : PlanEntry) :
    planBefore a b = true ↔ a.minute < b.minute ∨ a.minute = b.minute ∧ a.action.rank < b.action.rank := by simp [planBefore]

theorem planBefore_false (a b : PlanEntry) :
    planBefore a b = false ↔ b.minute < a.minute ∨ a.minute = b.minute ∧ b.action.rank ≤ a.action.rank := by
  rw [← Bool.not_eq_true, planBefore_iff]; omega

theorem planBefore_asymm (a b : PlanEntry) (h : planBefore a b = true) : planBefore b a = false := by
  rw [planBefore_iff] at h; rw [planBefore_false]; omega

theorem planBefore_trans (a b c : PlanEntry) (hab : planBefore a b = true) (hbc : planBefore b c = true) : planBefore a c = true := by
  rw [planBefore_iff] at *; omega

theorem planBefore_split (a b c : PlanEntry) (hac : planBefore a c = true) : planBefore a b = true ∨ planBefore b c = true := by
  rw [planBefore_iff] at *; rw [planBefore_iff]; omega

/-- Entries of one minute and one rank keep the request's order. -/
theorem inPlanOrder_level (l : List PlanEntry) (m k : Nat) : (inPlanOrder l).filter (fun e => e.minute == m && e.action.rank == k) =
    l.filter (fun e => e.minute == m && e.action.rank == k) := by
  refine sortBy_filter planBefore_asymm planBefore_trans planBefore_split (fun a b ha hb => ?_) l
  simp only [Bool.and_eq_true, beq_iff_eq] at ha hb
  rw [planBefore_false]; omega

/-! ### The request -/

theorem planInUse_iff (d : Device) (plan : Nat) : d.planInUse plan = true ↔
    d.tb.today = .plan plan ∨ ∃ sl ∈ (d.ss.plan plan).active, sl.fired ≠ 0 ∨ sl.passed ≠ 0 := by
  simp [Device.planInUse]

/-- The checks of LOAD_PLAN after its entries are decoded. -/
theorem serveLoadPlan_of {plan : Nat} {entries : List PlanEntryOp} {l : List PlanEntry} (h : decodeAll planEntry entries = some l)
    (d : Device) : serveLoadPlan plan entries d = checked d
      [(plan == 0 || 8 < plan, .range), (Config.maxPlanEntries < l.length, .full), (planDuplicates l, .duplicate),
       (l.any (closesEarly l), .range), (d.rolling, .busy)]
      (ok .empty, { d with ss.plans := setNth d.ss.plans plan ((d.ss.plan plan).loaded (d.planInUse plan) (inPlanOrder l)) }) := by
  unfold serveLoadPlan; rw [h]

theorem serveLoadPlan_range {plan : Nat} {entries : List PlanEntryOp} (d : Device)
    (h : plan = 0 ∨ 8 < plan ∨ ∃ e ∈ entries, planEntry e = none) : serveLoadPlan plan entries d = refuse .range d := by
  cases decoded : decodeAll planEntry entries with
  | none => unfold serveLoadPlan; rw [decoded]
  | some l =>
    rw [serveLoadPlan_of decoded]
    refine checked_fails ?_
    rcases h with zero | high | undecoded
    · simp [zero]
    · simp [high]
    · rw [(decodeAll_none _ _).2 undecoded] at decoded; cases decoded

/-- Settles O21: the decoder by the action's code, the checks in order, and the sort's three laws for the order written. -/
theorem loadPlanWritesByStanding : Obligations.LoadPlanWritesByStanding := by
  refine ⟨fun e => ?_, fun e x h => ?_, fun l => ⟨?_, fun e => ?_⟩, fun a b => ?_, planInUse_iff, fun s tag plan entries ready => ?_⟩
  · rw [planEntry_isSome, planAction_isSome, Nat.pos_iff_ne_zero, and_assoc, and_assoc]
  · obtain ⟨a, ha, rfl⟩ := planEntry_value h
    rw [planAction_value ha]
  · simp only [planDuplicates_iff, repeats_iff]
  · simp only [closesEarly_iff, opensBy_false]
  · exact ⟨rfl, planBefore_iff a b⟩
  · have hload : exec (.loadPlan tag plan entries) s =
        answers s tag 12 (serveLoadPlan plan entries s.dev).1 (serveLoadPlan plan entries s.dev).2 := act_request_ready ready
    refine ⟨fun bad => ?_, fun l h1 h8 decoded => ?_⟩
    · rw [hload, serveLoadPlan_range _ bad]; rfl
    rw [serveLoadPlan_of decoded, checked_passes (by simp; omega)] at hload
    have fits (h : l.length ≤ 32) : decide (Config.maxPlanEntries < l.length) = false := decide_eq_false (Nat.not_lt.2 h)
    have beyond (h : 32 < l.length) : decide (Config.maxPlanEntries < l.length) = true := decide_eq_true h
    refine ⟨fun full => hload.trans ?_, fun room twice => hload.trans ?_, fun room once early => hload.trans ?_,
      fun room once follow => ⟨fun busy => hload.trans ?_, fun idle => ?_⟩⟩
    · rw [checked_fails (beyond full)]; rfl
    · rw [checked_passes (fits room), checked_fails twice]; rfl
    · rw [checked_passes (fits room), checked_passes once, checked_fails early]; rfl
    · rw [checked_passes (fits room), checked_passes once, checked_passes follow, checked_fails (rolling_active busy)]; rfl
    · rw [checked_passes (fits room), checked_passes once, checked_passes follow, checked_passes (rolling_idle idle), checked_nil,
        setNth_pos h1] at hload
      refine ⟨inPlanOrder l, sortBy_perm _ _, sortBy_inOrder planBefore_asymm planBefore_trans _, inPlanOrder_level l,
        fun used => hload.trans ?_, fun unused => hload.trans ?_⟩
      · rw [used]; rfl
      · rw [unused]; rfl

end Sys2Proof.Machine
end

section
/-! O22: QUERY_PLAN and QUERY_DAY (R26, R38, R39). -/
namespace Sys2Proof.Machine

/-! ### QUERY_PLAN -/

theorem copyCode_none {n : Nat} (h : n = 0 ∨ 2 < n) : copyCode n = none := by
  unfold copyCode; split
  · omega
  · omega
  · rfl

theorem serveQueryPlan_range {plan copy : Nat} (d : Device) (h : plan = 0 ∨ 8 < plan ∨ copy = 0 ∨ 2 < copy) :
    serveQueryPlan plan copy d = refuse .range d := by
  unfold serveQueryPlan
  split
  · rfl
  · rename_i active code
    refine checked_fails ?_
    rcases h with zero | high | uncoded
    · simp [zero]
    · simp [high]
    · rw [copyCode_none uncoded] at code; cases code

/-- QUERY_PLAN of a plan and a copy of their tables. -/
theorem serveQueryPlan_of {plan copy : Nat} {active : Bool} (h1 : 1 ≤ plan) (h8 : plan ≤ 8) (code : copyCode copy = some active)
    (d : Device) : serveQueryPlan plan copy d = checked d [(d.rolling, .busy)]
      (ok (.plan (if active then (d.ss.plan plan).active.map (·.entry) else (d.ss.plan plan).staged) (d.ss.plan plan).pending
        (d.planFlags plan active)), d) := by
  have number : (plan == 0 || 8 < plan : Bool) = false := by simp; omega
  unfold serveQueryPlan; rw [code]
  exact checked_passes number

theorem planFlags_today {plan : Nat} {d : Device} (h : d.tb.today = .plan plan) :
    d.planFlags plan true = (d.ss.plan plan).active.map fun sl => (sl.fired, sl.passed) := if_pos (by simp [h])
theorem planFlags_other {plan : Nat} {d : Device} (h : d.tb.today ≠ .plan plan) : d.planFlags plan true = [] := if_neg (by simp [h])
theorem planFlags_staged (plan : Nat) (d : Device) : d.planFlags plan false = [] := if_neg (by simp)

/-! ### The site day state -/

theorem isStart_iff (a : PlanAction) : a.isStart = true ↔ ∃ k, a = .regStart k := by cases a <;> simp [PlanAction.isStart]

/-- A REG_START of the site that has fired. -/
theorem startFired_iff (sl : PlanSlot) (site : Nat) : (sl.entry.action.isStart && sl.fired.getLsbD site) = true ↔
    (∃ k, sl.entry.action = .regStart k) ∧ sl.fired.getLsbD site = true := by rw [Bool.and_eq_true, isStart_iff]

theorem regStarted_iff (ss : Scanner) (site : Nat) : ss.regStarted site = true ↔
    ∃ p ∈ ss.plans, ∃ sl ∈ p.active, (∃ k, sl.entry.action = .regStart k) ∧ sl.fired.getLsbD site = true := by
  simp only [Scanner.regStarted, List.any_eq_true, startFired_iff]

/-- The maximum that a walk over a list keeps stands where no member exceeds it. -/
theorem foldl_latest_stands {α : Type} (key : α → Nat) {m : Nat} {l : List α} (h : ∀ a ∈ l, key a ≤ m) :
    l.foldl (fun acc a => some (max (acc.getD 0) (key a))) (some m) = some m := by
  induction l with
  | nil => rfl
  | cons a l ih =>
    rw [List.forall_mem_cons] at h
    rw [List.foldl_cons, Option.getD_some, Nat.max_eq_left h.1]
    exact ih h.2

/-- A walk over a list that keeps the maximum ends with the key of a member that none exceeds. -/
theorem foldl_latest {α : Type} (key : α → Nat) {a : α} {l : List α} (ha : a ∈ l) (h : ∀ b ∈ l, key b ≤ key a) (acc : Option Nat)
    (hacc : acc.getD 0 ≤ key a) : l.foldl (fun acc b => some (max (acc.getD 0) (key b))) acc = some (key a) := by
  induction l generalizing acc with
  | nil => cases ha
  | cons b l ih =>
    rw [List.forall_mem_cons] at h
    rw [List.foldl_cons]
    rcases List.mem_cons.1 ha with rfl | ha
    · rw [Nat.max_eq_right hacc]; exact foldl_latest_stands key h.2
    · exact ih ha h.2 _ (Nat.max_le.2 ⟨hacc, h.1⟩)

section
variable {d : Device} {site : Nat}

theorem latestStart_none (h : ∀ sl ∈ d.slots, ¬ ((∃ k, sl.entry.action = .regStart k) ∧ sl.fired.getLsbD site = true)) :
    d.latestStart site = none := by
  unfold Device.latestStart
  rw [List.filter_eq_nil_iff.2 fun sl hsl fired => h sl hsl ((startFired_iff sl site).1 fired)]
  rfl

theorem latestStart_of {sl : PlanSlot} (hsl : sl ∈ d.slots) (fired : (∃ k, sl.entry.action = .regStart k) ∧ sl.fired.getLsbD site = true)
    (h : ∀ o ∈ d.slots, (∃ k, o.entry.action = .regStart k) ∧ o.fired.getLsbD site = true →
      d.ss.effective o.entry.minute site ≤ d.ss.effective sl.entry.minute site) :
    d.latestStart site = some (d.ss.effective sl.entry.minute site) := by
  refine foldl_latest (fun o : PlanSlot => d.ss.effective o.entry.minute site)
    (List.mem_filter.2 ⟨hsl, (startFired_iff sl site).2 fired⟩) (fun o ho => ?_) none (Nat.zero_le _)
  obtain ⟨here, started⟩ := List.mem_filter.1 ho
  exact h o here ((startFired_iff o site).1 started)

/-- The clock is VALID and today's plan holds a REG_START of the site. -/
theorem opens_iff : (!d.clockValid || !(d.slots.any fun sl => sl.entry.action.isStart && sl.names site)) = false ↔
    d.tb.validity = .valid ∧ ∃ sl ∈ d.slots, (∃ k, sl.entry.action = .regStart k) ∧ sl.entry.sites.getLsbD site = true := by
  simp only [Bool.or_eq_false_iff, Bool.not_eq_false', clockValid_iff, List.any_eq_true, Bool.and_eq_true, isStart_iff, PlanSlot.names]

theorem dayState_closed (h : ¬ (d.tb.validity = .valid ∧
    ∃ sl ∈ d.slots, (∃ k, sl.entry.action = .regStart k) ∧ sl.entry.sites.getLsbD site = true)) : d.dayState site = .closed := by
  rw [← opens_iff, Bool.not_eq_false] at h
  exact if_pos h

theorem dayState_opens (h : d.tb.validity = .valid ∧
    ∃ sl ∈ d.slots, (∃ k, sl.entry.action = .regStart k) ∧ sl.entry.sites.getLsbD site = true) :
    d.dayState site = match d.latestStart site with
      | none => .before
      | some e => if d.tb.second ≤ deadline (60 * e) (d.ss.site site).grace then .open else .lateInForce :=
  if_neg (by rw [opens_iff.2 h]; exact Bool.false_ne_true)

end

/-! ### The obligation -/

theorem schoolDay_iff (d : Device) : d.schoolDay = true ↔ d.tb.today ≠ .closed := bne_iff_ne

/-- Settles O22: the queries answer what the scanner holds; a site's state turns on the latest registration start fired. -/
theorem plansAndDayAreRead : Obligations.PlansAndDayAreRead := by
  refine ⟨fun s tag plan copy ready => ?_, fun s tag ready => ?_, fun d site => ?_, fun d => ⟨fun school => ?_, fun closed => ?_⟩⟩
  · have hread : exec (.queryPlan tag plan copy) s =
        answers s tag 13 (serveQueryPlan plan copy s.dev).1 (serveQueryPlan plan copy s.dev).2 := act_request_ready ready
    refine ⟨fun bad => hread.trans ?_, fun h1 h8 c1 c2 busy => hread.trans ?_, fun h1 h8 idle => ⟨?_, ?_, ?_⟩⟩
    · rw [serveQueryPlan_range _ bad]; rfl
    · obtain ⟨active, code⟩ : ∃ active, copyCode copy = some active := by
        obtain rfl | rfl : copy = 1 ∨ copy = 2 := by omega
        · exact ⟨true, rfl⟩
        · exact ⟨false, rfl⟩
      rw [serveQueryPlan_of h1 h8 code, checked_fails (rolling_active busy)]; rfl
    · rintro rfl
      refine hread.trans ?_
      rw [serveQueryPlan_of (active := false) h1 h8 rfl, checked_passes (rolling_idle idle), checked_nil, planFlags_staged]; rfl
    · rintro rfl other
      refine hread.trans ?_
      rw [serveQueryPlan_of (active := true) h1 h8 rfl, checked_passes (rolling_idle idle), checked_nil, planFlags_other other]; rfl
    · rintro rfl today
      refine hread.trans ?_
      rw [serveQueryPlan_of (active := true) h1 h8 rfl, checked_passes (rolling_idle idle), checked_nil, planFlags_today today]; rfl
  · have hread : exec (.queryDay tag) s = answers s tag 17 (serveQueryDay s.dev).1 (serveQueryDay s.dev).2 := act_request_ready ready
    refine ⟨fun busy => hread.trans ?_, fun idle => hread.trans ?_⟩ <;> unfold serveQueryDay
    · rw [checked_fails (rolling_active busy)]; rfl
    · rw [checked_passes (rolling_idle idle)]; rfl
  · intro slots starts fired minuteOf opens
    refine ⟨dayState_closed, fun isOpen none => ?_, fun sl isOpen isFired latest => ?_, regStarted_iff d.ss site⟩
    · rw [dayState_opens isOpen, latestStart_none fun sl hsl h => none sl ⟨hsl, h⟩]
    · rw [dayState_opens isOpen, latestStart_of isFired.1 isFired.2 fun o ho h => latest o ⟨ho, h⟩]
      exact ⟨fun within => if_pos within, fun beyond => if_neg (Nat.not_le.2 beyond)⟩
  · exact if_pos ((schoolDay_iff d).2 school)
  · exact if_neg fun h => (schoolDay_iff d).1 h closed

end Sys2Proof.Machine
end

section
/-! O23: SET_SITE and SET_SHIFT (R27, R28, R33). -/
namespace Sys2Proof.Machine

/-- Some value of SET_SITE is clamped exactly when one lies outside its range. -/
theorem written_clamps (old : SiteSettings) (offset : Int) (grace delay : Nat) (each : Bool) :
    let new := old.written offset grace delay each
    (new.offset != offset || new.grace != grace || new.confirmDelay != delay) =
      (offset < -60 || 60 < offset || 20 < grace || delay < 5 || 60 < delay : Bool) := by
  rw [Bool.eq_iff_iff]
  simp only [SiteSettings.written, clampInt, clampNat, Bool.or_eq_true, bne_iff_ne, decide_eq_true_eq]
  omega

/-- SET_SITE with a flag of its table: its checks, and the settings it writes. -/
theorem serveSetSite_of (site : Nat) (offset : Int) (grace delay : Nat) (each : Bool) (d : Device) :
    let old := d.ss.site site
    let new := old.written offset grace delay each
    serveSetSite site offset grace delay (if each then 1 else 0) d = checked d
      [(2 < site, .range), (d.rolling, .busy), (offset != old.offset && d.ss.regStarted site, .tooLate)]
      (okClamped (offset < -60 || 60 < offset || 20 < grace || delay < 5 || 60 < delay) .empty,
       if new.offset = old.offset then d.putSite site new else reassess [site] (d.putSite site new)) := by
  unfold serveSetSite; rw [flagCode_of]; dsimp only; rw [written_clamps]

/-- Settles O23: the checks in order; SET_SITE reassesses only where the offset written is another. -/
theorem siteRequestsClampAndReassess : Obligations.SiteRequestsClampAndReassess := by
  refine ⟨fun s tag site offset grace delay each ready => ?_, fun s tag site minutes ready => ?_,
    fun s tag site offset grace delay flag ready high => ?_⟩
  · have hset : exec (.setSite tag site offset grace delay (if each then 1 else 0)) s = answers s tag 14
        (serveSetSite site offset grace delay (if each then 1 else 0) s.dev).1
        (serveSetSite site offset grace delay (if each then 1 else 0) s.dev).2 := act_request_ready ready
    rw [serveSetSite_of] at hset
    intro set old new clamped written
    refine ⟨fun beyond => hset.trans ?_, fun within busy => hset.trans ?_, fun within idle other started => hset.trans ?_,
      fun within idle may => ?_⟩
    · rw [checked_fails (by simpa using beyond)]; rfl
    · rw [checked_passes (by simpa using within), checked_fails (rolling_active busy)]; rfl
    · rw [checked_passes (by simpa using within), checked_passes (rolling_idle idle),
        checked_fails (by rw [started]; simpa using other)]; rfl
    · have inTime : (offset != old.offset && s.dev.ss.regStarted site) = false := by
        rcases may with same | none
        · simp [same]
        · simp [none]
      rw [checked_passes (by simpa using within), checked_passes (rolling_idle idle), checked_passes inTime, checked_nil] at hset
      exact ⟨fun same => hset.trans (congrArg (answers s tag 14 _) (if_pos same)),
        fun moved => hset.trans (congrArg (answers s tag 14 _) (if_neg moved))⟩
  · have hset : exec (.setShift tag site minutes) s =
        answers s tag 15 (serveSetShift site minutes s.dev).1 (serveSetShift site minutes s.dev).2 := act_request_ready ready
    unfold serveSetShift at hset
    refine ⟨fun beyond => hset.trans ?_, fun within busy => hset.trans ?_, fun within idle started => hset.trans ?_,
      fun within idle unstarted => hset.trans ?_⟩
    · rw [checked_fails (by simpa using beyond)]; rfl
    · rw [checked_passes (by simpa using within), checked_fails (rolling_active busy)]; rfl
    · rw [checked_passes (by simpa using within), checked_passes (rolling_idle idle), checked_fails started]; rfl
    · rw [checked_passes (by simpa using within), checked_passes (rolling_idle idle), checked_passes unstarted]; rfl
  · have hset : exec (.setSite tag site offset grace delay flag) s = answers s tag 14
        (serveSetSite site offset grace delay flag s.dev).1 (serveSetSite site offset grace delay flag s.dev).2 :=
      act_request_ready ready
    rw [hset]; unfold serveSetSite; rw [flagCode_none high]; rfl

end Sys2Proof.Machine
end

section
/-! O24: SELECT_TODAY (R36, R58). -/
namespace Sys2Proof.Machine

/-! ### A change of day kind -/

/-- Where CLOSED is reached, by the state alone. -/
theorem toClosedDay_eq (e : RosterEntry) : e.toClosedDay = { e with
    due := none, excuseRef := none
    state := if e.state = .expected ∨ e.state = .excusedAway ∨ e.state = .present ∨ e.state = .late then .notDue else e.state
    prior := if e.state = .out then some .notDue else e.prior } := by
  obtain ⟨roll, due, state, band, arrival, back, reason, prior, tag, excuse, built⟩ := e
  cases state <;> rfl

/-- Where CLOSED is left, by the state and by whether the pupil came. -/
theorem toSchoolDay_eq (q : DuePoint) (e : RosterEntry) : e.toSchoolDay q = { e with
    due := some q
    state := if e.state = .notDue then (if e.arrivalSecond = none then .expected else .present) else e.state
    prior := if e.state = .out then some .present else e.prior
    band := if e.state = .out ∨ e.state = .notDue ∧ e.arrivalSecond ≠ none then some .onTime else e.band } := by
  obtain ⟨roll, due, state, band, arrival, back, reason, prior, tag, excuse, built⟩ := e
  cases state
  case notDue => cases arrival <;> rfl
  all_goals rfl

/-- The due point given at an opening: an entry made at the build takes its pupil's. -/
def Attendance.openingDue (ae : Attendance) (cycleDay : Nat) (e : RosterEntry) : Option DuePoint :=
  if e.atBuild then (ae.pupil e.roll).bind fun p => (ae.groups.getD p.group []).getD (cycleDay - 1) none else none

theorem openedEntry_none {ae : Attendance} {cycleDay : Nat} {e : RosterEntry} (h : ae.openingDue cycleDay e = none) :
    ae.openedEntry cycleDay e = e := by
  unfold Attendance.openedEntry
  split
  · rename_i built
    have due : (ae.pupil e.roll).bind (ae.duePoint · cycleDay) = none := (if_pos built).symm.trans h
    rw [due]
  · rfl

theorem openedEntry_some {ae : Attendance} {cycleDay : Nat} {e : RosterEntry} {q : DuePoint} (h : ae.openingDue cycleDay e = some q) :
    ae.openedEntry cycleDay e = e.toSchoolDay q := by
  unfold Attendance.openedEntry
  split
  · rename_i built
    have due : (ae.pupil e.roll).bind (ae.duePoint · cycleDay) = some q := (if_pos built).symm.trans h
    rw [due]
  · rename_i late
    cases (if_neg late).symm.trans h

/-! ### Today's plan becomes another -/

theorem reassess_still {d : Device} (h : d.tb.validity ≠ .valid ∨ d.tb.today = .closed) (sites : List Nat) : reassess sites d = d := by
  refine if_neg fun scanning => ?_
  obtain ⟨valid, school⟩ := (scanning_iff d).1 scanning
  exact h.elim (· valid) school

theorem selectPlan_between {c : DayPlanChoice} {d : Device} (was : d.tb.today ≠ .closed) (is : c ≠ .closed) :
    selectPlan c d = reassess allSites { d with tb.today := c } := by
  unfold selectPlan
  dsimp only
  rw [if_pos (by simp [was, is])]

theorem selectPlan_closes {d : Device} (was : d.tb.today ≠ .closed) :
    selectPlan .closed d = { d with
      tb.today := .closed
      ae.roster := d.ae.roster.map fun l => l.map RosterEntry.toClosedDay } := by
  unfold selectPlan
  dsimp only
  rw [if_neg (by simp [was])]
  exact reassess_still (.inr rfl) _

theorem selectPlan_opens {c : DayPlanChoice} {d : Device} (was : d.tb.today = .closed) (is : c ≠ .closed) :
    selectPlan c d = reassess allSites { d with
      tb.today := c
      ae := applyAbsences d.tb.date { d.ae with roster := d.ae.roster.map fun l => l.map (d.ae.openedEntry d.tb.cycleDay) } } := by
  unfold selectPlan
  dsimp only
  rw [if_neg (by simp [was, is])]
  have kind : (c == .closed) = false := by simpa using is
  rw [kind]; rfl

/-! ### The obligation -/

theorem planChoice_of {c : DayPlanChoice} {n : Nat} (h : c = .closed ∧ n = 255 ∨ 1 ≤ n ∧ n ≤ 8 ∧ c = .plan n) :
    planChoice n = some c := by
  rcases h with ⟨rfl, rfl⟩ | ⟨h1, h8, rfl⟩
  · rfl
  · exact planChoice_plan h1 h8

theorem anyStarted_iff (ss : Scanner) : allSites.any ss.regStarted = true ↔ ∃ site, site ≤ 2 ∧ ss.regStarted site = true := by
  simp only [List.any_eq_true, mem_allSites_iff]

/-- SELECT_TODAY of a plan or CLOSED: its checks, and another plan or the same. -/
theorem serveSelectToday_of {c : DayPlanChoice} {n : Nat} (h : planChoice n = some c) (d : Device) :
    serveSelectToday n d = checked d [(d.rolling, .busy), (!d.clockValid, .state), (allSites.any d.ss.regStarted, .tooLate)]
      (ok .empty, if d.tb.today = c then d else selectPlan c d) := by
  unfold serveSelectToday; rw [h]

/-- Settles O24: the checks in order, then the three ways from one plan to another, entry by entry where the day kind changes. -/
theorem selectTodayChangesThePlan : Obligations.SelectTodayChangesThePlan := by
  intro s tag n ready
  have hselect : exec (.selectToday tag n) s =
      answers s tag 16 (serveSelectToday n s.dev).1 (serveSelectToday n s.dev).2 := act_request_ready ready
  refine ⟨fun bad => hselect.trans ?_, fun c choice => ?_⟩
  · unfold serveSelectToday; rw [planChoice_none bad]; rfl
  rw [serveSelectToday_of (planChoice_of choice)] at hselect
  have valid (h : s.dev.tb.validity = .valid) : (!s.dev.clockValid) = false := by rw [(clockValid_iff _).2 h]; rfl
  refine ⟨fun busy => hselect.trans ?_, fun idle invalid => hselect.trans ?_, fun idle clock started => hselect.trans ?_,
    fun idle clock unstarted => ?_⟩
  · rw [checked_fails (rolling_active busy)]; rfl
  · rw [checked_passes (rolling_idle idle), checked_fails (by rw [(clockValid_false_iff _).2 invalid]; rfl)]; rfl
  · rw [checked_passes (rolling_idle idle), checked_passes (valid clock), checked_fails ((anyStarted_iff _).2 started)]; rfl
  have none : allSites.any s.dev.ss.regStarted = false := by
    rw [← Bool.not_eq_true, anyStarted_iff]
    rintro ⟨site, within, started⟩
    rw [unstarted site within] at started; cases started
  rw [checked_passes (rolling_idle idle), checked_passes (valid clock), checked_passes none, checked_nil] at hselect
  refine ⟨fun same => hselect.trans (congrArg (answers s tag 16 _) (if_pos same)), fun other => ?_⟩
  have selected : exec (.selectToday tag n) s = answers s tag 16 (ok .empty) (selectPlan c s.dev) :=
    hselect.trans (congrArg (answers s tag 16 _) (if_neg other))
  intro now
  refine ⟨fun was is => selected.trans (by rw [selectPlan_between was is]; rfl), ?_⟩
  intro emptied dueOf came opened
  refine ⟨fun is => ?_, fun was => ?_⟩
  · have emptying : RosterEntry.toClosedDay = emptied := funext toClosedDay_eq
    subst is
    rw [selected, selectPlan_closes other, emptying]
  · have opening : s.dev.ae.openedEntry s.dev.tb.cycleDay = opened := by
      funext e
      have due : (if e.atBuild then dueOf e else .none) = s.dev.ae.openingDue s.dev.tb.cycleDay e := rfl
      simp only [opened]
      rw [due]
      cases given : s.dev.ae.openingDue s.dev.tb.cycleDay e with
      | none => rw [openedEntry_none given]
      | some q => rw [openedEntry_some given, toSchoolDay_eq]
    rw [selected, selectPlan_opens was fun is => other (was.trans is.symm), opening]
    rfl

end Sys2Proof.Machine
end

section
/-! O25: effective minutes, closes, confirm points and the walk, each said without the scanner's own helpers (R29 to R33). -/
namespace Sys2Proof.Machine

/-! ### Effective minutes -/

theorem effective_below {ss : Scanner} {m site : Nat} (h : (m : Int) + (ss.site site).offset + (ss.site site).shift < 0) :
    ss.effective m site = 0 := by
  unfold Scanner.effective clampInt; omega

theorem effective_within {ss : Scanner} {m site : Nat} (low : 0 ≤ (m : Int) + (ss.site site).offset + (ss.site site).shift)
    (high : (m : Int) + (ss.site site).offset + (ss.site site).shift ≤ 1439) :
    (ss.effective m site : Int) = (m : Int) + (ss.site site).offset + (ss.site site).shift := by
  unfold Scanner.effective clampInt; simp only [Config.lastMinute]; omega

theorem effective_above {ss : Scanner} {m site : Nat} (h : 1439 < (m : Int) + (ss.site site).offset + (ss.site site).shift) :
    ss.effective m site = 1439 := by
  unfold Scanner.effective clampInt; simp only [Config.lastMinute]; omega

/-! ### A registration close -/

/-- The minute of the confirm point a close sets: its effective minute and the site's delay, within the day. -/
def Device.confirmMinute (d : Device) (m site : Nat) : Nat := min (d.ss.effective m site + (d.ss.site site).confirmDelay) 1439

theorem handClose_ahead {d : Device} {n k site m : Nat} (h : n < d.confirmMinute m site) : handClose n k site m d = { d with
    ae.sweeps := d.ae.sweeps ++ [⟨.close, k, site, 1, .running⟩]
    ss.confirm := d.ss.confirm.set (3 * (k - 1) + site) (.setAt (d.confirmMinute m site)) } := if_neg (Nat.not_le.2 h)

/-- A close whose confirm point is not ahead fires it: the confirm sweep waits behind the close's. -/
theorem handClose_past {d : Device} {n k site m : Nat} (h : d.confirmMinute m site ≤ n) : handClose n k site m d = { d with
    ae.sweeps := d.ae.sweeps ++ [⟨.close, k, site, 1, .running⟩] ++ [⟨.confirm, k, site, 1, .waiting⟩]
    ss.confirm := d.ss.confirm.set (3 * (k - 1) + site) .firedToday } := by
  have fired : handClose n k site m d = firePoint k site (registrationClose k site d) := if_pos h
  have closing : ∃ w ∈ (registrationClose k site d).ae.sweeps, w.kind = .close ∧ w.point = k ∧ w.site = site :=
    ⟨⟨.close, k, site, 1, .running⟩, List.mem_append_right _ List.mem_cons_self, rfl, rfl, rfl⟩
  rw [fired, firePoint_eq (k, site), if_pos closing]; rfl

/-! ### Confirm points -/

/-- No confirm point is SET with minute n. -/
def Device.Unset (n : Nat) (d : Device) : Prop := ∀ c ∈ d.ss.confirm, c ≠ .setAt n

theorem Device.Unset.point {n : Nat} {d : Device} (h : d.Unset n) (k s : Nat) : d.ss.confirmPoint k s ≠ .setAt n := fun set => by
  rw [confirmPoint_iff d.ss (k, s)] at set
  exact h _ (List.mem_of_getElem? set) rfl

theorem firePointsAt_unset {n : Nat} {d : Device} (h : d.Unset n) (sites : List Nat) : firePointsAt sites n d = d :=
  List.foldl_fixed' (fun q => if_neg (by simp [h.point])) _

theorem unset_of_none {d : Device} (h : ∀ c ∈ d.ss.confirm, c = .notSet) (n : Nat) : d.Unset n := fun c hc => by
  rw [h c hc]; exact nofun

theorem pointsBehind_none {d : Device} (h : ∀ c ∈ d.ss.confirm, c = .notSet) (sites : List Nat) (n : Nat) :
    pointsBehind sites n d.ss = [] := by
  have none : (pointsBehind sites n d.ss).map (·.2) = [] := by
    rw [behind_eq]
    simp only [List.flatMap_eq_nil_iff, List.filter_eq_nil_iff, decide_eq_true_eq, not_and]
    intro m _ q _ _ set
    exact unset_of_none h m _ (List.mem_of_getElem? set) rfl
  exact List.map_eq_nil_iff.1 none

/-- A close leaves no point SET with its own minute. -/
theorem handClose_unset {n : Nat} {d : Device} (h : d.Unset n) (k site m : Nat) : (handClose n k site m d).Unset n := by
  rcases Nat.lt_or_ge n (d.confirmMinute m site) with ahead | past
  · rw [handClose_ahead ahead]
    intro c hc
    rcases List.mem_or_eq_of_mem_set hc with hc | rfl
    · exact h c hc
    · exact fun same => by cases same; omega
  · rw [handClose_past past]
    intro c hc
    rcases List.mem_or_eq_of_mem_set hc with hc | rfl
    · exact h c hc
    · exact nofun

end Sys2Proof.Machine
end

section
/-! O25: the walks of today's slots, read through any account of the slots that agrees while the plan is today's. -/
namespace Sys2Proof.Machine

/-! ### What is done at a slot -/

/-- The pairs of entry e for some sites are handed at minute n. -/
def handEntry (n : Nat) (e : PlanEntry) (sites : List Nat) (d : Device) : Device :=
  match e.action with
  | .ring g i => startPattern g i d
  | .routeSwap => exchangeBanks d
  | .regStart _ => d
  | .regClose k => sites.foldl (fun acc s => handClose n k s e.minute acc) d

/-- The pairs of a slot behind minute n: a RING passed, any other handed (R33, part 2). -/
def catchSlot (n i : Nat) (sl : PlanSlot) (sites : List Nat) (d : Device) : Device :=
  match sl.entry.action with
  | .ring _ _ => d.onSlot i (PlanSlot.passedOn sites)
  | .routeSwap => fireSlot n i sl sites d
  | .regStart _ => fireSlot n i sl sites d
  | .regClose _ => fireSlot n i sl sites d

theorem fireSlot_eq (n i : Nat) (sl : PlanSlot) (sites : List Nat) (d : Device) :
    fireSlot n i sl sites d = handEntry n sl.entry sites (d.onSlot i (PlanSlot.firedOn sites)) := by
  unfold fireSlot handEntry; cases sl.entry.action <;> rfl

theorem catchSlot_ring {n i : Nat} {sl : PlanSlot} {sites : List Nat} {g k : Nat} (h : sl.entry.action = .ring g k) (d : Device) :
    catchSlot n i sl sites d = d.onSlot i (PlanSlot.passedOn sites) := by unfold catchSlot; rw [h]

theorem catchSlot_other {n i : Nat} {sl : PlanSlot} {sites : List Nat} (h : ∀ g k, sl.entry.action ≠ .ring g k) (d : Device) :
    catchSlot n i sl sites d = fireSlot n i sl sites d := by
  unfold catchSlot; split
  · rename_i g k ring; exact absurd ring (h g k)
  · rfl
  · rfl
  · rfl

theorem catchSlot_tb (n i : Nat) (sl : PlanSlot) (sites : List Nat) (d : Device) : (catchSlot n i sl sites d).tb = d.tb := by
  unfold catchSlot; split <;> simp

/-- What a walk of the pairs due does at a slot. -/
def dueStep (sites : List Nat) (n i : Nat) (sl : PlanSlot) (d : Device) : Device :=
  match dueSites sites n d.ss sl with
  | [] => d
  | due => fireSlot n i sl due d

/-- What a walk of the pairs behind does at a slot. -/
def behindStep (sites : List Nat) (n i : Nat) (sl : PlanSlot) (d : Device) : Device :=
  match behindSites sites n d.ss sl with
  | [] => d
  | behind => catchSlot n i sl behind d

theorem fireDue_eq (sites : List Nat) (n : Nat) : fireDue sites n = overSlots (dueStep sites n) := rfl
theorem catchUp_eq (sites : List Nat) (n : Nat) : catchUp sites n = overSlots (behindStep sites n) := rfl

theorem dueStep_none {sites : List Nat} {n i : Nat} {sl : PlanSlot} {d : Device} (h : dueSites sites n d.ss sl = []) :
    dueStep sites n i sl d = d := by unfold dueStep; rw [h]
theorem dueStep_some {sites : List Nat} {n i : Nat} {sl : PlanSlot} {d : Device} {l : List Nat} (h : dueSites sites n d.ss sl = l)
    (some : l ≠ []) : dueStep sites n i sl d = fireSlot n i sl l d := by
  unfold dueStep; rw [h]
  cases l with
  | nil => exact absurd rfl some
  | cons s l => rfl
theorem behindStep_none {sites : List Nat} {n i : Nat} {sl : PlanSlot} {d : Device} (h : behindSites sites n d.ss sl = []) :
    behindStep sites n i sl d = d := by unfold behindStep; rw [h]
theorem behindStep_some {sites : List Nat} {n i : Nat} {sl : PlanSlot} {d : Device} {l : List Nat}
    (h : behindSites sites n d.ss sl = l) (some : l ≠ []) : behindStep sites n i sl d = catchSlot n i sl l d := by
  unfold behindStep; rw [h]
  cases l with
  | nil => exact absurd rfl some
  | cons s l => rfl

/-! ### The walk -/

/-- A walk that reads the slots and takes each as the scanner does, wherever the plan is today's, is the scanner's walk. -/
theorem overSlots_agree {p : Nat} {slots : Device → List PlanSlot} {f g : Nat → PlanSlot → Device → Device}
    (same : ∀ b, b.tb.today = .plan p → slots b = b.slots) (agree : ∀ i sl b, b.tb.today = .plan p → f i sl b = g i sl b)
    (keeps : ∀ i sl b, (g i sl b).tb = b.tb) {a : Device} (ha : a.tb.today = .plan p) :
    (List.range (slots a).length).foldl (fun b i => match (slots b)[i]? with
      | none => b
      | some sl => f i sl b) a = overSlots g a := by
  unfold overSlots
  rw [same a ha]
  refine foldl_agree (P := fun b => b.tb.today = .plan p) _ (fun b i hb => ?_) (fun b i hb => ?_) ha
  · rw [same b hb]
    cases b.slots[i]? with
    | none => rfl
    | some sl => exact agree i sl b hb
  · split
    · exact hb
    · rename_i sl _; rw [agree i sl b hb, keeps]; exact hb

/-- The same, for walks that take a slot only where some of its sites are chosen. -/
theorem overSlots_choosing {p : Nat} {slots : Device → List PlanSlot} {chosen : PlanSlot → Device → List Nat}
    {take take' : Nat → List Nat → PlanSlot → Device → Device} (same : ∀ b, b.tb.today = .plan p → slots b = b.slots)
    (agree : ∀ i l sl b, b.tb.today = .plan p → take i l sl b = take' i l sl b) (keeps : ∀ i l sl b, (take' i l sl b).tb = b.tb)
    {a : Device} (ha : a.tb.today = .plan p) :
    (List.range (slots a).length).foldl (fun b i => match (slots b)[i]? with
      | none => b
      | some sl => match chosen sl b with
        | [] => b
        | l => take i l sl b) a =
      overSlots (fun i sl b => match chosen sl b with | [] => b | l => take' i l sl b) a := by
  refine overSlots_agree same (fun i sl b hb => ?_) (fun i sl b => ?_) ha
  · split
    · rfl
    · exact agree _ _ _ _ hb
  · split
    · rfl
    · exact keeps _ _ _ _

/-- The confirm points of a minute fire in the pairs' order. -/
theorem firePointsAt_eq (sites : List Nat) (n : Nat) (d : Device) : firePointsAt sites n d =
    confirmPairs.foldl (fun b q =>
      if q.2 ∈ sites ∧ b.ss.confirm[3 * (q.1 - 1) + q.2]? = some (.setAt n) then firePoint q.1 q.2 b else b) d := by
  unfold firePointsAt
  congr 1
  funext b q
  simp only [Bool.and_eq_true, List.contains_iff_mem, beq_iff_eq, confirmPoint_iff]

theorem reassess_scanning {d : Device} (h : d.scanning = true) (sites : List Nat) : reassess sites d =
    firePointsAt sites d.minute (fireDue sites d.minute (catchUp sites d.minute
      (((pointsBehind sites d.minute d.ss).map (·.2)).foldl (fun acc q => firePoint q.1 q.2 acc) d))) := by
  rw [List.foldl_map]; exact if_pos h

theorem foldl_firePoint_tb (l : List (Nat × Nat)) (d : Device) : (l.foldl (fun acc q => firePoint q.1 q.2 acc) d).tb = d.tb :=
  foldl_keeps (·.tb) (fun acc q => firePoint q.1 q.2 acc) (fun _ _ => rfl) l d

end Sys2Proof.Machine
end

section
/-! O25: the confirm points of a minute, all at once. -/
namespace Sys2Proof.Machine

/-- The confirm point of pair q fires where it is SET with minute n. -/
def firePointAt (n : Nat) (d : Device) (q : Nat × Nat) : Device :=
  if d.ss.confirm[confirmIndex q.1 q.2]? = some (.setAt n) then firePoint q.1 q.2 d else d

/-- A point SET with minute n is FIRED. -/
def ConfirmPoint.firedAt (n : Nat) (c : ConfirmPoint) : ConfirmPoint := if c = .setAt n then .firedToday else c

/-- Whether a close sweep of pair q stands in the list. -/
def Attendance.closing (ae : Attendance) (q : Nat × Nat) : Bool :=
  ae.sweeps.any fun w => w.kind == .close && w.point == q.1 && w.site == q.2

/-- The confirm sweep that pair q is given. -/
def Attendance.confirmSweepOf (ae : Attendance) (q : Nat × Nat) : Sweep :=
  ⟨.confirm, q.1, q.2, 1, if ae.closing q then .waiting else .running⟩

theorem closing_iff (ae : Attendance) (q : Nat × Nat) :
    ae.closing q = true ↔ ∃ w ∈ ae.sweeps, w.kind = .close ∧ w.point = q.1 ∧ w.site = q.2 := by
  simp [Attendance.closing, and_assoc]

theorem firePoint_sweeps_eq (q : Nat × Nat) (d : Device) :
    (firePoint q.1 q.2 d).ae.sweeps = d.ae.sweeps ++ [d.ae.confirmSweepOf q] := by
  rw [firePoint_eq]; unfold Attendance.confirmSweepOf; simp only [closing_iff]

/-- A point that fires changes no other, and asks for no close. -/
theorem firePointAt_sweepOf (n : Nat) (d : Device) (q r : Nat × Nat) :
    (firePointAt n d q).ae.confirmSweepOf r = d.ae.confirmSweepOf r := by
  unfold firePointAt; split
  · have : (firePoint q.1 q.2 d).ae.closing r = d.ae.closing r := by
      unfold Attendance.closing
      rw [firePoint_sweeps_eq, List.any_append]
      simp [Attendance.confirmSweepOf]
    unfold Attendance.confirmSweepOf; rw [this]
  · rfl

theorem firePointAt_point (n : Nat) (d : Device) (q : Nat × Nat) (i : Nat) : (firePointAt n d q).ss.confirm[i]? =
    if confirmIndex q.1 q.2 = i then d.ss.confirm[i]?.map (ConfirmPoint.firedAt n) else d.ss.confirm[i]? := by
  unfold firePointAt
  by_cases here : confirmIndex q.1 q.2 = i
  · subst here
    rw [if_pos rfl]
    split
    · rename_i set
      obtain ⟨within, -⟩ := List.getElem?_eq_some_iff.1 set
      rw [set]
      show (d.ss.confirm.set _ _)[_]? = _
      rw [List.getElem?_set_self within]
      exact congrArg some (if_pos rfl).symm
    · rename_i unset
      cases point : d.ss.confirm[confirmIndex q.1 q.2]? with
      | none => rfl
      | some c => exact congrArg some (if_neg fun set => unset (by rw [point, set])).symm
  · rw [if_neg here]
    split
    · exact List.getElem?_set_ne here
    · rfl

theorem foldl_firePointAt_point (n : Nat) (l : List (Nat × Nat)) (d : Device) (i : Nat) : (l.foldl (firePointAt n) d).ss.confirm[i]? =
    if i ∈ l.map fun q => confirmIndex q.1 q.2 then d.ss.confirm[i]?.map (ConfirmPoint.firedAt n) else d.ss.confirm[i]? := by
  have twice : ConfirmPoint.firedAt n ∘ ConfirmPoint.firedAt n = ConfirmPoint.firedAt n := by
    funext c; unfold Function.comp ConfirmPoint.firedAt; split <;> simp [*]
  induction l generalizing d with
  | nil => rfl
  | cons q l ih =>
    rw [List.foldl_cons, ih, firePointAt_point]
    by_cases here : confirmIndex q.1 q.2 = i
    · simp [here, twice]
    · simp only [if_neg here, List.map_cons, List.mem_cons, Ne.symm here, false_or]

theorem foldl_firePointAt_sweeps (n : Nat) {l : List (Nat × Nat)} (apart : (l.map fun q => confirmIndex q.1 q.2).Nodup) (d : Device) :
    (l.foldl (firePointAt n) d).ae.sweeps = d.ae.sweeps ++
      (l.filter fun q => d.ss.confirm[confirmIndex q.1 q.2]? == some (.setAt n)).map d.ae.confirmSweepOf := by
  induction l generalizing d with
  | nil => simp
  | cons q l ih =>
    rw [List.map_cons, List.nodup_cons] at apart
    have others : (l.filter fun r => (firePointAt n d q).ss.confirm[confirmIndex r.1 r.2]? == some (.setAt n)) =
        l.filter fun r => d.ss.confirm[confirmIndex r.1 r.2]? == some (.setAt n) :=
      List.filter_congr fun r hr => by
        have other : confirmIndex q.1 q.2 ≠ confirmIndex r.1 r.2 := fun same => apart.1 (same ▸ List.mem_map_of_mem hr)
        rw [firePointAt_point, if_neg other]
    rw [List.foldl_cons, ih apart.2, others, funext (firePointAt_sweepOf n d q)]
    by_cases set : d.ss.confirm[confirmIndex q.1 q.2]? = some (.setAt n)
    · rw [List.filter_cons_of_pos (by simpa using set), List.map_cons, List.append_cons, ← firePoint_sweeps_eq]
      unfold firePointAt; rw [if_pos set]
    · rw [List.filter_cons_of_neg (by simpa using set)]
      unfold firePointAt; rw [if_neg set]

theorem firePointsAt_all (n : Nat) (d : Device) : firePointsAt allSites n d = confirmPairs.foldl (firePointAt n) d := by
  have within : ∀ q ∈ confirmPairs, q.2 ∈ allSites := by decide
  rw [firePointsAt_eq]
  refine List.foldl_ext _ _ d fun b q hq => ?_
  simp only [within q hq, true_and]; rfl

/-- The confirm points of a minute: each of the twelve SET with it is FIRED, and their sweeps stand at the end of the list. -/
theorem firePointsAt_twelve {d : Device} (n : Nat) (twelve : d.ss.confirm.length = 12) : firePointsAt allSites n d = { d with
    ss.confirm := d.ss.confirm.map (ConfirmPoint.firedAt n)
    ae.sweeps := d.ae.sweeps ++
      (confirmPairs.filter fun q => d.ss.confirm[confirmIndex q.1 q.2]? == some (.setAt n)).map d.ae.confirmSweepOf } := by
  have places : (confirmPairs.map fun q => confirmIndex q.1 q.2) = List.range 12 := by decide
  have points : (firePointsAt allSites n d).ss.confirm = d.ss.confirm.map (ConfirmPoint.firedAt n) := by
    rw [firePointsAt_all]
    refine List.ext_getElem? fun i => ?_
    rw [foldl_firePointAt_point, places, List.getElem?_map]
    split
    · rfl
    · rename_i beyond
      rw [List.mem_range, ← twelve] at beyond
      rw [List.getElem?_eq_none (by omega)]; rfl
  have sweeps := foldl_firePointAt_sweeps n (l := confirmPairs) (by rw [places]; exact List.nodup_range) d
  rw [← firePointsAt_all] at sweeps
  rw [(firePointsAt_points allSites n (fun _ => True) d).1, points, sweeps]

theorem overSlots_nil {f : Nat → PlanSlot → Device → Device} {d : Device} (h : d.slots = []) : overSlots f d = d := by
  unfold overSlots; rw [h]; rfl

/-- With no slot to walk, the top of a minute fires the confirm points of the minute. -/
theorem topOfMinute_points {d : Device} {p : Nat} (valid : d.tb.validity = .valid) (today : d.tb.today = .plan p)
    (empty : (d.ss.plan p).active = []) (twelve : d.ss.confirm.length = 12) : topOfMinute d = { d with
      ss.confirm := d.ss.confirm.map (ConfirmPoint.firedAt d.minute)
      ae.sweeps := d.ae.sweeps ++
        (confirmPairs.filter fun q => d.ss.confirm[confirmIndex q.1 q.2]? == some (.setAt d.minute)).map d.ae.confirmSweepOf } := by
  have slots : d.slots = [] := by unfold Device.slots; rw [today]; exact empty
  have scanning : d.scanning = true := (scanning_iff d).2 ⟨valid, by rw [today]; exact nofun⟩
  rw [topOfMinute_scanning scanning, fireDue_eq, overSlots_nil slots]
  exact firePointsAt_twelve _ twelve

end Sys2Proof.Machine
end

section
/-! O25: a walk of one or two slots, step by step. -/
namespace Sys2Proof.Machine

/-! ### Nothing to do -/

theorem foldl_handClose_unset {n : Nat} (k m : Nat) (sites : List Nat) {d : Device} (h : d.Unset n) :
    (sites.foldl (fun acc s => handClose n k s m acc) d).Unset n :=
  foldl_inv (Device.Unset n) (fun acc s => handClose n k s m acc) (fun _ _ hb => handClose_unset hb _ _ _) sites d h

theorem Device.Unset.of_confirm {n : Nat} {d e : Device} (h : d.Unset n) (same : e.ss.confirm = d.ss.confirm) : e.Unset n := by
  unfold Device.Unset; rw [same]; exact h

theorem onSlot_confirm (i : Nat) (f : PlanSlot → PlanSlot) (d : Device) : (d.onSlot i f).ss.confirm = d.ss.confirm := by
  unfold Device.onSlot; split <;> rfl

theorem handEntry_unset {n : Nat} (e : PlanEntry) (sites : List Nat) {d : Device} (h : d.Unset n) : (handEntry n e sites d).Unset n := by
  unfold handEntry; split
  · exact h.of_confirm (by rw [startPattern_frame])
  · exact h.of_confirm (by rw [exchangeBanks_frame])
  · exact h
  · exact foldl_handClose_unset _ _ _ h

theorem fireSlot_unset {n : Nat} (i : Nat) (sl : PlanSlot) (sites : List Nat) {d : Device} (h : d.Unset n) :
    (fireSlot n i sl sites d).Unset n := by
  rw [fireSlot_eq]; exact handEntry_unset _ _ (h.of_confirm (onSlot_confirm _ _ _))

theorem catchSlot_unset {n : Nat} (i : Nat) (sl : PlanSlot) (sites : List Nat) {d : Device} (h : d.Unset n) :
    (catchSlot n i sl sites d).Unset n := by
  unfold catchSlot; split
  · exact h.of_confirm (onSlot_confirm _ _ _)
  all_goals exact fireSlot_unset _ _ _ h

theorem overSlots_unset {n : Nat} {f : Nat → PlanSlot → Device → Device} (hf : ∀ i sl b, b.Unset n → (f i sl b).Unset n) {d : Device}
    (h : d.Unset n) : (overSlots f d).Unset n := by
  refine foldl_inv (Device.Unset n) _ (fun b i hb => ?_) _ d h
  split
  · exact hb
  · exact hf _ _ _ hb

theorem fireDue_unset {n : Nat} (sites : List Nat) {d : Device} (h : d.Unset n) : (fireDue sites n d).Unset n :=
  overSlots_unset (f := dueStep sites n) (fun i sl b hb => by
    unfold dueStep; split
    · exact hb
    · exact fireSlot_unset _ _ _ hb) h

theorem catchUp_unset {n : Nat} (sites : List Nat) {d : Device} (h : d.Unset n) : (catchUp sites n d).Unset n :=
  overSlots_unset (f := behindStep sites n) (fun i sl b hb => by
    unfold behindStep; split
    · exact hb
    · exact catchSlot_unset _ _ _ hb) h

/-- Where no confirm point is SET, the top of a minute is its walk. -/
theorem topOfMinute_walk {d : Device} (scanning : d.scanning = true) (none : ∀ c ∈ d.ss.confirm, c = .notSet) :
    topOfMinute d = fireDue allSites d.minute d :=
  (topOfMinute_scanning scanning).trans (firePointsAt_unset (fireDue_unset _ (unset_of_none none _)) _)

/-- Where no confirm point is SET, a reassessment is its two walks. -/
theorem reassess_walks {d : Device} (scanning : d.scanning = true) (none : ∀ c ∈ d.ss.confirm, c = .notSet) (sites : List Nat) :
    reassess sites d = fireDue sites d.minute (catchUp sites d.minute d) := by
  rw [reassess_scanning scanning, pointsBehind_none none]
  exact firePointsAt_unset (fireDue_unset _ (catchUp_unset _ (unset_of_none none _))) _

/-- A walk that does nothing at the slots as they stand does nothing. -/
theorem overSlots_idle {f : Nat → PlanSlot → Device → Device} {d : Device} (h : ∀ i, ∀ sl ∈ d.slots, f i sl d = d) :
    overSlots f d = d := by
  refine List.foldl_fixed' (fun i => ?_) _
  split
  · rfl
  · rename_i sl here; exact h i sl (List.mem_of_getElem? here)

theorem dueSites_none {sites : List Nat} {n : Nat} {ss : Scanner} {sl : PlanSlot}
    (h : ∀ s ∈ sites, sl.isOpen s = true → ss.effective sl.entry.minute s ≠ n) : dueSites sites n ss sl = [] :=
  List.filter_eq_nil_iff.2 fun s hs => by simpa using h s hs

theorem behindSites_none {sites : List Nat} {n : Nat} {ss : Scanner} {sl : PlanSlot}
    (h : ∀ s ∈ sites, sl.isOpen s = true → n ≤ ss.effective sl.entry.minute s) : behindSites sites n ss sl = [] :=
  List.filter_eq_nil_iff.2 fun s hs => by simpa using h s hs

theorem fireDue_idle {sites : List Nat} {n : Nat} {d : Device}
    (h : ∀ sl ∈ d.slots, ∀ s ∈ sites, sl.isOpen s = true → d.ss.effective sl.entry.minute s ≠ n) : fireDue sites n d = d :=
  overSlots_idle fun _ sl hsl => dueStep_none (dueSites_none (h sl hsl))

theorem catchUp_idle {sites : List Nat} {n : Nat} {d : Device}
    (h : ∀ sl ∈ d.slots, ∀ s ∈ sites, sl.isOpen s = true → n ≤ d.ss.effective sl.entry.minute s) : catchUp sites n d = d :=
  overSlots_idle fun _ sl hsl => behindStep_none (behindSites_none (h sl hsl))

/-! ### A plan walked -/

/-- Today's plan is plan p, its active copy is l, and nothing is staged. -/
structure Device.Walks (p : Nat) (l : List PlanSlot) (d : Device) : Prop where
  pos : 1 ≤ p
  within : p ≤ d.ss.plans.length
  today : d.tb.today = .plan p
  plan : d.ss.plan p = ⟨l, [], false⟩

/-- Plan p's active copy is made l, with nothing staged. -/
def Device.withSlots (p : Nat) (l : List PlanSlot) (d : Device) : Device :=
  { d with ss.plans := d.ss.plans.set (p - 1) ⟨l, [], false⟩ }

section
variable {p : Nat} {l : List PlanSlot} {d : Device}

theorem Device.Walks.slots (h : d.Walks p l) : d.slots = l := by
  unfold Device.slots; rw [h.today]; dsimp only; rw [h.plan]

theorem Device.Walks.set (h : d.Walks p l) (m : List PlanSlot) : (d.withSlots p m).Walks p m where
  pos := h.pos
  within := by simpa [Device.withSlots] using h.within
  today := h.today
  plan := by
    have here : (d.withSlots p m).ss.plans = setNth d.ss.plans p ⟨m, [], false⟩ := (setNth_pos h.pos _ _).symm
    unfold Scanner.plan; rw [here]; exact nth_setNth_same _ _ _ _ h.pos h.within

theorem Device.Walks.of_plans (h : d.Walks p l) {e : Device} (plans : e.ss.plans = d.ss.plans) (tb : e.tb = d.tb) : e.Walks p l where
  pos := h.pos
  within := by rw [plans]; exact h.within
  today := by rw [tb]; exact h.today
  plan := by unfold Scanner.plan; rw [plans]; exact h.plan

theorem Device.Walks.onSlot (h : d.Walks p l) (i : Nat) (f : PlanSlot → PlanSlot) : d.onSlot i f = d.withSlots p (l.modify i f) := by
  unfold Device.onSlot; rw [h.today]; dsimp only; rw [h.plan, setNth_pos h.pos]; rfl

theorem Device.Walks.scanning (h : d.Walks p l) (valid : d.tb.validity = .valid) : d.scanning = true :=
  (scanning_iff d).2 ⟨valid, by rw [h.today]; exact nofun⟩

end

theorem overSlots_one {f : Nat → PlanSlot → Device → Device} {d : Device} {a : PlanSlot} (h : d.slots = [a]) :
    overSlots f d = f 0 a d := by
  unfold overSlots
  rw [h]
  show (match d.slots[0]? with | none => d | some sl => f 0 sl d) = _
  rw [h]; rfl

theorem overSlots_two {f : Nat → PlanSlot → Device → Device} {d e : Device} {a b x y : PlanSlot} (h : d.slots = [a, b])
    (first : f 0 a d = e) (second : e.slots = [x, y]) : overSlots f d = f 1 y e := by
  have taken : (match d.slots[0]? with | none => d | some sl => f 0 sl d) = e := by rw [h]; exact first
  unfold overSlots
  rw [h]
  show (match (match d.slots[0]? with | none => d | some sl => f 0 sl d).slots[1]? with
    | none => (match d.slots[0]? with | none => d | some sl => f 0 sl d)
    | some sl => f 1 sl (match d.slots[0]? with | none => d | some sl => f 0 sl d)) = _
  rw [taken, second]; rfl

end Sys2Proof.Machine
end

section
/-! O25: a plan of one RING of one site. -/
namespace Sys2Proof.Machine

/-- The slot of a RING of site 0 alone. -/
def bellSlot (m g i : Nat) (fired passed : SiteSet) : PlanSlot := ⟨⟨m, 1, .ring g i⟩, fired, passed⟩

section
variable {m g i : Nat} {fired passed : SiteSet}

theorem bellSlot_isOpen (s : Nat) : (bellSlot m g i fired passed).isOpen s = true ↔
    s = 0 ∧ fired.getLsbD 0 = false ∧ passed.getLsbD 0 = false := by
  have names : (bellSlot m g i fired passed).names s = true ↔ s = 0 := by
    show (siteBit 0).getLsbD s = true ↔ _
    rw [siteBit_getLsbD]; simp
  rw [isOpen_iff, names]
  constructor
  · rintro ⟨rfl, flags⟩; exact ⟨rfl, flags⟩
  · rintro ⟨rfl, flags⟩; exact ⟨rfl, flags⟩

theorem bellSlot_choose (h : fired.getLsbD 0 = false ∧ passed.getLsbD 0 = false) {choose : Nat → Bool} (chosen : choose 0 = true) :
    allSites.filter (fun s => (bellSlot m g i fired passed).isOpen s && choose s) = [0] := by
  have first : (bellSlot m g i fired passed).isOpen 0 = true := (bellSlot_isOpen 0).2 ⟨rfl, h⟩
  have other (s : Nat) (hs : s ≠ 0) : (bellSlot m g i fired passed).isOpen s = false := by
    rw [← Bool.not_eq_true, bellSlot_isOpen]; exact fun here => hs here.1
  simp [allSites, first, other, chosen]

variable {p : Nat} {d : Device}

/-- A RING of site 0 whose pair is not open, or not due, is let be. -/
theorem fireDue_bell_idle (walks : d.Walks p [bellSlot m g i fired passed])
    (h : fired.getLsbD 0 = false ∧ passed.getLsbD 0 = false → d.ss.effective m 0 ≠ d.minute) :
    fireDue allSites d.minute d = d := by
  refine fireDue_idle fun sl hsl s _ isOpen => ?_
  rw [walks.slots, List.mem_singleton] at hsl
  subst hsl
  obtain ⟨rfl, flags⟩ := (bellSlot_isOpen s).1 isOpen
  exact h flags

theorem catchUp_bell_idle (walks : d.Walks p [bellSlot m g i fired passed])
    (h : fired.getLsbD 0 = false ∧ passed.getLsbD 0 = false → d.minute ≤ d.ss.effective m 0) :
    catchUp allSites d.minute d = d := by
  refine catchUp_idle fun sl hsl s _ isOpen => ?_
  rw [walks.slots, List.mem_singleton] at hsl
  subst hsl
  obtain ⟨rfl, flags⟩ := (bellSlot_isOpen s).1 isOpen
  exact h flags

theorem fireDue_bell (walks : d.Walks p [bellSlot m g i fired passed]) (flags : fired.getLsbD 0 = false ∧ passed.getLsbD 0 = false)
    (due : d.ss.effective m 0 = d.minute) :
    fireDue allSites d.minute d = startPattern g i (d.withSlots p [bellSlot m g i (fired ||| 1) passed]) := by
  have sites : dueSites allSites d.minute d.ss (bellSlot m g i fired passed) = [0] :=
    bellSlot_choose flags (beq_iff_eq.2 due)
  rw [fireDue_eq, overSlots_one walks.slots, dueStep_some sites (by simp), fireSlot_eq, walks.onSlot]
  rfl

theorem catchUp_bell (walks : d.Walks p [bellSlot m g i fired passed]) (flags : fired.getLsbD 0 = false ∧ passed.getLsbD 0 = false)
    (behind : d.ss.effective m 0 < d.minute) :
    catchUp allSites d.minute d = d.withSlots p [bellSlot m g i fired (passed ||| 1)] := by
  have sites : behindSites allSites d.minute d.ss (bellSlot m g i fired passed) = [0] :=
    bellSlot_choose flags (decide_eq_true behind)
  rw [catchUp_eq, overSlots_one walks.slots, behindStep_some sites (by simp), catchSlot_ring rfl, walks.onSlot]
  rfl

/-- A RING of site 0 at the top of a minute and at a reassessment: due, not open, ahead, or behind. -/
theorem bell_rings (walks : d.Walks p [bellSlot m g i fired passed]) (valid : d.tb.validity = .valid)
    (none : ∀ c ∈ d.ss.confirm, c = .notSet) :
    let isOpen := fired.getLsbD 0 = false ∧ passed.getLsbD 0 = false
    let rung := startPattern g i (d.withSlots p [bellSlot m g i (fired ||| 1) passed])
    (isOpen → d.ss.effective m 0 = d.minute → topOfMinute d = rung ∧ reassess allSites d = rung) ∧
    (¬ isOpen → topOfMinute d = d ∧ reassess allSites d = d) ∧
    (isOpen → d.minute < d.ss.effective m 0 → topOfMinute d = d ∧ reassess allSites d = d) ∧
    (isOpen → d.ss.effective m 0 < d.minute → topOfMinute d = d ∧
      reassess allSites d = d.withSlots p [bellSlot m g i fired (passed ||| 1)]) := by
  rw [topOfMinute_walk (walks.scanning valid) none, reassess_walks (walks.scanning valid) none]
  refine ⟨fun flags due => ?_, fun shut => ?_, fun flags ahead => ?_, fun flags behind => ?_⟩
  · rw [catchUp_bell_idle walks fun _ => due.ge, fireDue_bell walks flags due]
    exact ⟨rfl, rfl⟩
  · rw [catchUp_bell_idle walks fun flags => absurd flags shut, fireDue_bell_idle walks fun flags => absurd flags shut]
    exact ⟨rfl, rfl⟩
  · rw [catchUp_bell_idle walks fun _ => ahead.le, fireDue_bell_idle walks fun _ => ahead.ne']
    exact ⟨rfl, rfl⟩
  · rw [fireDue_bell_idle walks fun _ => behind.ne, catchUp_bell walks flags behind]
    exact ⟨rfl, fireDue_bell_idle (walks.set _) fun _ => behind.ne⟩

end

end Sys2Proof.Machine
end

section
/-! O25: a plan of two entries, handed one after the other. -/
namespace Sys2Proof.Machine

/-! ### One entry -/

/-- The sites an entry names, in order. -/
def PlanEntry.named (e : PlanEntry) : List Nat := allSites.filter (e.sites.getLsbD ·)

theorem PlanEntry.withSites_named (e : PlanEntry) : withSites 0 e.named = e.sites := by
  refine BitVec.eq_of_getLsbD_eq fun t ht => ?_
  rw [withSites_getLsbD]
  have named : e.named.contains t = e.sites.getLsbD t := by
    rw [Bool.eq_iff_iff, List.contains_iff_mem, PlanEntry.named, List.mem_filter]
    exact and_iff_right (mem_allSites ht)
  rw [named]; simp [ht]

theorem PlanEntry.named_some {e : PlanEntry} (h : e.sites ≠ 0) : e.named ≠ [] := fun none =>
  h (by rw [← e.withSites_named, none]; rfl)

theorem open_slot (e : PlanEntry) (s : Nat) : (⟨e, 0, 0⟩ : PlanSlot).isOpen s = e.sites.getLsbD s := by
  simp [PlanSlot.isOpen, PlanSlot.names]

theorem dueSites_named {e : PlanEntry} {n : Nat} {ss : Scanner} (h : ∀ s, s ≤ 2 → ss.effective e.minute s = n) :
    dueSites allSites n ss ⟨e, 0, 0⟩ = e.named :=
  List.filter_congr fun s hs => by
    have within := mem_sites hs
    rw [open_slot, h s (by omega)]; simp

theorem behindSites_named {e : PlanEntry} {n : Nat} {ss : Scanner} (h : ∀ s, s ≤ 2 → ss.effective e.minute s < n) :
    behindSites allSites n ss ⟨e, 0, 0⟩ = e.named :=
  List.filter_congr fun s hs => by
    have within := mem_sites hs
    rw [open_slot, decide_eq_true (h s (by omega)), Bool.and_true]

/-- A handing leaves the plans, the site settings and the clock. -/
theorem handEntry_leaves (n : Nat) (e : PlanEntry) (sites : List Nat) (d : Device) : (handEntry n e sites d).ss.plans = d.ss.plans ∧
    (handEntry n e sites d).ss.sites = d.ss.sites ∧ (handEntry n e sites d).tb = d.tb := by
  unfold handEntry; split
  · rw [startPattern_frame]; exact ⟨rfl, rfl, rfl⟩
  · rw [exchangeBanks_frame]; exact ⟨rfl, rfl, rfl⟩
  · exact ⟨rfl, rfl, rfl⟩
  · obtain ⟨frame, -⟩ := points_fold _ (fun _ => True) sites (fun b s _ =>
      ⟨handClose_points _ _ _ _ _, (handClose_sweeps _ _ _ _ _).mono fun _ _ => trivial⟩) d
    rw [frame]
    exact ⟨rfl, rfl, rfl⟩

theorem effective_of_sites {a b : Scanner} (h : a.sites = b.sites) (m s : Nat) : a.effective m s = b.effective m s := by
  unfold Scanner.effective Scanner.site; rw [h]

/-! ### Two entries -/

/-- Slots of two entries, fired for some sites. -/
def twoSlots (x y : PlanEntry) (f q : SiteSet) : List PlanSlot := [⟨x, f, 0⟩, ⟨y, q, 0⟩]

/-- Both entries handed in plan order, each as its slot is fired. -/
def handBoth (p : Nat) (x y : PlanEntry) (d : Device) : Device :=
  handEntry d.minute y y.named ((handEntry d.minute x x.named (d.withSlots p (twoSlots x y x.sites 0))).withSlots p
    (twoSlots x y x.sites y.sites))

section
variable {p : Nat} {x y : PlanEntry} {d : Device}

/-- A walk that fires each of two entries, as the sites' settings stand, hands both. -/
theorem overSlots_handBoth {step : Nat → PlanSlot → Device → Device} (walks : d.Walks p (twoSlots x y 0 0))
    (fires : ∀ i, ∀ e ∈ [x, y], ∀ b : Device, b.ss.sites = d.ss.sites → step i ⟨e, 0, 0⟩ b = fireSlot d.minute i ⟨e, 0, 0⟩ e.named b) :
    overSlots step d = handBoth p x y d := by
  have flag (e : PlanEntry) : PlanSlot.firedOn e.named ⟨e, 0, 0⟩ = ⟨e, e.sites, 0⟩ := by
    unfold PlanSlot.firedOn; rw [e.withSites_named]
  obtain ⟨plans, sites, tb⟩ := handEntry_leaves d.minute x x.named (d.withSlots p (twoSlots x y x.sites 0))
  have first : step 0 ⟨x, 0, 0⟩ d = handEntry d.minute x x.named (d.withSlots p (twoSlots x y x.sites 0)) := by
    rw [fires 0 x (by simp) d rfl, fireSlot_eq, walks.onSlot]
    show handEntry _ x _ (d.withSlots p [PlanSlot.firedOn x.named ⟨x, 0, 0⟩, ⟨y, 0, 0⟩]) = _
    rw [flag]; rfl
  have second := (walks.set (twoSlots x y x.sites 0)).of_plans plans tb
  rw [overSlots_two walks.slots first second.slots, fires 1 y (by simp) _ sites, fireSlot_eq, second.onSlot]
  show handEntry _ y _ (Device.withSlots p [⟨x, x.sites, 0⟩, PlanSlot.firedOn y.named ⟨y, 0, 0⟩] _) = _
  rw [flag]; rfl

theorem handBoth_walks (walks : d.Walks p (twoSlots x y 0 0)) : (handBoth p x y d).Walks p (twoSlots x y x.sites y.sites) ∧
    (handBoth p x y d).ss.sites = d.ss.sites := by
  obtain ⟨plans, sites, tb⟩ := handEntry_leaves d.minute x x.named (d.withSlots p (twoSlots x y x.sites 0))
  obtain ⟨plans', sites', tb'⟩ := handEntry_leaves d.minute y y.named
    ((handEntry d.minute x x.named (d.withSlots p (twoSlots x y x.sites 0))).withSlots p (twoSlots x y x.sites y.sites))
  have second := (walks.set (twoSlots x y x.sites 0)).of_plans plans tb
  exact ⟨(second.set _).of_plans plans' tb', sites'.trans sites⟩

section
variable (hx : x.sites ≠ 0) (hy : y.sites ≠ 0)
include hx hy

theorem fireDue_two (walks : d.Walks p (twoSlots x y 0 0))
    (due : ∀ s, s ≤ 2 → d.ss.effective x.minute s = d.minute ∧ d.ss.effective y.minute s = d.minute) :
    fireDue allSites d.minute d = handBoth p x y d := by
  refine overSlots_handBoth (step := dueStep allSites d.minute) walks fun i e he b hb => ?_
  have named : e.named ≠ [] ∧ ∀ s, s ≤ 2 → d.ss.effective e.minute s = d.minute := by
    obtain rfl | rfl : e = x ∨ e = y := by simpa using he
    · exact ⟨PlanEntry.named_some hx, fun s hs => (due s hs).1⟩
    · exact ⟨PlanEntry.named_some hy, fun s hs => (due s hs).2⟩
  exact dueStep_some (dueSites_named fun s hs => (effective_of_sites hb _ _).trans (named.2 s hs)) named.1

theorem catchUp_two (walks : d.Walks p (twoSlots x y 0 0))
    (behind : ∀ s, s ≤ 2 → d.ss.effective x.minute s < d.minute ∧ d.ss.effective y.minute s < d.minute)
    (silent : ∀ g i, x.action ≠ .ring g i ∧ y.action ≠ .ring g i) :
    catchUp allSites d.minute d = handBoth p x y d := by
  refine overSlots_handBoth (step := behindStep allSites d.minute) walks fun i e he b hb => ?_
  have named : e.named ≠ [] ∧ (∀ s, s ≤ 2 → d.ss.effective e.minute s < d.minute) ∧ ∀ g k, e.action ≠ .ring g k := by
    obtain rfl | rfl : e = x ∨ e = y := by simpa using he
    · exact ⟨PlanEntry.named_some hx, fun s hs => (behind s hs).1, fun g k => (silent g k).1⟩
    · exact ⟨PlanEntry.named_some hy, fun s hs => (behind s hs).2, fun g k => (silent g k).2⟩
  obtain ⟨some, early, quiet⟩ := named
  rw [behindStep_some (behindSites_named fun s hs => by rw [effective_of_sites hb]; exact early s hs) some, catchSlot_other quiet]

end

/-- Two entries whose minutes are behind are not due. -/
theorem fireDue_two_idle {f q : SiteSet} {n : Nat} (walks : d.Walks p (twoSlots x y f q))
    (behind : ∀ s, s ≤ 2 → d.ss.effective x.minute s < n ∧ d.ss.effective y.minute s < n) :
    fireDue allSites n d = d := by
  refine fireDue_idle fun sl hsl s hs _ => ?_
  have within := mem_sites hs
  obtain ⟨hx, hy⟩ := behind s (by omega)
  rw [walks.slots] at hsl
  obtain rfl | rfl : sl = ⟨x, f, 0⟩ ∨ sl = ⟨y, q, 0⟩ := by simpa [twoSlots] using hsl
  · exact hx.ne
  · exact hy.ne

end

/-- Two entries are handed in plan order, at the top of their minute or when caught up. -/
theorem two_handed {p : Nat} {x y : PlanEntry} {d : Device} (walks : d.Walks p (twoSlots x y 0 0)) (valid : d.tb.validity = .valid)
    (none : ∀ c ∈ d.ss.confirm, c = .notSet) (hx : x.sites ≠ 0) (hy : y.sites ≠ 0) :
    ((∀ s, s ≤ 2 → d.ss.effective x.minute s = d.minute ∧ d.ss.effective y.minute s = d.minute) → topOfMinute d = handBoth p x y d) ∧
    ((∀ s, s ≤ 2 → d.ss.effective x.minute s < d.minute ∧ d.ss.effective y.minute s < d.minute) →
      (∀ g i, x.action ≠ .ring g i ∧ y.action ≠ .ring g i) → topOfMinute d = d ∧ reassess allSites d = handBoth p x y d) := by
  rw [topOfMinute_walk (walks.scanning valid) none, reassess_walks (walks.scanning valid) none]
  refine ⟨fireDue_two hx hy walks, fun behind silent => ⟨fireDue_two_idle walks behind, ?_⟩⟩
  obtain ⟨after, sites⟩ := handBoth_walks walks
  rw [catchUp_two hx hy walks behind silent]
  exact fireDue_two_idle after fun s hs => by rw [effective_of_sites sites, effective_of_sites sites]; exact behind s hs

/-! ### The obligation -/

/-- Settles O25: each walk by its slots, the confirm points by their pairs; the scanner's walk is any account's that agrees with it. -/
theorem bellsRingAtTheirEffectiveMinute : Obligations.BellsRingAtTheirEffectiveMinute := by
  refine ⟨fun ss m site => ⟨effective_below, effective_within, effective_above⟩, ?_, ?_, fun d sites still => ?_, ?_,
    fun d n k site m => ⟨handClose_ahead, handClose_past⟩,
    fun _ _ valid today empty twelve => topOfMinute_points valid today empty twelve⟩
  · intro d p m g i fired passed pos within valid today none plan isOpen slot
    exact bell_rings ⟨pos, within, today, plan⟩ valid none
  · intro d p x y pos within valid today none hx hy two hand stands
    have plan : d.ss.plan p = ⟨twoSlots x y 0 0, [], false⟩ := by
      unfold Scanner.plan
      rw [stands]
      show nth (d.ss.plans.set (p - 1) _) p _ = _
      rw [← setNth_pos pos, nth_setNth_same _ _ _ _ pos within]; rfl
    have handed : ∀ e a, hand e a = handEntry d.minute e e.named a := fun e a => by
      simp only [hand, handEntry]; cases e.action <;> rfl
    simp only [handed]
    exact two_handed ⟨pos, within, today, plan⟩ valid none hx hy
  · refine ⟨topOfMinute_still (still.imp_left fun h => ?_), reassess_still still sites⟩
    cases validity : d.tb.validity with
    | valid => exact absurd validity h
    | invalid => rfl
  · intro d p sites pos valid today n pairs slots setTo mark fire walk point confirm minute overdue caught
    have scanning : d.scanning = true := (scanning_iff d).2 ⟨valid, by rw [today]; exact nofun⟩
    have same : ∀ b, b.tb.today = .plan p → slots b = b.slots := fun b hb => (slots_eq hb).symm
    have fires : ∀ i l sl b, b.tb.today = .plan p → fire i l sl b = fireSlot n i sl l b := fun i l sl b hb => by
      rw [fireSlot_eq, onSlot_eq pos hb]
      simp only [fire, handEntry]
      cases sl.entry.action <;> rfl
    have catches : ∀ i l sl b, b.tb.today = .plan p → caught i l sl b = catchSlot n i sl l b := fun i l sl b hb => by
      unfold catchSlot
      rw [onSlot_eq pos hb, ← fires i l sl b hb]
      simp only [caught]
      cases sl.entry.action <;> rfl
    have confirms : confirm = fun q b => firePoint q.1 q.2 b := by
      funext q b; exact (firePoint_eq q b).symm
    have ends : ∀ on b, b.tb.today = .plan p → minute on b = firePointsAt on n (fireDue on n b) := fun on b hb => by
      have walked : walk on (· = n) fire b = fireDue on n b :=
        overSlots_choosing same fires (fun _ _ _ _ => fireSlot_tb _ _ _ _ _) hb
      simp only [minute]
      rw [walked, firePointsAt_eq, confirms]; rfl
    have first : overdue.foldl (fun a q => confirm q a) d =
        ((pointsBehind sites n d.ss).map (·.2)).foldl (fun acc q => firePoint q.1 q.2 acc) d := by
      rw [behind_eq, confirms]; rfl
    have todays : (overdue.foldl (fun a q => confirm q a) d).tb.today = .plan p := by
      rw [first, foldl_firePoint_tb]; exact today
    have walked : walk sites (· < n) caught (overdue.foldl (fun a q => confirm q a) d) =
        catchUp sites n (overdue.foldl (fun a q => confirm q a) d) :=
      overSlots_choosing same catches (fun _ _ _ _ => catchSlot_tb _ _ _ _ _) todays
    refine ⟨(topOfMinute_scanning scanning).trans (ends _ d today).symm, ?_⟩
    rw [walked, ends _ _ (by rw [catchUp_tb]; exact todays), first]
    exact reassess_scanning scanning sites

end Sys2Proof.Machine
end


section
/-! O28, O29: the queries of the roll, and DROP_PUPIL, LOAD_GROUP and CLEAR_TALLIES (R44, R45, R50, R53, R54). -/
namespace Sys2Proof.Machine

/-! ### The checks the requests of the roll share -/

theorem badRoll_iff (n : Nat) : badRoll n = true ↔ n = 0 ∨ 2400 < n := by
  simp only [badRoll, Bool.or_eq_true, beq_iff_eq, decide_eq_true_eq]; rfl
theorem badRoll_within {n : Nat} (h1 : 1 ≤ n) (h2 : n ≤ 2400) : badRoll n = false :=
  Bool.eq_false_iff.2 fun bad => by have := (badRoll_iff n).1 bad; omega
theorem key_nonzero {n : Nat} (h : 1 ≤ n) : (n == 0) = false := by simpa using Nat.ne_of_gt h

section
variable {d : Device} {bad : Bool} {l : List (Bool × Result)} {t : Answer × Device}

/-- With its operands in range, a request during a rollover is refused BUSY. -/
theorem checked_busy (h : bad = false) (active : d.tb.rollover.isSome = true) :
    checked d ((bad, .range) :: (d.rolling, .busy) :: l) t = refuse .busy d := by
  rw [checked_passes h, checked_fails (rolling_active active)]
/-- With its operands in range and no rollover ACTIVE, a request goes on to its other checks. -/
theorem checked_steady (h : bad = false) (idle : d.tb.rollover = none) :
    checked d ((bad, .range) :: (d.rolling, .busy) :: l) t = checked d l t := by
  rw [checked_passes h, checked_passes (rolling_idle idle)]

end

/-! ### The queries -/

/-- The member found is the first that passes. -/
theorem find?_of_first {α : Type} {p : α → Bool} {l : List α} {i : Nat} {a : α} (ha : l[i]? = some a) (pass : p a = true)
    (first : ∀ j b, j < i → l[j]? = some b → p b = false) : l.find? p = some a := by
  obtain ⟨within, rfl⟩ := List.getElem?_eq_some_iff.1 ha
  refine List.find?_eq_some_iff_getElem.2 ⟨pass, i, within, rfl, fun j hj => ?_⟩
  rw [first j _ hj (List.getElem?_eq_getElem _)]; rfl

section
variable {d : Device} {n : Nat}

theorem serveQueryPupil_range (h : badRoll n = true) : serveQueryPupil n d = refuse .range d := by
  unfold serveQueryPupil; split <;> exact checked_fails h
theorem serveQueryPupil_none (h1 : 1 ≤ n) (h2 : n ≤ 2400) (idle : d.tb.rollover = none)
    (none : d.ae.pupils.find? (n ≤ ·.roll) = none) : serveQueryPupil n d = refuse .notFound d := by
  unfold serveQueryPupil; rw [none]; exact checked_steady (badRoll_within h1 h2) idle
theorem serveQueryPupil_found {p : Pupil} (h1 : 1 ≤ n) (h2 : n ≤ 2400) (idle : d.tb.rollover = none)
    (found : d.ae.pupils.find? (n ≤ ·.roll) = some p) :
    serveQueryPupil n d = (ok (.pupil p (p.slots.map d.ae.slotReply) d.ae.pupils.length), d) := by
  unfold serveQueryPupil; rw [found]; exact checked_steady (badRoll_within h1 h2) idle

theorem serveQueryCard_zero : serveQueryCard 0 d = refuse .range d := by
  unfold serveQueryCard; split <;> exact checked_fails rfl
theorem serveQueryCard_none (h : 1 ≤ n) (idle : d.tb.rollover = none) (none : d.ae.cardHolder n = none) :
    serveQueryCard n d = refuse .notFound d := by
  unfold serveQueryCard; rw [none]; exact checked_steady (key_nonzero h) idle
theorem serveQueryCard_found {p : Pupil} (h : 1 ≤ n) (idle : d.tb.rollover = none) (found : d.ae.cardHolder n = some p) :
    serveQueryCard n d = (ok (.rollNumber p.roll), d) := by
  unfold serveQueryCard; rw [found]; exact checked_steady (key_nonzero h) idle

theorem serveQueryContact_zero : serveQueryContact 0 d = refuse .range d := by
  unfold serveQueryContact; split <;> exact checked_fails rfl
theorem serveQueryContact_none (h : 1 ≤ n) (idle : d.tb.rollover = none) (none : d.ae.contactOf n = none) :
    serveQueryContact n d = refuse .notFound d := by
  unfold serveQueryContact; rw [none]; exact checked_steady (key_nonzero h) idle
theorem serveQueryContact_found {c : Contact} (h : 1 ≤ n) (idle : d.tb.rollover = none) (found : d.ae.contactOf n = some c) :
    serveQueryContact n d = (ok (.contact c), d) := by
  unfold serveQueryContact; rw [found]; exact checked_steady (key_nonzero h) idle

theorem serveQueryContacts_none (idle : d.tb.rollover = none) (none : ∀ c ∈ d.ae.contacts, c.key < n) :
    serveQueryContacts n d = refuse .notFound d := by
  unfold serveQueryContacts
  rw [checked_passes (rolling_idle idle), checked_fails ?_]
  rw [List.isEmpty_iff, List.filter_eq_nil_iff]
  intro c hc
  have := none c hc
  rw [decide_eq_true_eq]; omega
theorem serveQueryContacts_found (idle : d.tb.rollover = none) (some : ∃ c ∈ d.ae.contacts, n ≤ c.key) : serveQueryContacts n d =
    (ok (.contacts ((d.ae.contacts.filter fun c => decide (n ≤ c.key)).take 16) d.ae.contacts.length), d) := by
  unfold serveQueryContacts
  rw [checked_passes (rolling_idle idle), checked_passes ?_]
  · rfl
  · obtain ⟨c, hc, hn⟩ := some
    exact Bool.eq_false_iff.2 fun empty =>
      List.filter_eq_nil_iff.1 (List.isEmpty_iff.1 empty) c hc (decide_eq_true hn)

theorem serveQueryGroup_range (h : 15 < n) : serveQueryGroup n d = refuse .range d := checked_fails (decide_eq_true h)
theorem serveQueryGroup_found {l : List (Option DuePoint)} (h : n ≤ 15) (idle : d.tb.rollover = none) (found : d.ae.groups[n]? = some l) :
    serveQueryGroup n d = (ok (.group l), d) := by
  unfold serveQueryGroup
  rw [checked_steady (decide_eq_false (Nat.not_lt.2 h)) idle, List.getD_eq_getElem?_getD, found]; rfl

end

/-- Settles O28: each query makes its range check and the rollover's, and answers with what its table holds. -/
theorem rollIsRead : Obligations.RollIsRead := by
  refine ⟨fun ae n => ⟨rfl, rfl, rfl, rfl⟩, fun s tag n ⟨ready, idle⟩ => ?_⟩
  intro ae
  have pupil : exec (.queryPupil tag n) s = answers s tag 20 (serveQueryPupil n s.dev).1 (serveQueryPupil n s.dev).2 :=
    act_request_ready ready
  have card : exec (.queryCard tag n) s = answers s tag 21 (serveQueryCard n s.dev).1 (serveQueryCard n s.dev).2 :=
    act_request_ready ready
  have contact : exec (.queryContact tag n) s = answers s tag 24 (serveQueryContact n s.dev).1 (serveQueryContact n s.dev).2 :=
    act_request_ready ready
  have contacts : exec (.queryContacts tag n) s = answers s tag 25 (serveQueryContacts n s.dev).1 (serveQueryContacts n s.dev).2 :=
    act_request_ready ready
  have group : exec (.queryGroup tag n) s = answers s tag 27 (serveQueryGroup n s.dev).1 (serveQueryGroup n s.dev).2 :=
    act_request_ready ready
  rw [pupil, card, contact, contacts, group]
  refine ⟨fun bad => ?_, fun h1 h2 none => ?_, fun i p h1 h2 hp from' before => ?_, ?_, fun h none => ?_, fun p h found => ?_,
    fun h none => ?_, fun c h found => ?_, fun none => ?_, fun some => ?_, fun h => ?_, fun l h found => ?_⟩
  · rw [serveQueryPupil_range ((badRoll_iff n).2 bad)]; rfl
  · rw [serveQueryPupil_none h1 h2 idle (List.find?_eq_none.2 fun p hp => by simpa using none p hp)]; rfl
  · rw [serveQueryPupil_found h1 h2 idle (find?_of_first hp (decide_eq_true from') fun j q hj hq => by simpa using before j q hj hq)]
    rfl
  · rintro rfl
    rw [serveQueryCard_zero, serveQueryContact_zero]
    exact ⟨rfl, rfl⟩
  · rw [serveQueryCard_none h idle (List.find?_eq_none.2 fun p hp => by simpa using none p hp)]; rfl
  · rw [serveQueryCard_found h idle found]
  · rw [serveQueryContact_none h idle none]; rfl
  · rw [serveQueryContact_found h idle found]
  · rw [serveQueryContacts_none idle none]; rfl
  · rw [serveQueryContacts_found idle some]
  · rw [serveQueryGroup_range h]; rfl
  · rw [serveQueryGroup_found h idle found]

/-! ### DROP_PUPIL -/

theorem serveDropPupil_range {roll : Nat} {d : Device} (h : roll = 0 ∨ 2400 < roll) : serveDropPupil roll d = refuse .range d :=
  checked_fails ((badRoll_iff roll).2 h)
theorem serveDropPupil_busy {roll : Nat} {d : Device} (h1 : 1 ≤ roll) (h2 : roll ≤ 2400) (active : d.tb.rollover.isSome = true) :
    serveDropPupil roll d = refuse .busy d := checked_busy (badRoll_within h1 h2) active
theorem serveDropPupil_steady {roll : Nat} {d : Device} (h1 : 1 ≤ roll) (h2 : roll ≤ 2400) (idle : d.tb.rollover = none) :
    serveDropPupil roll d = checked d [((d.ae.pupil roll).isNone, .notFound)] (ok .empty, d.onAe (·.dropPupil roll)) :=
  checked_steady (badRoll_within h1 h2) idle

/-! ### LOAD_GROUP -/

/-- What a start group entry sent is: NOT_DUE, or a point 1..4 of a site 0..2. -/
theorem groupEntry_none_iff (e : GroupEntryOp) : groupEntry e = none ↔
    ¬ (e.point = 0 ∧ e.site = 0) ∧ ¬ (1 ≤ e.point ∧ e.point ≤ 4 ∧ e.site ≤ 2) := by
  unfold groupEntry; split_ifs <;> simp_all
theorem groupEntry_value {e : GroupEntryOp} {v : Option DuePoint} (h : groupEntry e = some v) :
    v = if e.point = 0 then none else some ⟨e.point, e.site⟩ := by
  unfold groupEntry at h
  split at h
  · rename_i free
    rw [if_pos free.1]; exact (Option.some.inj h).symm
  · split at h
    · rename_i due
      rw [if_neg (by omega)]; exact (Option.some.inj h).symm
    · cases h

theorem groupEntries_value {l : List GroupEntryOp} {m : List (Option DuePoint)} (h : decodeAll groupEntry l = some m) :
    m = l.map fun e => if e.point = 0 then none else some ⟨e.point, e.site⟩ := by
  have values := decodeAll_some h
  refine List.map_injective_iff.2 (Option.some_injective _) (values.symm.trans ?_)
  rw [List.map_map]
  refine List.map_congr_left fun e he => ?_
  cases v : groupEntry e with
  | none => rw [(decodeAll_none _ _).2 ⟨e, he, v⟩] at h; cases h
  | some q => rw [groupEntry_value v]; rfl

theorem serveLoadGroup_range {group : Nat} {entries : List GroupEntryOp} {d : Device}
    (h : 15 < group ∨ ∃ e ∈ entries, groupEntry e = none) : serveLoadGroup group entries d = refuse .range d := by
  unfold serveLoadGroup
  rcases h with high | bad
  · split
    · rfl
    · exact checked_fails (decide_eq_true high)
  · rw [(decodeAll_none _ _).2 bad]
theorem serveLoadGroup_taken {group : Nat} {entries : List GroupEntryOp} {d : Device} (h : group ≤ 15)
    (good : ∀ e ∈ entries, groupEntry e ≠ none) (idle : d.tb.rollover = none) : serveLoadGroup group entries d = (ok .empty, { d with
      ae.groups := d.ae.groups.set group (entries.map fun e => if e.point = 0 then none else some ⟨e.point, e.site⟩) }) := by
  unfold serveLoadGroup
  cases decoded : decodeAll groupEntry entries with
  | none =>
    obtain ⟨e, he, bad⟩ := (decodeAll_none _ _).1 decoded
    exact absurd bad (good e he)
  | some l =>
    rw [← groupEntries_value decoded]
    exact checked_steady (decide_eq_false (Nat.not_lt.2 h)) idle

/-! ### CLEAR_TALLIES -/

/-- The three bits of a choice of tallies. -/
theorem tallyCleared_eq {choice : Nat} (h : choice < 8) (p : Pupil) : p.tallyCleared (BitVec.ofNat 3 choice) = { p with
    latePoints := if choice % 2 = 1 then 0 else p.latePoints
    lateMinutes := if choice / 2 % 2 = 1 then 0 else p.lateMinutes
    unexplainedDays := if choice / 4 = 1 then 0 else p.unexplainedDays } := by
  unfold Pupil.tallyCleared
  interval_cases choice <;> rfl

theorem serveClearTallies_range {roll choice : Nat} {d : Device} (h : 2400 < roll ∨ choice = 0 ∨ 8 ≤ choice) :
    serveClearTallies roll choice d = refuse .range d := by
  refine checked_fails ?_
  simp only [fitsMask, Bool.or_eq_true, decide_eq_true_eq, beq_iff_eq, Bool.not_eq_true', decide_eq_false_iff_not]
  simp only [Config.maxRoll]; omega
/-- CLEAR_TALLIES with its operands in range and no rollover ACTIVE. -/
theorem serveClearTallies_steady {roll choice : Nat} {d : Device} (h1 : roll ≤ 2400) (h2 : 1 ≤ choice) (h3 : choice < 8)
    (idle : d.tb.rollover = none) : serveClearTallies roll choice d =
      checked d [(roll != 0 && (d.ae.pupil roll).isNone, .notFound)]
        (ok (.recordCount (d.ae.pupils.filter fun p => roll == 0 || p.roll == roll).length),
         d.onAe fun ae => { ae with pupils := ae.pupils.map fun p =>
           if (roll == 0 || p.roll == roll) = true then p.tallyCleared (BitVec.ofNat 3 choice) else p }) := by
  refine checked_steady ?_ idle
  simp only [fitsMask, Bool.or_eq_false_iff, decide_eq_false_iff_not, beq_eq_false_iff_ne, Bool.not_eq_false', decide_eq_true_eq]
  simp only [Config.maxRoll]; omega

/-- Settles O29: the checks in order, and what each request writes once it is taken. -/
theorem pupilTablesAreWritten : Obligations.PupilTablesAreWritten := by
  refine ⟨fun s tag roll ready => ?_, fun s tag group entries ⟨ready, idle⟩ => ?_, fun s tag roll choice ⟨ready, idle⟩ => ?_⟩
  · intro drop
    have hdrop : drop = answers s tag 19 (serveDropPupil roll s.dev).1 (serveDropPupil roll s.dev).2 := act_request_ready ready
    rw [hdrop]
    refine ⟨fun bad => ?_, fun h1 h2 active => ?_, fun h1 h2 idle unheld => ?_, fun h1 h2 idle held => ?_⟩
    · rw [serveDropPupil_range bad]; rfl
    · rw [serveDropPupil_busy h1 h2 active]; rfl
    · rw [serveDropPupil_steady h1 h2 idle, checked_fails (by rw [unheld]; rfl)]; rfl
    · rw [serveDropPupil_steady h1 h2 idle, checked_passes (Option.isNone_eq_false_iff.2 held)]; rfl
  · intro bad
    have hload : exec (.loadGroup tag group entries) s =
        answers s tag 26 (serveLoadGroup group entries s.dev).1 (serveLoadGroup group entries s.dev).2 := act_request_ready ready
    rw [hload]
    refine ⟨fun h => ?_, fun h good => ?_⟩
    · rw [serveLoadGroup_range (by simpa only [groupEntry_none_iff] using h)]; rfl
    · rw [serveLoadGroup_taken h (fun e he => mt (groupEntry_none_iff e).1 (good e he)) idle]
  · intro clear cleared
    have hclear : clear = answers s tag 28 (serveClearTallies roll choice s.dev).1 (serveClearTallies roll choice s.dev).2 :=
      act_request_ready ready
    rw [hclear]
    refine ⟨fun bad => by rw [serveClearTallies_range bad]; rfl, fun h2 h3 => ?_⟩
    have clears (p : Pupil) : p.tallyCleared (BitVec.ofNat 3 choice) = cleared p := tallyCleared_eq h3 p
    refine ⟨fun h0 h1 unheld => ?_, fun h0 h1 held => ?_, fun all => ?_⟩
    · rw [serveClearTallies_steady h1 h2 h3 idle, checked_fails (by rw [unheld]; simpa using Nat.ne_of_gt h0)]; rfl
    · rw [serveClearTallies_steady h1 h2 h3 idle, checked_passes (by rw [Option.isNone_eq_false_iff.2 held, Bool.and_false])]
      simp only [key_nonzero h0, Bool.false_or, beq_iff_eq, clears]; rfl
    · subst all
      rw [serveClearTallies_steady (by omega) h2 h3 idle, checked_passes (b := 0 != 0 && _) rfl]
      simp only [BEq.rfl, Bool.true_or, if_true, clears, List.filter_true]; rfl

end Sys2Proof.Machine
end

section
/-! O26: LOAD_PUPIL (R41 to R43). -/
namespace Sys2Proof.Machine

/-! ### The checks -/

section
variable {d : Device} {b : Bool} {P : Prop} {r : Result} {l : List (Bool × Result)} {t : Answer × Device}

/-- A check that tests P refuses where P holds. -/
theorem checked_fails_of (test : b = true ↔ P) (h : P) : checked d ((b, r) :: l) t = refuse r d := checked_fails (test.2 h)
/-- A check that tests P passes where P fails. -/
theorem checked_passes_of (test : b = true ↔ P) (h : ¬ P) : checked d ((b, r) :: l) t = checked d l t :=
  checked_passes (Bool.eq_false_iff.2 (mt test.1 h))

end

theorem pupilOutside_iff (roll cohort group : Nat) (card : Option Nat) :
    (badRoll roll || cohort == 0 || 7 < cohort || 15 < group || card == some 0 : Bool) = true ↔
      roll = 0 ∨ 2400 < roll ∨ cohort = 0 ∨ 7 < cohort ∨ 15 < group ∨ card = some 0 := by
  simp only [Bool.or_eq_true, badRoll_iff, beq_iff_eq, decide_eq_true_eq, or_assoc]

theorem unheldKeys_iff (ae : Attendance) (keys : List Nat) :
    (keys.any fun k => (ae.contactOf k).isNone) = true ↔ ∃ k ∈ keys, ae.contactOf k = none := by
  simp only [List.any_eq_true, Option.isNone_iff_eq_none]

theorem cardTaken_iff (ae : Attendance) (roll : Nat) (card : Option Nat) : ae.cardTaken roll card = true ↔
    ∃ n p, card = some n ∧ p ∈ ae.pupils ∧ p.card = some n ∧ p.roll ≠ roll := by
  unfold Attendance.cardTaken
  cases card with
  | none => simp
  | some n =>
    simp only [List.any_eq_true, Bool.and_eq_true, beq_iff_eq, bne_iff_ne]
    exact ⟨fun ⟨p, hp, taken⟩ => ⟨n, p, rfl, hp, taken⟩, by rintro ⟨_, p, ⟨⟩, hp, taken⟩; exact ⟨p, hp, taken⟩⟩

theorem pupilDouble_iff (ae : Attendance) (roll : Nat) (card : Option Nat) (keys : List Nat) :
    (hasRepeat keys || ae.cardTaken roll card) = true ↔
      ¬ keys.Nodup ∨ ∃ n p, card = some n ∧ p ∈ ae.pupils ∧ p.card = some n ∧ p.roll ≠ roll := by
  rw [Bool.or_eq_true, hasRepeat_iff, cardTaken_iff]

theorem slotFull_iff (ae : Attendance) (roll key : Nat) : ae.slotFull roll key = true ↔
    ∃ c, ae.contactOf key = some c ∧ 6 ≤ c.pupils.length ∧ roll ∉ c.pupils := by
  unfold Attendance.slotFull
  cases ae.contactOf key with
  | none => simp
  | some c =>
    simp only [Bool.and_eq_true, decide_eq_true_eq, Bool.not_eq_true', List.contains_eq_mem, decide_eq_false_iff_not, Option.some.injEq,
      exists_eq_left']
    rfl

theorem fullKeys_iff (ae : Attendance) (roll : Nat) (keys : List Nat) : keys.any (ae.slotFull roll) = true ↔
    ∃ k ∈ keys, ∃ c, ae.contactOf k = some c ∧ 6 ≤ c.pupils.length ∧ roll ∉ c.pupils := by
  simp only [List.any_eq_true, slotFull_iff]

/-! ### What is written -/

theorem linkContacts_eq (roll : Nat) (named : List Nat) (ae : Attendance) : ae.linkContacts roll named = { ae with
    contacts := ae.contacts.map fun c =>
      if c.index ∈ named then (if roll ∈ c.pupils then c else { c with pupils := c.pupils ++ [roll] })
      else { c with pupils := c.pupils.filter fun r => r != roll } } := by
  simp only [Attendance.linkContacts, Contact.linked, List.contains_iff_mem]

section
variable {ae : Attendance} {roll : Nat} {card : Option Nat} {cohort group grace : Nat} {slots : List (Option Nat)}

/-- A pupil held keeps the tallies, and the contacts' lists follow the slots. -/
theorem loadPupil_held {p : Pupil} (held : ae.pupil roll = some p) :
    ae.loadPupil (ae.loadedPupil roll card cohort group grace slots) = Attendance.linkContacts roll
      ((slots.map ae.slotIndex).filterMap id) { ae with
        pupils := putPupil ⟨roll, card, cohort, group, min 30 grace, slots.map ae.slotIndex,
          p.latePoints, p.lateMinutes, p.unexplainedDays⟩
          ae.pupils } := by
  unfold Attendance.loadPupil Attendance.loadedPupil; rw [held]; dsimp only; rw [held]; rfl
/-- A new pupil has no tallies yet, and gets an entry in a roster that is held. -/
theorem loadPupil_new (new : ae.pupil roll = none) :
    ae.loadPupil (ae.loadedPupil roll card cohort group grace slots) = Attendance.addEntry roll (Attendance.linkContacts roll
      ((slots.map ae.slotIndex).filterMap id) { ae with
        pupils := putPupil ⟨roll, card, cohort, group, min 30 grace, slots.map ae.slotIndex, 0, 0, 0⟩ ae.pupils }) := by
  unfold Attendance.loadPupil Attendance.loadedPupil; rw [new]; dsimp only; rw [new]; rfl

end

/-- Settles O26: the checks in order, and the two cases of a request taken, by whether the pupil is held. -/
theorem loadPupilKeepsTheLinks : Obligations.LoadPupilKeepsTheLinks := by
  intro s tag roll card cohort group grace slots ready load ae keys outside unheld double full index named fresh linked
  have hload : load = answers s tag 18 (serveLoadPupil roll card cohort group grace slots s.dev).1
    (serveLoadPupil roll card cohort group grace slots s.dev).2 := act_request_ready ready
  unfold serveLoadPupil at hload
  have inRange := pupilOutside_iff roll cohort group card
  have known := unheldKeys_iff ae keys
  have single := pupilDouble_iff ae roll card keys
  have room := fullKeys_iff ae roll keys
  refine ⟨fun bad => hload.trans ?_, fun good active => hload.trans ?_, fun good idle => ?_⟩
  · rw [checked_fails_of inRange bad]; rfl
  · rw [checked_passes_of inRange good, checked_fails (rolling_active active)]; rfl
  rw [checked_passes_of inRange good, checked_passes (rolling_idle idle)] at hload
  refine ⟨fun bad => hload.trans ?_, fun k bad => hload.trans ?_, fun k o bad => hload.trans ?_, fun k o f => ?_⟩
  · rw [checked_fails_of known bad]; rfl
  · rw [checked_passes_of known k, checked_fails_of single bad]; rfl
  · rw [checked_passes_of known k, checked_passes_of single o, checked_fails_of room bad]; rfl
  rw [checked_passes_of known k, checked_passes_of single o, checked_passes_of room f, checked_nil] at hload
  refine ⟨fun p held => ⟨putPupil _ ae.pupils, hload.trans ?_, fun q => mem_putPupil _ q _⟩,
    fun new => ⟨putPupil fresh ae.pupils, (ae.addEntry roll).roster, hload.trans ?_, fun q => mem_putPupil _ q _, Option.isSome_map,
      fun old l hold hl e => ?_⟩⟩
  · unfold Device.onAe
    dsimp only
    rw [loadPupil_held (ae := s.dev.ae) held, linkContacts_eq]; rfl
  · unfold Device.onAe
    dsimp only
    rw [loadPupil_new (ae := s.dev.ae) new, linkContacts_eq]; rfl
  · unfold Attendance.addEntry at hl
    rw [hold] at hl
    obtain rfl := Option.some.inj hl
    exact mem_insertBefore _ _ _ _

end Sys2Proof.Machine
end

section
/-! O27: LOAD_CONTACT and DROP_CONTACT (R46 to R49). -/
namespace Sys2Proof.Machine

/-! ### The checks of LOAD_CONTACT -/

theorem contactOutside_iff (key : Nat) (pupils : List Nat) :
    (key == 0 || pupils.isEmpty || Config.maxListed < pupils.length || pupils.any badRoll : Bool) = true ↔
      key = 0 ∨ pupils = [] ∨ 6 < pupils.length ∨ ∃ r ∈ pupils, r = 0 ∨ 2400 < r := by
  simp only [Bool.or_eq_true, beq_iff_eq, List.isEmpty_iff, decide_eq_true_eq, List.any_eq_true, badRoll_iff, or_assoc]; rfl

theorem unheldPupils_iff (ae : Attendance) (pupils : List Nat) :
    (pupils.any fun r => (ae.pupil r).isNone) = true ↔ ∃ r ∈ pupils, ae.pupil r = none := by
  simp only [List.any_eq_true, Option.isNone_iff_eq_none]

/-- A pupil held cannot name a contact when no slot is free and none names it. -/
theorem canName_false_iff (ae : Attendance) (key roll : Nat) : ae.canName key roll = false ↔ ae.pupil roll = none ∨
    ∃ p, ae.pupil roll = some p ∧ none ∉ p.slots ∧ ∀ c, ae.contactOf key = some c → some c.index ∉ p.slots := by
  unfold Attendance.canName
  cases ae.pupil roll with
  | none => simp
  | some p => cases ae.contactOf key <;> simp

/-- No index is left for a new contact, or some pupil has no slot for it. -/
theorem contactFull_iff {ae : Attendance} {pupils : List Nat} (held : ¬ ∃ r ∈ pupils, ae.pupil r = none) (key : Nat) :
    ((ae.contactOf key).isNone && Config.maxContacts ≤ ae.contacts.length || !pupils.all (ae.canName key) : Bool) = true ↔
      ae.contactOf key = none ∧ 4096 ≤ ae.contacts.length ∨ ∃ r ∈ pupils, ∃ p, ae.pupil r = some p ∧ none ∉ p.slots ∧
        ∀ c, ae.contactOf key = some c → some c.index ∉ p.slots := by
  have cannot : pupils.all (ae.canName key) = false ↔ ∃ r ∈ pupils, ∃ p, ae.pupil r = some p ∧ none ∉ p.slots ∧
      ∀ c, ae.contactOf key = some c → some c.index ∉ p.slots := by
    simp only [List.all_eq_false, Bool.not_eq_true, canName_false_iff]
    exact exists_congr fun r => and_congr_right fun hr => or_iff_right fun unheld => held ⟨r, hr, unheld⟩
  rw [Bool.or_eq_true, Bool.and_eq_true, Option.isNone_iff_eq_none, decide_eq_true_eq, Bool.not_eq_true', cannot]; rfl

/-! ### The index and the records -/

theorem indexFor_held {ae : Attendance} {key : Nat} {c : Contact} (h : ae.contactOf key = some c) : ae.indexFor key = c.index := by
  unfold Attendance.indexFor; rw [h]

/-- A new key is given the lowest index that no contact has. -/
theorem indexFor_lowest {ae : Attendance} {key : Nat} (new : ae.contactOf key = none) (room : ae.contacts.length < 4096) :
    1 ≤ ae.indexFor key ∧ ae.indexFor key ≤ 4096 ∧ (∀ c ∈ ae.contacts, c.index ≠ ae.indexFor key) ∧
      ∀ j, 1 ≤ j → j < ae.indexFor key → ∃ c ∈ ae.contacts, c.index = j := by
  obtain ⟨k, few, found, free, below⟩ := firstFree_free (limit := Config.maxContacts) (ae.contacts.map (·.index)) 1
    (by rw [List.length_map]; exact room)
  have tried (j : Nat) (hj : j ≤ k) : tryAt Config.maxContacts 1 j = 1 + j := by
    rw [List.length_map] at few
    exact if_pos (show j ≤ 4096 - 1 by omega)
  have index : ae.indexFor key = 1 + k := by
    unfold Attendance.indexFor; rw [new]
    rw [List.length_map, tried k le_rfl] at found
    exact found
  rw [List.length_map] at few
  rw [tried k le_rfl] at free
  rw [index]
  refine ⟨by omega, by omega, fun c hc same => free (same ▸ List.mem_map_of_mem hc), fun j h1 hj => ?_⟩
  have taken := below (j - 1) (by omega)
  rw [tried _ (by omega), Nat.add_sub_cancel' h1] at taken
  exact List.mem_map.1 taken

theorem putContact_ascends (c : Contact) {l : List Contact} (h : l.Pairwise (·.key < ·.key)) :
    (putContact c l).Pairwise (·.key < ·.key) := by
  have others : c.key ∉ (l.filter (·.key != c.key)).map (·.key) := by
    simp only [List.mem_map, List.mem_filter, bne_iff_ne, not_exists, not_and]
    exact fun q hq => hq.2
  exact List.pairwise_map.1 (ascending_insert (g := Contact.key) (List.pairwise_map.2 (h.filter _)) others)

theorem relinked_listed (index : Nat) (pupils : List Nat) (p : Pupil) : p.relinked index (pupils.contains p.roll) =
    if p.roll ∈ pupils then
      (if some index ∈ p.slots then p else { p with slots := p.slots.set (p.slots.findIdx (· == none)) (some index) })
    else { p with slots := p.slots.map fun v => if v = some index then none else v } := by
  simp only [Pupil.relinked, List.contains_iff_mem]

/-! ### The requests -/

/-- LOAD_CONTACT with the flags of its table: its checks, and what it writes. -/
theorem serveLoadContact_of (key : Nat) (excuse notify : Bool) (pupils : List Nat) (d : Device) :
    serveLoadContact key (if excuse then 1 else 0) (if notify then 1 else 0) pupils d = checked d
      [(key == 0 || pupils.isEmpty || Config.maxListed < pupils.length || pupils.any badRoll, .range), (d.rolling, .busy),
       (pupils.any fun r => (d.ae.pupil r).isNone, .notFound), (hasRepeat pupils, .duplicate),
       ((d.ae.contactOf key).isNone && Config.maxContacts ≤ d.ae.contacts.length || !pupils.all (d.ae.canName key), .full)]
      (ok (.contactIndex (d.ae.indexFor key)), d.onAe (·.loadContact ⟨d.ae.indexFor key, key, excuse, notify, pupils⟩)) := by
  unfold serveLoadContact; rw [flagCode_of, flagCode_of]

theorem serveLoadContact_flags {key excuse notify : Nat} {pupils : List Nat} {d : Device} (h : 1 < excuse ∨ 1 < notify) :
    serveLoadContact key excuse notify pupils d = refuse .range d := by
  unfold serveLoadContact
  split
  · rename_i e n he hn
    rcases h with high | high
    · rw [flagCode_none high] at he; cases he
    · rw [flagCode_none high] at hn; cases hn
  · rfl

theorem serveDropContact_zero {d : Device} : serveDropContact 0 d = refuse .range d := by
  unfold serveDropContact; split <;> exact checked_fails rfl
theorem serveDropContact_none {key : Nat} {d : Device} (h : 1 ≤ key) (idle : d.tb.rollover = none) (none : d.ae.contactOf key = none) :
    serveDropContact key d = refuse .notFound d := by
  unfold serveDropContact; rw [none]; exact checked_steady (key_nonzero h) idle
theorem serveDropContact_taken {key : Nat} {d : Device} {c : Contact} (h : 1 ≤ key) (idle : d.tb.rollover = none)
    (found : d.ae.contactOf key = some c) : serveDropContact key d = (ok .empty, { d with
      ae.contacts := d.ae.contacts.filter fun q => q.key != key
      ae.pupils := d.ae.pupils.map fun p => { p with slots := p.slots.map fun v => if v = some c.index then none else v }
      ae.excuses := d.ae.excuses.map fun x => if x.source = .contact c.index then { x with source := .contact 0 } else x }) := by
  obtain ⟨-, rfl⟩ := contactOf_key found
  unfold serveDropContact; rw [found]; exact checked_steady (key_nonzero h) idle

/-- Settles O27: the checks in order, the index by whether the key is held, and both sides of each link as they are written. -/
theorem contactsKeepBothSides : Obligations.ContactsKeepBothSides := by
  refine ⟨fun s tag key excuse notify pupils ⟨ready, idle⟩ => ?_, fun s tag key ⟨ready, idle⟩ => ?_,
    fun s tag key excuse notify pupils ready high => ?_⟩
  · intro load ae outside unheld full
    have hload : load = answers s tag 22
        (serveLoadContact key (if excuse then 1 else 0) (if notify then 1 else 0) pupils s.dev).1
        (serveLoadContact key (if excuse then 1 else 0) (if notify then 1 else 0) pupils s.dev).2 := act_request_ready ready
    rw [serveLoadContact_of] at hload
    have inRange := contactOutside_iff key pupils
    have known := unheldPupils_iff ae pupils
    have single := hasRepeat_iff pupils
    refine ⟨fun bad => hload.trans ?_, fun good bad => hload.trans ?_, fun good k bad => hload.trans ?_,
      fun good k o bad => hload.trans ?_, fun good k o f => ?_⟩
    · rw [checked_fails_of inRange bad]; rfl
    · rw [checked_passes_of inRange good, checked_passes (rolling_idle idle), checked_fails_of known bad]; rfl
    · rw [checked_passes_of inRange good, checked_passes (rolling_idle idle), checked_passes_of known k, checked_fails_of single bad]
      rfl
    · rw [checked_passes_of inRange good, checked_passes (rolling_idle idle), checked_passes_of known k,
        checked_passes_of single (not_not.2 o), checked_fails_of (contactFull_iff k key) bad]; rfl
    rw [checked_passes_of inRange good, checked_passes (rolling_idle idle), checked_passes_of known k,
      checked_passes_of single (not_not.2 o), checked_passes_of (contactFull_iff k key) f, checked_nil] at hload
    refine ⟨ae.indexFor key, _, fun c held => indexFor_held held, fun new => indexFor_lowest new ?_,
      fun c => mem_putContact ⟨ae.indexFor key, key, excuse, notify, pupils⟩ c ae.contacts, putContact_ascends _, hload.trans ?_⟩
    · exact Nat.lt_of_not_le fun many => f (.inl ⟨new, many⟩)
    · unfold Device.onAe Attendance.loadContact
      simp only [relinked_listed]; rfl
  · have hdrop : exec (.dropContact tag key) s =
        answers s tag 23 (serveDropContact key s.dev).1 (serveDropContact key s.dev).2 := act_request_ready ready
    rw [hdrop]
    refine ⟨?_, fun h none => ?_, fun c h found => ?_⟩
    · rintro rfl
      rw [serveDropContact_zero]; rfl
    · rw [serveDropContact_none h idle none]; rfl
    · rw [serveDropContact_taken h idle found]
  · have hload : exec (.loadContact tag key excuse notify pupils) s = answers s tag 22
        (serveLoadContact key excuse notify pupils s.dev).1 (serveLoadContact key excuse notify pupils s.dev).2 :=
      act_request_ready ready
    rw [hload, serveLoadContact_flags high]; rfl

end Sys2Proof.Machine
end

section
/-! O42: what an outcome, a reply or an escalation does with a notice, case by case (R67, R68, R110 to R112, R116, R117, R125). -/
namespace Sys2Proof.Machine

/-! ### The desk call list -/

/-- e goes on to the device out with an entry of the URGENT class in the desk call list, at the end of its group, or with CALLS_FULL
where the list is full. -/
def CalledTo (reason : CallReason) (content : CallContent) (e out : Device) : Prop :=
  (128 ≤ e.nu.calls.length → out = e.raise .callsFull) ∧
  (e.nu.calls.length < 128 → ∃ number next : Nat, out = ({ e with
    nu.nextCall := next
    nu.calls := e.nu.calls.filter (·.urgent) ++
      ⟨number, reason, true, e.tb.second, e.tb.date, content⟩ :: e.nu.calls.filter (!·.urgent) } : Device).raise .calls)

theorem addCall_calledTo (reason : CallReason) (content : CallContent) (e : Device) :
    CalledTo reason content e (addCall reason true content e) := by
  refine ⟨fun full => if_pos (decide_eq_true full), fun room => ⟨_, _, if_neg (mt of_decide_eq_true ?_)⟩⟩
  exact Nat.not_le.2 room

/-- A notice goes to the desk under the URGENT class but for a QUEUE_FULL one of another class. -/
theorem toCalls_calledTo {reason : CallReason} {n : Notice} (urgent : reason.urgentFor n = true) (outcome : Option NoticeOutcome)
    (e : Device) : CalledTo reason (.notice { n with kept := none } outcome false) e (toCalls reason outcome n e) := by
  unfold toCalls; rw [urgent]; exact addCall_calledTo _ _ _

theorem addCall_onAe (reason : CallReason) (urgent : Bool) (content : CallContent) (f : Attendance → Attendance) (d : Device) :
    (addCall reason urgent content d).onAe f = addCall reason urgent content (d.onAe f) := by
  unfold addCall
  have same : (d.onAe f).callsFull = d.callsFull := rfl
  rw [same]; split <;> rfl
theorem submit_onAe (n : Notice) (f : Attendance → Attendance) (d : Device) : (submit n d).onAe f = submit n (d.onAe f) := by
  unfold submit
  have same : (d.onAe f).nu.queueCount = d.nu.queueCount := rfl
  rw [same]; split
  · rfl
  · exact addCall_onAe _ _ _ _ _

theorem submit_urgent_room {n : Notice} {d : Device} (urgent : n.cls = .urgent) (room : d.nu.queueCount < 256) :
    submit n d = { d with nu.urgent := d.nu.urgent ++ [n] } := by
  unfold submit NoticeUnit.enqueue; rw [urgent]; exact if_pos (decide_eq_true room)
theorem submit_urgent_full {n : Notice} {d : Device} (urgent : n.cls = .urgent) (full : 256 ≤ d.nu.queueCount) :
    submit n d = toCalls .queueFull none n d := by
  unfold submit; rw [urgent]; exact if_neg (mt of_decide_eq_true (Nat.not_lt.2 full))

/-! ### Closing, and a reply -/

theorem closeCalled_ae (n : Notice) (r : CalledReason) (d : Device) : (closeCalled n r d).ae = d.ae := by
  unfold closeCalled; split <;> rfl
theorem closeCalled_calls (n : Notice) (r : CalledReason) (d : Device) : (closeCalled n r d).nu.calls = d.nu.calls := by
  unfold closeCalled; split <;> rfl

/-- The pupil's entry holds the notice's tag and stands in UNEXPLAINED. -/
def Attendance.Waits (ae : Attendance) (n : Notice) : Prop :=
  ∃ e, ae.entry n.pupil = some e ∧ e.absenceTag = some n.tag ∧ e.state = .unexplained

theorem stillWanted_iff (n : Notice) (d : Device) : d.stillWanted n = true ↔ d.ae.Waits n := by
  unfold Device.stillWanted Attendance.Waits
  cases d.ae.entry n.pupil <;> simp

theorem addressee_of {ae : Attendance} {n : Notice} {c : Contact} (found : ae.contactAt n.contact = some c) (key : c.key = n.key) :
    ae.addressee n = some c := by
  unfold Attendance.addressee; rw [found]; simp [key]
theorem addressee_found {ae : Attendance} {n : Notice} {c : Contact} (h : ae.addressee n = some c) :
    ae.contactAt n.contact = some c ∧ c.key = n.key := by
  simpa [Attendance.addressee, Option.filter_eq_some_iff] using h

section
variable {n : Notice} {code : Nat} {d : Device}

theorem takeReplyCode_nothing (h : ¬ d.ae.Waits n ∨ code = 0 ∨ 3 < code) : takeReplyCode n code d = d := by
  unfold takeReplyCode
  rcases h with unwanted | other
  · rw [if_neg (mt (stillWanted_iff n d).1 unwanted)]
  · rw [if_neg (show ¬ (code = 1 ∨ code = 2) by omega), if_neg (show code ≠ 3 by omega), ite_self]

theorem takeReplyCode_explains {c : Contact} (waits : d.ae.Waits n) (excuses : code = 1 ∨ code = 2)
    (found : d.ae.contactAt n.contact = some c) (key : c.key = n.key) (may : c.mayExcuse = true) : takeReplyCode n code d = { d with
      ae.roster := d.ae.roster.map fun l => l.map fun e => if e.roll = n.pupil then { e with state := .explained } else e } := by
  unfold takeReplyCode
  rw [if_pos ((stillWanted_iff n d).2 waits), if_pos excuses, addressee_of found key]
  simp only [may, if_true, Device.onAe, Attendance.onEntry, beq_iff_eq]

theorem takeReplyCode_unheard (excuses : code = 1 ∨ code = 2)
    (may : ∀ c, d.ae.contactAt n.contact = some c → c.key = n.key → c.mayExcuse = false) : takeReplyCode n code d = d := by
  unfold takeReplyCode
  rw [if_pos excuses]
  split
  · split
    · rename_i c found
      obtain ⟨held, key⟩ := addressee_found found
      rw [may c held key]; rfl
    · rfl
  · rfl

/-- A parent who does not know of the absence is a call for the desk. -/
theorem takeReplyCode_calledTo (waits : d.ae.Waits n) (unaware : code = 3) :
    CalledTo .parentUnaware (.parentUnaware n.pupil n.tag) d (takeReplyCode n code d) := by
  unfold takeReplyCode
  rw [if_pos ((stillWanted_iff n d).2 waits), if_neg (by omega), if_pos unaware]
  exact addCall_calledTo _ _ _

end

/-! ### UNREACHABLE -/

/-- The device whose next tag has been given to the notice that follows n: the tag counter is past it, and the entry that holds
the tag of an ABSENT_UNEXPLAINED n holds the new one. -/
def Device.tagPassedOn (n : Notice) (d : Device) : Device := { d with
  nu.nextTag := if 65535 ≤ d.freeTag then 1 else d.freeTag + 1
  ae.roster := if n.body = .absentUnexplained then d.ae.roster.map fun l => l.map fun e =>
      if e.roll = n.pupil ∧ e.absenceTag = some n.tag then { e with absenceTag := some d.freeTag } else e
    else d.ae.roster }

theorem retag_tagGiven {n : Notice} {d : Device} (absent : n.body = .absentUnexplained) :
    retag n.pupil n.tag d.freeTag (d.tagGiven d.freeTag) = d.tagPassedOn n := by
  simp only [retag, Device.tagPassedOn, if_pos absent, Device.onAe, Attendance.onEntry, beq_iff_eq, ite_and]; rfl

section
variable {n : Notice} {d : Device}

theorem unreachable_unwanted (absent : n.body = .absentUnexplained) (unwanted : ¬ d.ae.Waits n) : unreachable n d = d :=
  if_pos ⟨absent, by rw [Bool.eq_false_iff.2 (mt (stillWanted_iff n d).1 unwanted)]; rfl⟩
theorem unreachable_old (other : n.body ≠ .absentUnexplained) (old : n.subjectDay < d.tb.date) :
    CalledTo .unreachableAll (.notice { n with kept := none } none false) d (unreachable n d) := by
  have desk : unreachable n d = toCalls .unreachableAll none n d := (if_neg fun h => other h.1).trans (if_pos ⟨other, old⟩)
  rw [desk]; exact toCalls_calledTo rfl _ _

section
variable (wanted : n.body = .absentUnexplained → d.ae.Waits n) (today : n.body ≠ .absentUnexplained → d.tb.date ≤ n.subjectDay)

include wanted in
theorem not_unwanted : ¬ (n.body = .absentUnexplained ∧ (!d.stillWanted n) = true) := fun ⟨absent, unwanted⟩ => by
  rw [(stillWanted_iff n d).2 (wanted absent)] at unwanted; cases unwanted
include today in
theorem not_old : ¬ (n.body ≠ .absentUnexplained ∧ n.subjectDay < d.tb.date) := fun ⟨other, old⟩ =>
  Nat.not_lt.2 (today other) old

include wanted today

theorem unreachable_last (none : d.ae.notifiable n.pupil n.step = none) :
    CalledTo .unreachableAll (.notice { n with kept := .none } (some .unreachable) false) d (unreachable n d) := by
  unfold unreachable
  rw [if_neg (not_unwanted wanted), if_neg (not_old today), none]
  exact toCalls_calledTo rfl _ _

variable {k : Nat} {c : Contact} (next : d.ae.notifiable n.pupil n.step = some (k, c))
include next

/-- An escalation asks for the notice that follows, to the next contact. -/
theorem unreachable_escalates : unreachable n d =
    submit ⟨d.freeTag, n.body, n.pupil, c.index, c.key, k, n.subjectDay, d.tb.second, 0, none⟩ (d.tagPassedOn n) := by
  unfold unreachable compose Device.newNotice
  rw [if_neg (not_unwanted wanted), if_neg (not_old today), next]
  dsimp only
  split
  · rename_i absent
    rw [← retag_tagGiven absent]
    exact submit_onAe _ _ _
  · rename_i other
    unfold Device.tagPassedOn; rw [if_neg other]; rfl

variable (urgent : n.body.cls = .urgent)
include urgent

theorem unreachable_room (room : d.nu.queueCount < 256) : unreachable n d = { d.tagPassedOn n with nu.urgent :=
    d.nu.urgent ++ [⟨d.freeTag, n.body, n.pupil, c.index, c.key, k, n.subjectDay, d.tb.second, 0, none⟩] } := by
  rw [unreachable_escalates wanted today next]
  exact submit_urgent_room urgent room

theorem unreachable_full (full : 256 ≤ d.nu.queueCount) : CalledTo .queueFull
    (.notice ⟨d.freeTag, n.body, n.pupil, c.index, c.key, k, n.subjectDay, d.tb.second, 0, none⟩ none false)
    (d.tagPassedOn n) (unreachable n d) := by
  rw [unreachable_escalates wanted today next, submit_urgent_full (by exact urgent) (by exact full)]
  exact toCalls_calledTo (n := ⟨d.freeTag, n.body, n.pupil, c.index, c.key, k, n.subjectDay, d.tb.second, 0, none⟩)
    (by simp [CallReason.urgentFor, Notice.cls, urgent]) none _

end

end

end Sys2Proof.Machine
end

section
/-! O42: an outcome by where its notice stands, receipts, deadlines and the relay-down fallback (R112, R115, R116, R118, R119). -/
namespace Sys2Proof.Machine

/-! ### An inbound outcome -/

theorem outcomeCode_none {value : Nat} (h : value = 0 ∨ 3 < value) (code : Nat) : outcomeCode value code = none := by
  unfold outcomeCode; split
  · omega
  · omega
  · omega
  · rfl
theorem outcomeCode_of {value code : Nat} {o : NoticeOutcome}
    (h : value = 1 ∧ o = .delivered ∨ value = 2 ∧ o = .replied code ∨ value = 3 ∧ o = .unreachable) :
    outcomeCode value code = some o := by
  rcases h with ⟨rfl, rfl⟩ | ⟨rfl, rfl⟩ | ⟨rfl, rfl⟩ <;> rfl

section
variable {tag value code : Nat} {d : Device}

theorem takeOutcome_unknown (h : value = 0 ∨ 3 < value) : takeOutcome tag value code d = d := by
  unfold takeOutcome; rw [outcomeCode_none h]

variable {o : NoticeOutcome}

theorem takeOutcome_awaited {w : Awaiting} (known : outcomeCode value code = some o) (found : d.nu.awaitingOf tag = some w) :
    takeOutcome tag value code d = outcomeActs o w.notice (leaveAwaiting tag d) := by
  unfold takeOutcome; rw [known]; dsimp only; rw [found]

/-- The outcome of a notice that awaits none goes by the ring and the desk call list. -/
theorem takeOutcome_unawaited (known : outcomeCode value code = some o) (none : d.nu.awaitingOf tag = none) :
    takeOutcome tag value code d =
      if d.rl.ring.any (·.notice.tag == tag) then
        { d with rl.ring := d.rl.ring.map fun r => if r.notice.tag == tag then { r with notice.kept := some o } else r }
      else if d.nu.calls.any (CallEntry.holdsTag tag) then touchCall tag (CallEntry.withOutcome o) d else d := by
  unfold takeOutcome; rw [known]; dsimp only; rw [none]

theorem takeOutcome_ring (known : outcomeCode value code = some o) (none : d.nu.awaitingOf tag = none)
    (found : ∃ r ∈ d.rl.ring, r.notice.tag = tag) : takeOutcome tag value code d = { d with
      rl.ring := d.rl.ring.map fun r => if r.notice.tag = tag then { r with notice.kept := some o } else r } := by
  have ringed : d.rl.ring.any (·.notice.tag == tag) = true := by simpa using found
  rw [takeOutcome_unawaited known none, if_pos ringed]
  simp only [beq_iff_eq]

theorem takeOutcome_calls (known : outcomeCode value code = some o) (none : d.nu.awaitingOf tag = none)
    (unringed : ∀ r ∈ d.rl.ring, r.notice.tag ≠ tag) (found : ∃ e ∈ d.nu.calls, e.holdsTag tag = true) :
    takeOutcome tag value code d = touchCall tag (CallEntry.withOutcome o) d := by
  have absent : ¬ d.rl.ring.any (·.notice.tag == tag) = true := by simpa using unringed
  rw [takeOutcome_unawaited known none, if_neg absent, if_pos (List.any_eq_true.2 found)]

theorem takeOutcome_nowhere (known : outcomeCode value code = some o) (none : d.nu.awaitingOf tag = none)
    (unringed : ∀ r ∈ d.rl.ring, r.notice.tag ≠ tag) (uncalled : ∀ e ∈ d.nu.calls, e.holdsTag tag = false) :
    takeOutcome tag value code d = d := by
  have absent : ¬ d.rl.ring.any (·.notice.tag == tag) = true := by simpa using unringed
  have called : ¬ d.nu.calls.any (CallEntry.holdsTag tag) = true := by simpa using uncalled
  rw [takeOutcome_unawaited known none, if_neg absent, if_neg called]

end

/-! ### Receipts and deadlines -/

section
variable {n : Notice} {d : Device}

theorem receipt_other (h : n.cls ≠ .urgent) : receipt n d = d := by
  unfold receipt; split
  · rfl
  · rfl
  · rename_i urgent; exact absurd urgent h
theorem receipt_kept {o : NoticeOutcome} (urgent : n.cls = .urgent) (kept : n.kept = some o) :
    receipt n d = outcomeActs o { n with kept := none } d := by
  unfold receipt; rw [urgent]; dsimp only; rw [kept]
theorem receipt_awaits (urgent : n.cls = .urgent) (kept : n.kept = none) (room : d.nu.awaiting.length < 192) :
    receipt n d = { d with nu.awaiting := d.nu.awaiting ++ [⟨n, 60 * d.nu.outcomeTimeout⟩] } := by
  unfold receipt; rw [urgent]; dsimp only; rw [kept, Nat.mul_comm]; exact if_pos room
theorem receipt_untracked (urgent : n.cls = .urgent) (kept : n.kept = none) (full : 192 ≤ d.nu.awaiting.length) :
    receipt n d = closeCalled n .sentUntracked d := by
  unfold receipt; rw [urgent]; dsimp only; rw [kept]; exact if_neg (Nat.not_lt.2 full)

end

section
variable {tag : Nat} {d : Device}

theorem outcomeTimedOut_none (h : d.nu.awaitingOf tag = none) : outcomeTimedOut tag d = d := by unfold outcomeTimedOut; rw [h]

variable {w : Awaiting}

/-- The notice is no longer wanted exactly when it is an absence notice whose pupil's entry does not wait for it. -/
theorem unwanted_iff (n : Notice) (d : Device) : n.body = .absentUnexplained ∧ (!d.stillWanted n) = true ↔
    ¬ (n.body ≠ .absentUnexplained ∨ d.ae.Waits n) := by
  rw [Bool.not_eq_true', ← Bool.not_eq_true, stillWanted_iff]; tauto

theorem outcomeTimedOut_unwanted (h : d.nu.awaitingOf tag = some w)
    (unwanted : ¬ (w.notice.body ≠ .absentUnexplained ∨ d.ae.Waits w.notice)) : outcomeTimedOut tag d = leaveAwaiting tag d := by
  unfold outcomeTimedOut; rw [h]; exact if_pos ((unwanted_iff _ _).2 unwanted)
theorem outcomeTimedOut_wanted (h : d.nu.awaitingOf tag = some w)
    (wanted : w.notice.body ≠ .absentUnexplained ∨ d.ae.Waits w.notice) :
    outcomeTimedOut tag d = toCalls .noOutcome none w.notice (leaveAwaiting tag d) := by
  unfold outcomeTimedOut; rw [h]; exact if_neg fun h => (unwanted_iff _ _).1 h wanted

/-! ### The relay-down fallback -/

theorem fallbackDue_still (h : d.rl.link = .up ∨ ∀ n ∈ d.nu.urgent, n.tag ≠ tag) : fallbackDue tag d = d := by
  unfold fallbackDue
  rcases h with up | absent
  · rw [if_pos up]
  · rw [List.find?_eq_none.2 fun n hn => by simpa using absent n hn]; exact ite_self _

theorem fallbackDue_falls {n : Notice} (down : d.rl.link ≠ .up) (found : d.nu.urgent.find? (·.tag == tag) = some n) :
    fallbackDue tag d =
      toCalls .relayDown none { n with age := max n.age (60 * d.nu.fallbackDelay) } (leaveQueue tag d) := by
  have same : n.tag = tag := by simpa using List.find?_some found
  unfold fallbackDue NoticeUnit.fallbackSeconds
  rw [if_neg down, found, Nat.mul_comm]
  subst same; rfl

end

/-- A move to the desk leaves the queue, the fan-out, the awaiting-outcome table and the Attendance Engine. -/
theorem toCalls_leaves (reason : CallReason) (outcome : Option NoticeOutcome) (n : Notice) (d : Device) :
    (toCalls reason outcome n d).nu.queueCount = d.nu.queueCount ∧ (toCalls reason outcome n d).nu.fanout = d.nu.fanout ∧
    (toCalls reason outcome n d).nu.awaiting = d.nu.awaiting ∧ (toCalls reason outcome n d).ae = d.ae := by
  unfold toCalls addCall; split <;> exact ⟨rfl, rfl, rfl, rfl⟩

theorem toCalls_resumes {before after : Device} (h : QueueFallResumes before after) (reason : CallReason)
    (outcome : Option NoticeOutcome) (n : Notice) : QueueFallResumes before (toCalls reason outcome n after) := by
  obtain ⟨count, fanout, -, ae⟩ := toCalls_leaves reason outcome n after
  unfold QueueFallResumes; rw [count, fanout, ae]; exact h

/-- What a notice taken to the desk under the URGENT class finds there. -/
theorem CalledTo.full {reason : CallReason} {content : CallContent} {e out : Device} (h : CalledTo reason content e out)
    (full : 128 ≤ e.nu.calls.length) : out.nu.calls = e.nu.calls ∧ out.op.holds .callsFull = true := by
  rw [h.1 full]; exact ⟨rfl, raise_holds_same _ _⟩
theorem CalledTo.room {reason : CallReason} {content : CallContent} {e out : Device} (h : CalledTo reason content e out)
    (room : e.nu.calls.length < 128) : out.op.holds .calls = true ∧
      ∃ x ∈ out.nu.calls, x.reason = reason ∧ x.urgent = true ∧ x.content = content := by
  obtain ⟨number, next, rfl⟩ := h.2 room
  exact ⟨raise_holds_same _ _, _, List.mem_append_right _ List.mem_cons_self, rfl, rfl, rfl⟩

/-! ### The obligation -/

/-- Settles O42: an outcome by where its notice stands and by its value; a receipt, a deadline and the fallback by their cases. -/
theorem oldNoticesGoToTheDesk : Obligations.OldNoticesGoToTheDesk := by
  refine ⟨fun d tag value code => ?_, fun d n => ?_, fun s tag powered => ?_, fun s tag powered => ?_, fun tag d => ?_⟩
  · intro outcome
    refine ⟨takeOutcome_unknown, fun w found => ?_, fun o none isOutcome => ?_⟩
    · intro n left closed waits called
      have acts (o : NoticeOutcome) (known : outcomeCode value code = some o) : outcome = outcomeActs o n left :=
        takeOutcome_awaited known found
      have closed_ae : (closed .replied).ae = d.ae := closeCalled_ae n .replied left
      have closed_tb : (closed .replied).tb = d.tb := closeCalled_tb n .replied left
      have calls {o : NoticeOutcome} {e : Device} {reason : CallReason} {content : CallContent} (known : outcomeCode value code = some o)
          (h : CalledTo reason content e (outcomeActs o n left)) (sameCalls : e.nu.calls = d.nu.calls) (sameTime : e.tb = d.tb) :
          called e reason content := by
        have second : e.tb.second = d.tb.second := by rw [sameTime]
        have date : e.tb.date = d.tb.date := by rw [sameTime]
        rw [← acts o known] at h
        unfold CalledTo at h; rw [sameCalls, second, date] at h; exact h
      refine ⟨acts, fun delivered => ?_, fun replied => ?_, fun unreached => ?_⟩
      · subst delivered; exact acts .delivered rfl
      · subst replied
        have replies : outcome = takeReplyCode n code (closed .replied) := acts (.replied code) rfl
        have stillWaits (h : waits) : (closed .replied).ae.Waits n := by rw [closed_ae]; exact h
        refine ⟨fun h => ?_, fun wait excuses => ⟨fun c held key may => ?_, fun may => ?_⟩, fun wait unaware => ?_⟩
        · exact replies.trans (takeReplyCode_nothing (by rw [closed_ae]; exact h))
        · have roster : (closed .replied).ae.roster = d.ae.roster := by rw [closed_ae]
          rw [replies, takeReplyCode_explains (stillWaits wait) excuses (by rw [closed_ae]; exact held) key may, roster]
        · exact replies.trans (takeReplyCode_unheard excuses (by rw [closed_ae]; exact may))
        · exact calls (o := .replied code) rfl (takeReplyCode_calledTo (stillWaits wait) unaware) (closeCalled_calls n .replied left)
            closed_tb
      · subst unreached
        have escalates : outcome = unreachable n left := acts .unreachable rfl
        refine ⟨fun absent unwanted => ?_, fun other old => ?_, fun wanted today => ⟨fun last => ?_, fun k c next urgent => ?_⟩⟩
        · exact escalates.trans (unreachable_unwanted absent unwanted)
        · exact calls (o := .unreachable) rfl (unreachable_old (d := left) other old) rfl rfl
        · exact calls (o := .unreachable) rfl (unreachable_last (d := left) wanted today last) rfl rfl
        · exact ⟨fun room => escalates.trans (unreachable_room (d := left) wanted today next urgent room),
            fun full => calls (o := .unreachable) rfl (unreachable_full (d := left) wanted today next urgent full) rfl rfl⟩
    · have known := outcomeCode_of isOutcome
      refine ⟨takeOutcome_ring known none, fun unringed => ⟨fun called => ?_, takeOutcome_nowhere known none unringed⟩⟩
      refine (takeOutcome_calls known none unringed called).trans ?_
      refine congrArg (fun f => ({ d with nu.calls := d.nu.calls.map f } : Device).raise .calls) (funext fun e => ?_)
      obtain ⟨number, reason, urgent, second, date, content⟩ := e
      cases content with
      | notice m old sup => exact if_congr beq_iff_eq rfl rfl
      | message => rfl
      | parentUnaware => rfl
  · exact ⟨receipt_other, fun o urgent kept => receipt_kept urgent kept, fun urgent kept =>
      ⟨receipt_awaits urgent kept, receipt_untracked urgent kept⟩⟩
  · intro step
    have hstep : step = goesTo s (outcomeTimedOut tag s.dev) := act_powered_on powered
    rw [hstep]
    refine ⟨fun none => by rw [outcomeTimedOut_none none], fun w found => ?_⟩
    intro left wanted
    have desk : CalledTo .noOutcome (.notice { w.notice with kept := none } none false) left (toCalls .noOutcome none w.notice left) :=
      toCalls_calledTo rfl _ _
    refine ⟨fun unwanted => by rw [outcomeTimedOut_unwanted found unwanted]; rfl, fun want full => ?_, fun want => ?_,
      fun want room unkept => ?_⟩ <;> rw [outcomeTimedOut_wanted found want]
    · exact congrArg (goesTo s) (desk.1 full)
    · rfl
    · obtain ⟨-, -, awaiting, ae⟩ := toCalls_leaves .noOutcome none w.notice left
      have same : { w.notice with kept := none } = w.notice := by rw [← unkept]
      rw [same] at desk
      obtain ⟨cause, entry⟩ := desk.room room
      exact ⟨_, rfl, awaiting, ae, (toCalls_move _ _ _ _).rl, cause, entry⟩
  · intro step
    have hstep : step = goesTo s (fallbackDue tag s.dev) := act_powered_on powered
    rw [hstep]
    refine ⟨fun still => by rw [fallbackDue_still still], fun n down found => ⟨_, rfl, ?_⟩⟩
    rw [fallbackDue_falls down found]
    have same : n.tag = tag := by simpa using List.find?_some found
    have desk : CalledTo .relayDown _ (leaveQueue tag s.dev) _ :=
      toCalls_calledTo (n := { n with age := max n.age (60 * s.dev.nu.fallbackDelay) }) rfl none _
    have move := toCalls_move .relayDown none { n with age := max n.age (60 * s.dev.nu.fallbackDelay) } (leaveQueue tag s.dev)
    obtain ⟨-, -, -, ae⟩ := toCalls_leaves .relayDown none { n with age := max n.age (60 * s.dev.nu.fallbackDelay) }
      (leaveQueue tag s.dev)
    refine ⟨rfl, toCalls_urgent _ _ _ _, move.rl, move.tb, toCalls_resumes (leaveQueue_resumes tag s.dev) _ _ _, by rw [ae]; rfl,
      desk.full, fun room => ?_⟩
    obtain ⟨cause, x, hx, reason, urgent, content⟩ := desk.room room
    exact ⟨cause, x, hx, _, reason, urgent, content, same, rfl, rfl⟩
  · exact ⟨rfl, rfl, rfl, leaveQueue_resumes tag d, rfl⟩

end Sys2Proof.Machine
end

section
/-! O30: the absence-notice rule, by where the notice stands (R70, R112, R121, Table 4-7). -/
namespace Sys2Proof.Machine

/-- What follows an absence notice on the device b: an ARRIVED_AFTER_CALL to its contact for an arrival, nothing for an explanation. -/
def followUp (asArrival : Bool) (roll t contact key step : Nat) (b : Device) : Device :=
  if asArrival then composeArrived roll t contact key step b else b

/-- The ARRIVED_AFTER_CALL notice about a pupil, composed on the device b in answer to the notice of tag t. -/
def Device.arrivedNotice (roll t contact key step : Nat) (b : Device) : Notice :=
  ⟨b.freeTag, .arrivedAfterCall t, roll, contact, key, step, b.tb.date, b.tb.second, 0, none⟩

section
variable {roll t contact key step : Nat} {b : Device}

theorem composeArrived_room (room : b.nu.queueCount < 256) : composeArrived roll t contact key step b =
    { b.tagGiven b.freeTag with nu.urgent := b.nu.urgent ++ [b.arrivedNotice roll t contact key step] } :=
  submit_urgent_room rfl room
theorem composeArrived_full (full : 256 ≤ b.nu.queueCount) : composeArrived roll t contact key step b =
    addCall .queueFull true (.notice (b.arrivedNotice roll t contact key step) none false) (b.tagGiven b.freeTag) :=
  submit_urgent_full rfl full

end

section
variable {asArrival : Bool} {roll t : Nat} {d : Device}

theorem absenceRule_queued (queued : ∃ n ∈ d.nu.queued, n.tag = t) : absenceRule asArrival roll t d = leaveQueue t d :=
  if_pos (by simpa using queued)

section
variable (unqueued : ∀ n ∈ d.nu.queued, n.tag ≠ t)
include unqueued

theorem absenceRule_ring {r : RingEntry} (found : d.rl.ring.find? (·.notice.tag == t) = some r) :
    absenceRule asArrival roll t d = followUp asArrival roll t r.notice.contact r.notice.key r.notice.step d := by
  unfold absenceRule
  rw [if_neg (by simpa using unqueued), found]; rfl

variable (unsent : ∀ r ∈ d.rl.ring, r.notice.tag ≠ t)
include unsent

theorem absenceRule_awaited {w : Awaiting} (found : d.nu.awaitingOf t = some w) : absenceRule asArrival roll t d =
    followUp asArrival roll t w.notice.contact w.notice.key w.notice.step (leaveAwaiting t d) := by
  unfold absenceRule
  rw [if_neg (by simpa using unqueued), List.find?_eq_none.2 (by simpa using unsent)]
  dsimp only
  rw [found]; rfl

variable (unawaited : d.nu.awaitingOf t = none)
include unawaited

theorem absenceRule_called (found : ∃ e ∈ d.nu.calls, e.holdsTag t = true) :
    absenceRule asArrival roll t d = touchCall t CallEntry.supersede d := by
  unfold absenceRule
  rw [if_neg (by simpa using unqueued), List.find?_eq_none.2 (by simpa using unsent)]
  dsimp only
  rw [unawaited]
  exact if_pos (List.any_eq_true.2 found)

section
variable (uncalled : ∀ e ∈ d.nu.calls, e.holdsTag t = false)
include uncalled

theorem absenceRule_closed {c : CalledToday} (found : d.nu.calledToday.find? (fun c => c.roll == roll && c.tag == t) = some c) :
    absenceRule asArrival roll t d = followUp asArrival roll t c.contact c.key c.step d := by
  unfold absenceRule
  rw [if_neg (by simpa using unqueued), List.find?_eq_none.2 (by simpa using unsent)]
  dsimp only
  rw [unawaited]
  refine (if_neg (by simpa using uncalled)).trans ?_
  rw [found]; rfl
theorem absenceRule_nowhere (absent : ∀ c ∈ d.nu.calledToday, c.roll = roll → c.tag ≠ t) : absenceRule asArrival roll t d = d := by
  have none : d.nu.calledToday.find? (fun c => c.roll == roll && c.tag == t) = none :=
    List.find?_eq_none.2 fun c hc => by simpa using absent c hc
  unfold absenceRule
  rw [if_neg (by simpa using unqueued), List.find?_eq_none.2 (by simpa using unsent)]
  dsimp only
  rw [unawaited]
  refine (if_neg (by simpa using uncalled)).trans ?_
  rw [none]

end

end

theorem touchCall_supersede (t : Nat) (d : Device) : touchCall t CallEntry.supersede d = ({ d with
    nu.calls := d.nu.calls.map fun e => match e.content with
      | .notice n o _ => if n.tag = t then { e with content := .notice n o true } else e
      | .message _ _ _ _ _ _ _ => e
      | .parentUnaware _ _ => e } : Device).raise .calls := by
  refine congrArg (fun f => ({ d with nu.calls := d.nu.calls.map f } : Device).raise .calls) (funext fun e => ?_)
  obtain ⟨number, reason, urgent, second, date, content⟩ := e
  cases content with
  | notice n o superseded => exact if_congr beq_iff_eq rfl rfl
  | message => rfl
  | parentUnaware => rfl

end

end Sys2Proof.Machine
end

section
/-! O30: DESK_MARK (R69, Table 4-6). -/
namespace Sys2Proof.Machine

theorem markCode_none {mark : Nat} (h : mark = 0 ∨ 3 < mark) : markCode mark = none := by
  unfold markCode
  split
  · omega
  · omega
  · omega
  · rfl
theorem markCode_some {mark : Nat} (h1 : 1 ≤ mark) (h2 : mark ≤ 3) : ∃ m, markCode mark = some m := by
  interval_cases mark <;> exact ⟨_, rfl⟩

section
variable {roll mark : Nat} {d : Device}

theorem serveDeskMark_range (h : ¬ (1 ≤ roll ∧ roll ≤ 2400 ∧ 1 ≤ mark ∧ mark ≤ 3)) :
    serveDeskMark roll mark d = refuse .range d := by
  unfold serveDeskMark
  split
  · rfl
  · rename_i m code
    have bad : badRoll roll = true := by
      by_contra good
      have outside : mark = 0 ∨ 3 < mark := by
        have := mt (badRoll_iff roll).2 good
        omega
      rw [markCode_none outside] at code; cases code
    dsimp only
    split <;> exact checked_fails bad

variable {m : RosterState} (code : markCode mark = some m) (h1 : 1 ≤ roll) (h2 : roll ≤ 2400)
include code h1 h2

theorem serveDeskMark_busy (active : d.tb.rollover.isSome = true) : serveDeskMark roll mark d = refuse .busy d := by
  unfold serveDeskMark; rw [code]; dsimp only
  split <;> exact checked_busy (badRoll_within h1 h2) active

variable (idle : d.tb.rollover = none)
include idle

theorem serveDeskMark_noRoster (none : d.ae.roster = none) : serveDeskMark roll mark d = refuse .state d := by
  unfold serveDeskMark; rw [code]; dsimp only
  split <;> exact (checked_steady (badRoll_within h1 h2) idle).trans (checked_fails (by rw [none]; rfl))

variable (held : d.ae.roster.isSome = true)
include held

theorem serveDeskMark_noPupil (unheld : d.ae.pupil roll = none) : serveDeskMark roll mark d = refuse .notFound d := by
  unfold serveDeskMark; rw [code]; dsimp only
  split
  · exact (checked_steady (badRoll_within h1 h2) idle).trans (checked_passes (Option.isNone_eq_false_iff.2 held))
  · exact (checked_steady (badRoll_within h1 h2) idle).trans
      ((checked_passes (Option.isNone_eq_false_iff.2 held)).trans (checked_fails (by rw [unheld]; rfl)))

theorem serveDeskMark_entry {e : RosterEntry} (known : (d.ae.pupil roll).isSome = true) (entry : d.ae.entry roll = some e) :
    serveDeskMark roll mark d = checked d [(!markFrom m e.state, .state)] (ok (.mark e.state m), takeMarkFor m e d) := by
  unfold serveDeskMark; rw [code]; dsimp only; rw [entry]
  exact (checked_steady (badRoll_within h1 h2) idle).trans ((checked_passes (Option.isNone_eq_false_iff.2 held)).trans
    (checked_passes (Option.isNone_eq_false_iff.2 known)))

end

theorem entry_rosterHeld {ae : Attendance} {roll : Nat} {e : RosterEntry} (h : ae.entry roll = some e) : ae.roster.isSome = true := by
  unfold Attendance.entry at h
  obtain ⟨l, held, -⟩ := Option.bind_eq_some_iff.1 h
  rw [held]; rfl

theorem takeMarkFor_quiet {m : RosterState} {e : RosterEntry} (d : Device) (quiet : e.state ≠ .unexplained) :
    takeMarkFor m e d = d.onAe (·.onEntry e.roll (RosterEntry.marked m d.tb.second)) := if_neg quiet
theorem takeMarkFor_unexplained {m : RosterState} {e : RosterEntry} (d : Device) (unexplained : e.state = .unexplained) :
    takeMarkFor m e d = absenceRuleFor (m == .present) e.roll e.absenceTag
      (d.onAe (·.onEntry e.roll (RosterEntry.marked m d.tb.second))) := if_pos unexplained

section
variable {s : State} {tag roll mark : Nat} {e : RosterEntry} {m : RosterState} (steady : Steady s) (h1 : 1 ≤ roll) (h2 : roll ≤ 2400)
  (known : (s.dev.ae.pupil roll).isSome = true) (entry : s.dev.ae.entry roll = some e) (code : markCode mark = some m)
include steady h1 h2 known entry code

theorem exec_deskMark_taken (may : markFrom m e.state = true) :
    exec (.deskMark tag roll mark) s = answers s tag 29 (ok (.mark e.state m)) (takeMarkFor m e s.dev) := by
  refine (act_request_ready (serve := serveDeskMark roll mark) steady.1).trans ?_
  rw [serveDeskMark_entry code h1 h2 steady.2 (entry_rosterHeld entry) known entry, checked_passes (by rw [may]; rfl)]; rfl
theorem exec_deskMark_refused (mayNot : markFrom m e.state = false) : exec (.deskMark tag roll mark) s = refuses s tag 29 .state := by
  refine (act_request_ready (serve := serveDeskMark roll mark) steady.1).trans ?_
  rw [serveDeskMark_entry code h1 h2 steady.2 (entry_rosterHeld entry) known entry, checked_fails (by rw [mayNot]; rfl)]; rfl

end

/-- Settles O30: the checks in order, each mark by the state of the entry, and the absence-notice rule place by place. -/
theorem deskMarksMoveTheEntry : Obligations.DeskMarksMoveTheEntry := by
  refine ⟨fun s tag roll mark ready => ?_, fun s tag roll e steady h1 h2 known entry => ?_,
    fun d asArrival roll => ⟨rfl, fun t => ?_⟩⟩
  · intro desk inside
    have hdesk : desk = answers s tag 29 (serveDeskMark roll mark s.dev).1 (serveDeskMark roll mark s.dev).2 := act_request_ready ready
    rw [hdesk]
    refine ⟨fun outside => by rw [serveDeskMark_range outside]; rfl, fun ⟨h1, h2, m1, m2⟩ active => ?_,
      fun ⟨h1, h2, m1, m2⟩ idle none => ?_, fun ⟨h1, h2, m1, m2⟩ idle held unheld => ?_⟩ <;> obtain ⟨m, code⟩ := markCode_some m1 m2
    · rw [serveDeskMark_busy code h1 h2 active]; rfl
    · rw [serveDeskMark_noRoster code h1 h2 idle none]; rfl
    · rw [serveDeskMark_noPupil code h1 h2 idle held unheld]; rfl
  · intro onEntry here told gone
    have taken {mark : Nat} {m : RosterState} (code : markCode mark = some m) (may : markFrom m e.state = true) :
        exec (.deskMark tag roll mark) s = answers s tag 29 (ok (.mark e.state m)) (takeMarkFor m e s.dev) :=
      exec_deskMark_taken steady h1 h2 known entry code may
    have refused {mark : Nat} {m : RosterState} (code : markCode mark = some m) (mayNot : markFrom m e.state = false) :
        exec (.deskMark tag roll mark) s = refuses s tag 29 .state := exec_deskMark_refused steady h1 h2 known entry code mayNot
    obtain rfl : e.roll = roll := entry_roll entry
    refine ⟨fun from' => ?_, fun unexplained => ?_, fun provisional => ?_, fun unexplained => ?_, fun expected => ?_, fun other => ?_,
      fun p u => ?_, fun x p u => ?_⟩
    · rw [taken rfl (by rcases from' with st | st <;> rw [st] <;> rfl),
        takeMarkFor_quiet _ (by rcases from' with st | st <;> rw [st] <;> nofun)]; rfl
    · rw [taken rfl (by rw [unexplained]; rfl), takeMarkFor_unexplained _ unexplained, unexplained]; rfl
    · rw [taken rfl (by rw [provisional]; rfl), takeMarkFor_quiet _ (by rw [provisional]; nofun), provisional]; rfl
    · rw [taken rfl (by rw [unexplained]; rfl), takeMarkFor_unexplained _ unexplained, unexplained]; rfl
    · rw [taken rfl (by rw [expected]; rfl), takeMarkFor_quiet _ (by rw [expected]; nofun), expected]; rfl
    · exact refused rfl (by simpa [markFrom] using other)
    · exact refused rfl (by simp [markFrom, p, u])
    · exact refused rfl (by simp [markFrom, x, p, u])
  · intro rule kept unqueued unsent unlisted follows
    have follow {contact key step : Nat} {b : Device} (sameQueue : b.nu.queueCount = d.nu.queueCount)
        (sameUrgent : b.nu.urgent = d.nu.urgent) (sameTime : b.tb = d.tb) (h : rule = followUp asArrival roll t contact key step b) : follows b contact key step := by
      have notice : b.arrivedNotice roll t contact key step =
          ⟨b.freeTag, .arrivedAfterCall t, roll, contact, key, step, d.tb.date, d.tb.second, 0, none⟩ := by rw [← sameTime]; rfl
      refine ⟨fun explains => ?_, fun arrives room => ?_, fun arrives full => ?_⟩ <;> rw [h]
      · rw [explains]; rfl
      · rw [arrives]
        refine (composeArrived_room (by rw [sameQueue]; exact room)).trans ?_
        rw [notice, sameUrgent]; rfl
      · rw [arrives]
        refine (composeArrived_full (by rw [sameQueue]; exact full)).trans ?_
        rw [notice]; rfl
    refine ⟨fun queued => ?_, fun r unq found => follow rfl rfl rfl (absenceRule_ring unq found), fun w ⟨unq, unr⟩ found => ?_,
      fun ⟨unq, unr⟩ una called => ?_, fun c ⟨⟨unq, unr⟩, una, unc⟩ found => ?_, fun ⟨⟨unq, unr⟩, una, unc⟩ absent => ?_⟩
    · have leaves : rule = leaveQueue t d := absenceRule_queued (by simpa [unqueued] using queued)
      rw [leaves]; exact ⟨leaveQueue_resumes t d, rfl⟩
    · exact follow rfl rfl rfl (absenceRule_awaited unq unr found)
    · exact (absenceRule_called unq unr una called).trans (touchCall_supersede t d)
    · exact follow rfl rfl rfl (absenceRule_closed unq unr una unc found)
    · exact absenceRule_nowhere unq unr una unc absent

end Sys2Proof.Machine
end

section
/-! O31: the queries of the roster and its sweeps, the snapshot latch, and the day counts (R62, R71 to R73, Table 4-8). -/
namespace Sys2Proof.Machine

/-! ### QUERY_ROSTER -/

theorem rosterAsked_iff (roll states : Nat) : (badRoll roll || !fitsMask 9 states) = true ↔
    roll = 0 ∨ 2400 < roll ∨ 512 ≤ states := by
  simp only [Bool.or_eq_true, badRoll_iff, fitsMask, Bool.not_eq_true', decide_eq_false_iff_not, Nat.not_lt, or_assoc]
  rfl

section
variable {d : Device} {roll states : Nat}

theorem serveQueryRoster_range (h : roll = 0 ∨ 2400 < roll ∨ 512 ≤ states) : serveQueryRoster roll states d = refuse .range d :=
  checked_fails_of (rosterAsked_iff roll states) h

variable (h1 : 1 ≤ roll) (h2 : roll ≤ 2400) (h3 : states < 512) (idle : d.tb.rollover = none)
include h1 h2 h3 idle

theorem serveQueryRoster_none (none : d.ae.roster = none) : serveQueryRoster roll states d = refuse .state d := by
  unfold serveQueryRoster
  dsimp only
  rw [checked_passes_of (rosterAsked_iff roll states) (by omega), checked_passes (rolling_idle idle), checked_fails (by rw [none]; rfl)]
theorem serveQueryRoster_found {l found : List RosterEntry} (held : d.ae.roster = some l)
    (matching : found = l.filter fun e => decide (roll ≤ e.roll) && wantsState states e.state) :
    serveQueryRoster roll states d = (ok (.roster (found.take 8) ((found[8]?.map (·.roll)).getD 0)), d) := by
  subst matching
  unfold serveQueryRoster
  dsimp only
  rw [checked_passes_of (rosterAsked_iff roll states) (by omega), checked_passes (rolling_idle idle), checked_passes (by rw [held]; rfl),
    checked_nil, held]
  dsimp only [Option.getD_some, Config.recordsPerReply]
  split
  · rename_i next; rw [next]; rfl
  · rename_i next; rw [next]; rfl

end

/-! ### QUERY_SWEEPS and the snapshot latch -/

section
variable {d : Device} (idle : d.tb.rollover = none)
include idle

theorem serveQuerySweeps_steady : serveQuerySweeps d = (ok (.sweeps d.ae.sweeps), d) := checked_passes (rolling_idle idle)

theorem serveSnapshot_none (none : d.ae.roster = none) : serveSnapshot d = refuse .state d := by
  unfold serveSnapshot
  dsimp only
  split <;> rw [checked_passes (rolling_idle idle), checked_fails (by rw [none]; rfl)]
theorem serveSnapshot_latches (held : d.ae.roster.isSome = true) (released : d.ae.latch = none) : serveSnapshot d =
    (ok (.snapshotSecond d.tb.second), { d with ae.latch := some ⟨d.ae.counts, d.tb.second⟩ }) := by
  unfold serveSnapshot
  rw [released]
  exact (checked_passes (rolling_idle idle)).trans (checked_passes (Option.isNone_eq_false_iff.2 held))
theorem serveSnapshot_latched {c : Snapshot} (held : d.ae.roster.isSome = true) (latched : d.ae.latch = some c) : serveSnapshot d =
    (⟨.ok, { alreadyLatched := true }, .snapshotSecond c.second⟩, d) := by
  unfold serveSnapshot
  rw [latched]
  exact (checked_passes (rolling_idle idle)).trans (checked_passes (Option.isNone_eq_false_iff.2 held))

theorem serveQueryCounts_latched {c : Snapshot} (latched : d.ae.latch = some c) : serveQueryCounts d =
    (⟨.ok, { latched := true }, .counts c.counts (some c.second)⟩, { d with ae.latch := none }) := by
  unfold serveQueryCounts
  rw [latched]
  exact checked_passes (rolling_idle idle)
theorem serveQueryCounts_live (released : d.ae.latch = none) : serveQueryCounts d =
    (⟨.ok, { noRoster := d.ae.roster.isNone }, .counts d.ae.counts none⟩, d) := by
  unfold serveQueryCounts
  rw [released]
  exact checked_passes (rolling_idle idle)

end

/-! ### The day counts -/

theorem dueAt_eq (e : RosterEntry) (site : Nat) : e.dueAt site = (e.due.map (·.site) == some site) := by
  unfold RosterEntry.dueAt
  cases e.due <;> rfl

/-- The roster's entries due at a site that meet a condition. -/
def countAt (l : List RosterEntry) (site : Nat) (f : RosterEntry → Bool) : Nat :=
  (l.filter fun e => e.due.map (·.site) == some site && f e).length

theorem countAt_eq (l : List RosterEntry) (site : Nat) (f : RosterEntry → Bool) :
    ((l.filter (·.dueAt site)).filter f).length = countAt l site f := by
  simp only [countAt, List.filter_filter, dueAt_eq, Bool.and_comm]
theorem countAt_all (l : List RosterEntry) (site : Nat) : (l.filter (·.dueAt site)).length = countAt l site fun _ => true := by
  simp only [countAt, dueAt_eq, Bool.and_true]

/-- Settles O31: each request makes its checks in order; the counts are the roster's, counted site by site. -/
theorem rosterAndCountsAreRead : Obligations.RosterAndCountsAreRead := by
  intro s tag ⟨ready, idle⟩ ae bit
  have roster (roll states : Nat) : exec (.queryRoster tag roll states) s =
    answers s tag 30 (serveQueryRoster roll states s.dev).1 (serveQueryRoster roll states s.dev).2 := act_request_ready ready
  have sweeps : exec (.querySweeps tag) s = answers s tag 31 (serveQuerySweeps s.dev).1 (serveQuerySweeps s.dev).2 :=
    act_request_ready ready
  have snapshot : exec (.snapshot tag) s = answers s tag 32 (serveSnapshot s.dev).1 (serveSnapshot s.dev).2 := act_request_ready ready
  have counts : exec (.queryCounts tag) s = answers s tag 33 (serveQueryCounts s.dev).1 (serveQueryCounts s.dev).2 :=
    act_request_ready ready
  rw [sweeps, snapshot, counts]
  refine ⟨fun roll states bad => ?_, fun roll states h1 h2 h3 none => ?_, fun roll states l h1 h2 h3 held => ?_, ?_, fun none => ?_,
    fun held released => ?_, fun c held latched => ?_, fun c latched => ?_, fun released => ?_, fun none => ?_, fun l held => ?_⟩
  · rw [roster, serveQueryRoster_range bad]; rfl
  · rw [roster, serveQueryRoster_none h1 h2 h3 idle none]; rfl
  · have bits (st : RosterState) : st.code - 1 = bit st := by cases st <;> rfl
    intro found
    have matching : found = l.filter fun e => decide (roll ≤ e.roll) && wantsState states e.state := by
      simp only [wantsState, bits]; rfl
    rw [roster, serveQueryRoster_found h1 h2 h3 idle held matching]
  · rw [serveQuerySweeps_steady idle]
  · rw [serveSnapshot_none idle none]; rfl
  · rw [serveSnapshot_latches idle held released]
  · rw [serveSnapshot_latched idle held latched]
  · rw [serveQueryCounts_latched idle latched]
  · rw [serveQueryCounts_live idle released]
  · unfold Attendance.counts; rw [none]; rfl
  · intro count inState lateBy counted
    have sites (site : Nat) : siteCounts l site = counted site := by
      simp only [siteCounts, countAt_eq, countAt_all]; rfl
    unfold Attendance.counts
    rw [held]
    simp only [Option.getD_some, sites]

end Sys2Proof.Machine
end

section
/-! O32: the CLOSE sweep's step, and how a sweep's cursor moves on (R59, R60). -/
namespace Sys2Proof.Machine

/-- Where a sweep's step leaves the list: the cursor moved on, or, after roll number 2400, the sweep gone from it. -/
def sweepsOnward (kind : SweepKind) (k site : Nat) (w : Sweep) (l : List Sweep) : List Sweep :=
  if w.cursor < 2400 then l.map fun v => if v.isFor kind k site then { v with cursor := w.cursor + 1 } else v
  else l.filter fun v => !v.isFor kind k site

section
variable {ae : Attendance} {k site : Nat} {w : Sweep}

theorem sweepOn_moves {kind : SweepKind} (found : ae.sweep kind k site = some w) (more : w.cursor < 2400) :
    ae.sweepOn kind k site = { ae with
      sweeps := ae.sweeps.map fun v => if v.isFor kind k site then { v with cursor := w.cursor + 1 } else v } := by
  unfold Attendance.sweepOn; rw [found]; exact if_pos more

/-- The end of a CLOSE sweep lets the confirm sweep waiting behind it run. -/
theorem sweepOn_close_ends (found : ae.sweep .close k site = some w) (last : 2400 ≤ w.cursor) :
    ae.sweepOn .close k site = { ae with
      sweeps := (ae.sweeps.filter fun v => !v.isFor .close k site).map (Sweep.released k site) } := by
  unfold Attendance.sweepOn; rw [found]; exact if_neg (Nat.not_lt.2 last)

theorem sweepOn_confirm (found : ae.sweep .confirm k site = some w) :
    ae.sweepOn .confirm k site = { ae with sweeps := sweepsOnward .confirm k site w ae.sweeps } := by
  unfold sweepsOnward
  split
  · rename_i more; exact sweepOn_moves found more
  · rename_i last
    unfold Attendance.sweepOn; rw [found]; exact if_neg last

end

theorem isDue_iff (e : RosterEntry) (k site : Nat) : e.isDue k site = true ↔ e.due = some ⟨k, site⟩ := beq_iff_eq

theorem released_eq (k site : Nat) : Sweep.released k site = fun v =>
    if v.kind = .confirm ∧ v.point = k ∧ v.site = site ∧ v.status = .waiting then { v with status := .running } else v := by
  funext v
  simp only [Sweep.released, Sweep.isFor, Bool.and_eq_true, beq_iff_eq, and_assoc]

/-- The Attendance Engine after the CLOSE sweep of a point has taken a roll number. -/
def Attendance.closedAt (k site cursor : Nat) (ae : Attendance) : Attendance := { ae with
  roster := ae.roster.map fun l => l.map fun e =>
    if e.roll = cursor ∧ e.due = some ⟨k, site⟩ ∧ e.state = .expected then { e with state := .provisional } else e }

theorem onEntry_closed (k site cursor : Nat) (ae : Attendance) :
    (ae.onEntry cursor fun e => if e.isDue k site && e.state == .expected then { e with state := .provisional } else e) =
      ae.closedAt k site cursor := by
  simp only [Attendance.onEntry, Attendance.closedAt, Bool.and_eq_true, beq_iff_eq, isDue_iff, ite_and]

theorem closeStep_none {d : Device} {k site : Nat} (none : d.ae.sweep .close k site = none) : closeStep k site d = d := by
  unfold closeStep; rw [none]
theorem closeStep_some {d : Device} {k site : Nat} {w : Sweep} (found : d.ae.sweep .close k site = some w) : closeStep k site d =
    { d with ae := (d.ae.closedAt k site w.cursor).sweepOn .close k site } := by
  unfold closeStep; rw [found]; simp only [onEntry_closed, Device.onAe]

/-- Settles O32: the entry at the cursor, and the list by whether the cursor stands at roll number 2400. -/
theorem closeSweepMakesProvisional : Obligations.CloseSweepMakesProvisional := by
  intro s k site powered ae
  have step : exec (.closeSweepStep k site) s = goesTo s (closeStep k site s.dev) := act_powered_on powered
  rw [step]
  refine ⟨fun none => by rw [closeStep_none none], fun w found => ?_⟩
  intro swept mine
  rw [closeStep_some found]
  have stays : (ae.closedAt k site w.cursor).sweep .close k site = some w := found
  refine ⟨fun more => ?_, fun last => ?_⟩
  · rw [sweepOn_moves stays more]; rfl
  · rw [sweepOn_close_ends stays last, released_eq]; rfl

end Sys2Proof.Machine
end

section
/-! O33: the contact that may be notified (R108, R110). -/
namespace Sys2Proof.Machine

/-- Slot k, of slots numbered from `start`, is beyond `after` and names a contact c with MAY_NOTIFY. -/
def Attendance.SlotMayHear (ae : Attendance) (after start : Nat) (slots : List (Option Nat)) (k : Nat) (c : Contact) : Prop :=
  after < k ∧ start ≤ k ∧ (∃ i, slots[k - start]? = some (some i) ∧ ae.contactAt i = some c) ∧ c.mayNotify = true

section
variable {ae : Attendance} {after start k : Nat} {c : Contact}

theorem slotMayHear_nil : ¬ ae.SlotMayHear after start [] k c := by
  rintro ⟨-, -, ⟨i, hi, -⟩, -⟩
  cases hi

theorem slotMayHear_head {slot : Option Nat} {rest : List (Option Nat)} : ae.SlotMayHear after start (slot :: rest) start c ↔
    slot.bind ae.contactAt = some c ∧ (after < start && c.mayNotify) = true := by
  simp only [Attendance.SlotMayHear, Nat.sub_self, List.getElem?_cons_zero, Option.some.injEq, Option.bind_eq_some_iff,
    Bool.and_eq_true, decide_eq_true_eq]
  tauto

theorem slotMayHear_tail {slot : Option Nat} {rest : List (Option Nat)} (beyond : start ≠ k) :
    ae.SlotMayHear after start (slot :: rest) k c ↔ ae.SlotMayHear after (start + 1) rest k c := by
  unfold Attendance.SlotMayHear
  by_cases h : start + 1 ≤ k
  · obtain ⟨j, rfl⟩ := Nat.exists_eq_add_of_le h
    have here : start + 1 + j - start = j + 1 := by omega
    have next : start + 1 + j - (start + 1) = j := by omega
    rw [here, next, List.getElem?_cons_succ]
    simp only [show start ≤ start + 1 + j by omega, h]
  · simp only [h, show ¬ start ≤ k by omega, false_and]

/-- A slot names one contact. -/
theorem slotMayHear_unique {slots : List (Option Nat)} {other : Contact} (h : ae.SlotMayHear after start slots k c)
    (h' : ae.SlotMayHear after start slots k other) : c = other := by
  obtain ⟨-, -, ⟨i, hi, hc⟩, -⟩ := h
  obtain ⟨-, -, ⟨j, hj, ho⟩, -⟩ := h'
  obtain rfl : i = j := Option.some.inj (Option.some.inj (hi.symm.trans hj))
  exact Option.some.inj (hc.symm.trans ho)

end

/-- A slot that may not be notified is passed over. -/
theorem notifySlot_passes {ae : Attendance} {after start : Nat} {slot : Option Nat} {rest : List (Option Nat)}
    (no : ∀ c, ¬ ae.SlotMayHear after start (slot :: rest) start c) :
    notifySlot ae after start (slot :: rest) = notifySlot ae after (start + 1) rest := by
  rw [notifySlot]
  split
  · rename_i c hc
    exact if_neg fun may => no c (slotMayHear_head.2 ⟨hc, may⟩)
  · rfl

theorem notifySlot_takes {ae : Attendance} {after start : Nat} {slot : Option Nat} {rest : List (Option Nat)} {c : Contact}
    (yes : ae.SlotMayHear after start (slot :: rest) start c) : notifySlot ae after start (slot :: rest) = some (start, c) := by
  obtain ⟨hc, may⟩ := slotMayHear_head.1 yes
  unfold notifySlot; rw [hc]; exact if_pos may

/-- The slot found is one that may be notified, with none before it; where none is found there is none. -/
theorem notifySlot_spec (ae : Attendance) (after : Nat) (slots : List (Option Nat)) : ∀ start,
    match notifySlot ae after start slots with
    | some (k, c) => ae.SlotMayHear after start slots k c ∧ ∀ j other, j < k → ¬ ae.SlotMayHear after start slots j other
    | none => ∀ k c, ¬ ae.SlotMayHear after start slots k c := by
  induction slots with
  | nil => exact fun start k c => slotMayHear_nil
  | cons slot rest ih =>
    intro start
    by_cases yes : ∃ c, ae.SlotMayHear after start (slot :: rest) start c
    · obtain ⟨c, yes⟩ := yes
      rw [notifySlot_takes yes]
      exact ⟨yes, fun j other before ⟨_, from', _⟩ => absurd from' (Nat.not_le.2 before)⟩
    · rw [not_exists] at yes
      rw [notifySlot_passes yes]
      have rest_iff (j : Nat) (other : Contact) : ae.SlotMayHear after start (slot :: rest) j other ↔
          ae.SlotMayHear after (start + 1) rest j other := by
        by_cases h : start = j
        · subst h
          exact ⟨fun may => absurd may (yes other), fun ⟨_, from', _⟩ => absurd from' (by omega)⟩
        · exact slotMayHear_tail h
      simp only [rest_iff]
      exact ih (start + 1)

theorem notifySlot_some_iff {ae : Attendance} {after start k : Nat} {slots : List (Option Nat)} {c : Contact} :
    notifySlot ae after start slots = some (k, c) ↔
      ae.SlotMayHear after start slots k c ∧ ∀ j other, j < k → ¬ ae.SlotMayHear after start slots j other := by
  have spec := notifySlot_spec ae after slots start
  refine ⟨fun found => by rw [found] at spec; exact spec, fun ⟨may, first⟩ => ?_⟩
  match found : notifySlot ae after start slots with
  | none => rw [found] at spec; exact absurd may (spec k c)
  | some (k', c') =>
    rw [found] at spec
    obtain ⟨may', first'⟩ := spec
    obtain rfl : k = k' := Nat.le_antisymm (Nat.not_lt.1 fun h => first k' c' h may') (Nat.not_lt.1 fun h => first' k c h may)
    rw [slotMayHear_unique may may']

theorem notifySlot_none_iff {ae : Attendance} {after start : Nat} {slots : List (Option Nat)} :
    notifySlot ae after start slots = none ↔ ∀ k c, ¬ ae.SlotMayHear after start slots k c := by
  have spec := notifySlot_spec ae after slots start
  refine ⟨fun none => by rw [none] at spec; exact spec, fun no => ?_⟩
  match found : notifySlot ae after start slots with
  | none => rfl
  | some (k, c) => rw [found] at spec; exact absurd spec.1 (no k c)

/-- Among a pupil's slots, numbered from 1, every slot beyond a step has a number. -/
theorem slotMayHear_one {ae : Attendance} {after k : Nat} {slots : List (Option Nat)} {c : Contact} :
    ae.SlotMayHear after 1 slots k c ↔
      after < k ∧ (∃ i, slots[k - 1]? = some (some i) ∧ ae.contactAt i = some c) ∧ c.mayNotify = true :=
  ⟨fun ⟨beyond, _, may⟩ => ⟨beyond, may⟩, fun ⟨beyond, may⟩ => ⟨beyond, by omega, may⟩⟩

end Sys2Proof.Machine
end

section
/-! O33: the confirm sweep's step (R60, R61). -/
namespace Sys2Proof.Machine

theorem toCalls_onAe (reason : CallReason) (outcome : Option NoticeOutcome) (n : Notice) (f : Attendance → Attendance) (d : Device) :
    (toCalls reason outcome n d).onAe f = toCalls reason outcome n (d.onAe f) := addCall_onAe _ _ _ _ _
theorem toCalls_queued (reason : CallReason) (outcome : Option NoticeOutcome) (n : Notice) (d : Device) :
    (toCalls reason outcome n d).nu.queued = d.nu.queued := by
  unfold toCalls addCall; split <;> rfl

/-- The device whose next tag has been given to an absence notice, held by the entry made UNEXPLAINED. -/
def Device.confirmedAbsent (roll : Nat) (d : Device) : Device := { d with
  ae.roster := d.ae.roster.map fun l => l.map fun x =>
    if x.roll == roll then { x with state := .unexplained, absenceTag := some d.freeTag } else x
  nu.nextTag := if 65535 ≤ d.freeTag then 1 else d.freeTag + 1 }

/-- The absence notice of a pupil, composed now. -/
def Device.absenceNotice (roll contact key step : Nat) (d : Device) : Notice :=
  ⟨d.freeTag, .absentUnexplained, roll, contact, key, step, d.tb.date, d.tb.second, 0, none⟩

section
variable {d : Device} {k site : Nat} {w : Sweep}

theorem confirmStep_idle (idle : ∀ w, d.ae.sweep .confirm k site = some w → w.status ≠ .running) : confirmStep k site d = d := by
  unfold confirmStep
  split
  · rfl
  · rename_i w found; exact if_neg (idle w found)

variable (found : d.ae.sweep .confirm k site = some w) (running : w.status = .running)
include found running

theorem confirmStep_absent (absent : d.ae.entry w.cursor = none) :
    confirmStep k site d = d.onAe (·.sweepOn .confirm k site) := by
  unfold confirmStep; rw [found]; dsimp only; rw [if_pos running, absent]
theorem confirmStep_other {e : RosterEntry} (held : d.ae.entry w.cursor = some e)
    (other : e.due ≠ some ⟨k, site⟩ ∨ e.state ≠ .provisional) : confirmStep k site d = d.onAe (·.sweepOn .confirm k site) := by
  unfold confirmStep; rw [found]; dsimp only; rw [if_pos running, held]
  refine if_neg fun h => ?_
  rw [Bool.and_eq_true, isDue_iff, beq_iff_eq] at h
  exact other.elim (· h.1) (· h.2)
theorem confirmStep_confirms {e : RosterEntry} (held : d.ae.entry w.cursor = some e) (due : e.due = some ⟨k, site⟩)
    (provisional : e.state = .provisional) : confirmStep k site d = confirmEntry k site e d := by
  unfold confirmStep; rw [found]; dsimp only; rw [if_pos running, held]
  exact if_pos (by rw [(isDue_iff e k site).2 due, provisional]; rfl)

end

section
variable {d : Device} {k site : Nat} {e : RosterEntry}

theorem confirmEntry_excused {x : Excuse} (excused : d.ae.excuseFor e.roll .lateExpected d.tb.date = some x) :
    confirmEntry k site e d = (d.onAe (Attendance.excuseTaken x .explained)).onAe (·.sweepOn .confirm k site) := by
  unfold confirmEntry; dsimp only; rw [excused]

variable (unexcused : d.ae.excuseFor e.roll .lateExpected d.tb.date = none)
include unexcused

theorem confirmEntry_pauses {n : Nat} {c : Contact} (may : d.ae.notifiable e.roll 0 = some (n, c)) (full : 256 ≤ d.nu.queueCount) :
    confirmEntry k site e d = d.onAe (·.pauseSweep k site) := by
  unfold confirmEntry; dsimp only; rw [unexcused]; dsimp only; rw [may]; exact if_neg (Nat.not_lt.2 full)

/-- The notice is composed before the entry holds its tag: the two do not touch. -/
theorem confirmEntry_notifies {n : Nat} {c : Contact} (may : d.ae.notifiable e.roll 0 = some (n, c)) (room : d.nu.queueCount < 256) :
    confirmEntry k site e d = Device.onAe (·.sweepOn .confirm k site) { d.confirmedAbsent e.roll with
      nu.urgent := d.nu.urgent ++ [d.absenceNotice e.roll c.index c.key n] } := by
  unfold confirmEntry; dsimp only; rw [unexcused]; dsimp only; rw [may]
  refine (if_pos (show d.nu.queueCount < Config.queueUrgent from room)).trans (congrArg _ ?_)
  exact (submit_onAe _ _ _).trans (submit_urgent_room rfl room)

theorem confirmEntry_calls (none : d.ae.notifiable e.roll 0 = none) : confirmEntry k site e d =
    (toCalls .noContact .none (d.absenceNotice e.roll 0 0 1) (d.confirmedAbsent e.roll)).onAe (·.sweepOn .confirm k site) := by
  unfold confirmEntry; dsimp only; rw [unexcused]; dsimp only; rw [none]
  exact congrArg (Device.onAe _) (toCalls_onAe _ _ _ _ _)

end

/-- The device on which the sweep's cursor has moved on. -/
def Device.sweepOnward (k site : Nat) (w : Sweep) (d : Device) : Device :=
  { d with ae.sweeps := sweepsOnward .confirm k site w d.ae.sweeps }

theorem onAe_sweepOn {d : Device} {k site : Nat} {w : Sweep} (found : d.ae.sweep .confirm k site = some w) :
    d.onAe (·.sweepOn .confirm k site) = d.sweepOnward k site w := by
  unfold Device.onAe; dsimp only; rw [sweepOn_confirm found]; rfl

/-- A notice taken to the desk without a contact stands in the desk call list, or has set CALLS_FULL there. -/
theorem noContact_called {n : Notice} {d : Device} (unkept : n.kept = none) :
    CalledTo .noContact (.notice n none false) d (toCalls .noContact none n d) := by
  have same : { n with kept := none } = n := by rw [← unkept]
  have called := toCalls_calledTo (reason := .noContact) (n := n) rfl none d
  rw [same] at called; exact called

/-- Settles O33: the step by the sweep's status, the entry at its cursor, its excuse, its contact and the queue's room; and the slot
that `notifiable` finds. -/
theorem confirmSweepMakesUnexplained : Obligations.ConfirmSweepMakesUnexplained := by
  intro s k site powered ae step
  have hstep : step = goesTo s (confirmStep k site s.dev) := act_powered_on powered
  rw [hstep]
  refine ⟨fun idle => by rw [confirmStep_idle idle], fun w found running => ?_, fun ae roll after => ?_⟩
  · intro mine onward
    have moves (d : Device) (same : d.ae.sweeps = s.dev.ae.sweeps) : d.onAe (·.sweepOn .confirm k site) = onward d :=
      onAe_sweepOn (by unfold Attendance.sweep; rw [same]; exact found)
    refine ⟨fun e held other => ?_, fun absent => ?_, fun e held due provisional => ?_⟩
    · rw [confirmStep_other found running held other, moves _ rfl]
    · rw [confirmStep_absent found running absent, moves _ rfl]
    rw [confirmStep_confirms found running held due provisional]
    refine ⟨fun x excused => ?_, fun unexcused => ⟨fun n c may full => ?_, fun n c may room => ?_, fun none => ?_⟩⟩
    · rw [confirmEntry_excused excused]; exact congrArg (goesTo s) (moves _ rfl)
    · rw [confirmEntry_pauses unexcused may full]; rfl
    · rw [confirmEntry_notifies unexcused may room]; exact congrArg (goesTo s) (moves _ rfl)
    · rw [confirmEntry_calls unexcused none]
      have called : CalledTo .noContact (.notice (s.dev.absenceNotice e.roll 0 0 1) .none false) (s.dev.confirmedAbsent e.roll) _ :=
        noContact_called rfl
      obtain ⟨-, -, -, leaves⟩ := toCalls_leaves .noContact .none (s.dev.absenceNotice e.roll 0 0 1) (s.dev.confirmedAbsent e.roll)
      rw [moves _ (by rw [leaves]; rfl)]
      refine ⟨_, rfl, rfl, ?_, toCalls_queued _ _ _ _, fun room => ?_, called.full⟩
      · exact congrArg (fun ae' => (onward { s.dev with ae := ae' }).ae) leaves
      · obtain ⟨number, next, out⟩ := called.2 room
        refine ⟨number, _, ?_, rfl⟩
        rw [out]
        exact List.mem_append_right _ List.mem_cons_self
  · intro may
    simp only [Attendance.notifiable, Option.bind_eq_some_iff, Option.bind_eq_none_iff, notifySlot_some_iff, notifySlot_none_iff,
      slotMayHear_one]
    exact ⟨fun k c => Iff.rfl, ⟨fun h p k c held => h p held k c, fun h p held k c => h p k c held⟩⟩

end Sys2Proof.Machine
end

section
/-! O34: the band and the lateness minutes of an arrival (R79 to R82, Table 5-2). -/
namespace Sys2Proof.Machine

/-! ### The band -/

section
variable {a bell close dl : Nat}

theorem bandAt_onTime (h : a ≤ bell) : bandAt a bell close dl = .onTime := if_pos h
theorem bandAt_veryLate (after : bell < a) (closed : close < a) : bandAt a bell close dl = .veryLate := by
  unfold bandAt; rw [if_neg (Nat.not_le.2 after), if_pos closed]
theorem bandAt_grace (after : bell < a) (before : a ≤ close) (spared : a ≤ dl) : bandAt a bell close dl = .grace := by
  unfold bandAt; rw [if_neg (Nat.not_le.2 after), if_neg (Nat.not_lt.2 before), if_pos spared]
theorem bandAt_late (after : bell < a) (before : a ≤ close) (missed : dl < a) : bandAt a bell close dl = .late := by
  unfold bandAt; rw [if_neg (Nat.not_le.2 after), if_neg (Nat.not_lt.2 before), if_neg (Nat.not_le.2 missed)]

/-- Past the bell, and past the close or the deadline, an arrival is late. -/
theorem bandAt_isLate (after : bell < a) (missed : close < a ∨ dl < a) : (bandAt a bell close dl).isLate = true := by
  by_cases closed : close < a
  · rw [bandAt_veryLate after closed]; rfl
  · rw [bandAt_late after (Nat.not_lt.1 closed) (missed.resolve_left closed)]; rfl

/-- The times alone give one of four bands. -/
theorem bandAt_cases (a bell close dl : Nat) : bandAt a bell close dl = .onTime ∨ bandAt a bell close dl = .grace ∨
    (bandAt a bell close dl = .late ∨ bandAt a bell close dl = .veryLate) := by
  unfold bandAt; split_ifs <;> simp

end

/-- Lateness minutes round the time since the bell up to whole minutes. -/
theorem latenessMinutes_ceil {a bell : Nat} (after : bell < a) :
    60 * (latenessMinutes a bell - 1) < a - bell ∧ a - bell ≤ 60 * latenessMinutes a bell := by
  unfold latenessMinutes; omega

theorem isLate_iff (b : Band) : b.isLate = true ↔ b = .late ∨ b = .veryLate := by cases b <;> simp [Band.isLate]

/-! ### LATE_EXPECTED -/

theorem lateExcuse_some_iff {d : Device} {roll : Nat} {x : Excuse} : d.lateExcuse roll = some x ↔
    d.ae.excuseFor roll .lateExpected d.tb.date = some x ∧ d.tb.second ≤ 60 * x.minute + 59 := by
  unfold Device.lateExcuse Excuse.inTime
  rw [Option.filter_eq_some_iff, decide_eq_true_eq]
theorem lateExcuse_isSome_iff {d : Device} {roll : Nat} : (d.lateExcuse roll).isSome = true ↔
    ∃ x, d.ae.excuseFor roll .lateExpected d.tb.date = some x ∧ d.tb.second ≤ 60 * x.minute + 59 := by
  simp only [Option.isSome_iff_exists, lateExcuse_some_iff]

/-! ### The judgement -/

/-- A band by the times turned into the band and minutes of an arrival, an excuse taken (R81, R82). -/
def Device.judgedAs (d : Device) (roll bell : Nat) (b : Band) : Band × Nat :=
  if b.isLate then (if (d.lateExcuse roll).isSome then .lateExcused else b, latenessMinutes d.tb.second bell) else (b, 0)

/-- The close second of a due point (R79). -/
def Device.closeSecond (d : Device) (q : DuePoint) : Nat :=
  match d.closeMinute q.point q.site with
  | some ec => 60 * ec
  | none => 86399

section
variable {d : Device} {p : Pupil} {q : DuePoint}

theorem judge_due {e : RosterEntry} (due : e.due = some q) : d.judge p e = d.judgeAt p q := by unfold Device.judge; rw [due]

theorem judgeAt_closed (closed : d.startMinute q.point q.site = none) : d.judgeAt p q = (.onTime, 0) := by
  unfold Device.judgeAt; rw [closed]

theorem judgeAt_opened {es : Nat} (opened : d.startMinute q.point q.site = some es) : d.judgeAt p q =
    d.judgedAs p.roll (60 * es)
      (bandAt d.tb.second (60 * es) (d.closeSecond q) (deadline (60 * es) (d.graceFor p q.site))) := by
  have close : ((d.closeMinute q.point q.site).map (60 * ·)).getD Config.lastSecond = d.closeSecond q := by
    unfold Device.closeSecond; cases d.closeMinute q.point q.site <;> rfl
  unfold Device.judgeAt; rw [opened]; dsimp only; rw [close]; rfl

end

section
variable {d : Device} {roll bell : Nat} {b : Band}

theorem judgedAs_punctual (punctual : b.isLate = false) : d.judgedAs roll bell b = (b, 0) := by
  unfold Device.judgedAs; rw [punctual]; rfl
theorem judgedAs_late (late : b.isLate = true) : d.judgedAs roll bell b =
    (if (d.lateExcuse roll).isSome then .lateExcused else b, latenessMinutes d.tb.second bell) := if_pos late
theorem judgedAs_excused (late : b.isLate = true) (excused : (d.lateExcuse roll).isSome = true) :
    (d.judgedAs roll bell b).1 = .lateExcused := by rw [judgedAs_late late, if_pos excused]
theorem judgedAs_unexcused (late : b.isLate = true) (unexcused : ¬ (d.lateExcuse roll).isSome = true) :
    (d.judgedAs roll bell b).1 = b := by rw [judgedAs_late late, if_neg unexcused]

end

/-- Settles O34: the point closed or open, and on an open one the bell, the close and the deadline in the order of Table 5-2. -/
theorem latenessIsJudged : Obligations.LatenessIsJudged := by
  intro d p q a slots minuteOf
  refine ⟨fun e due => judge_due due, fun closed => judgeAt_closed closed, fun es opened => ?_⟩
  intro bell close grace dl excused
  have judged : d.judgeAt p q = d.judgedAs p.roll bell (bandAt a bell close dl) := judgeAt_opened opened
  have excused_iff : (d.lateExcuse p.roll).isSome = true ↔ excused := lateExcuse_isSome_iff
  rw [judged]
  refine ⟨fun early => ?_, fun after before spared => ?_, fun after closed => ?_, fun after before missed => ?_,
    fun after missed => ?_⟩
  · rw [bandAt_onTime early, judgedAs_punctual rfl]
  · rw [bandAt_grace after before spared, judgedAs_punctual rfl]
  · rw [bandAt_veryLate after closed]
    exact ⟨fun h => judgedAs_excused rfl (excused_iff.2 h), fun h => judgedAs_unexcused rfl (mt excused_iff.1 h)⟩
  · rw [bandAt_late after before missed]
    exact ⟨fun h => judgedAs_excused rfl (excused_iff.2 h), fun h => judgedAs_unexcused rfl (mt excused_iff.1 h)⟩
  · rw [judgedAs_late (bandAt_isLate after missed)]
    exact latenessMinutes_ceil after

end Sys2Proof.Machine
end

section
/-! O35: a judged arrival: the entry, the excuses, the tallies and the notices (R63, R82, R84, R86). -/
namespace Sys2Proof.Machine

/-! ### The band an arrival may have -/

theorem judgedAs_band {d : Device} {roll bell : Nat} {timed b : Band} {m : Nat}
    (four : timed = .onTime ∨ timed = .grace ∨ timed = .late ∨ timed = .veryLate) (h : d.judgedAs roll bell timed = (b, m)) :
    b ≠ .desk ∧ (b = .lateExcused → ∃ x, d.lateExcuse roll = some x) := by
  have itself : b = timed → b ≠ .desk ∧ (b = .lateExcused → ∃ x, d.lateExcuse roll = some x) := by
    rintro rfl
    rcases four with rfl | rfl | rfl | rfl <;> exact ⟨nofun, nofun⟩
  unfold Device.judgedAs at h
  split_ifs at h with late excused <;> cases h
  · exact ⟨nofun, fun _ => Option.isSome_iff_exists.1 excused⟩
  · exact itself rfl
  · exact itself rfl

/-- An arrival has a band of Table 5-2: never DESK, and LATE_EXCUSED only by an excuse that covers it. -/
theorem judge_band {d : Device} {p : Pupil} {e : RosterEntry} {b : Band} {m : Nat} (h : d.judge p e = (b, m)) :
    b ≠ .desk ∧ (b = .lateExcused → ∃ x, d.lateExcuse p.roll = some x) := by
  have plain : (Band.onTime, 0) = (b, m) → b ≠ .desk ∧ (b = .lateExcused → ∃ x, d.lateExcuse p.roll = some x) := by
    rintro ⟨⟩; exact ⟨nofun, nofun⟩
  unfold Device.judge at h
  split at h
  · exact plain h
  · rename_i q _
    cases opened : d.startMinute q.point q.site with
    | none => exact plain ((judgeAt_closed opened).symm.trans h)
    | some es =>
      rw [judgeAt_opened opened] at h
      exact judgedAs_band (bandAt_cases _ _ _ _) h

theorem rosterState_judged {b : Band} (h : b ≠ .desk) : b.rosterState = if b = .onTime ∨ b = .grace then .present else .late := by
  cases b
  case desk => exact absurd rfl h
  all_goals rfl

/-! ### Marks -/

/-- The excuses with the one of a pupil that a reference names marked. -/
def markedExcuses (roll : Nat) (r : ExcuseRef) (st : ExcuseState) (l : List Excuse) : List Excuse :=
  l.map fun x => if x.pupil = roll ∧ x.kind = r.kind ∧ x.first = r.first then { x with state := st } else x

theorem markExcuse_eq (roll : Nat) (r : ExcuseRef) (st : ExcuseState) (ae : Attendance) :
    ae.markExcuse roll r st = { ae with excuses := markedExcuses roll r st ae.excuses } := by
  simp only [Attendance.markExcuse, markedExcuses, Bool.and_eq_true, beq_iff_eq, and_assoc]

theorem overridden_iff {e : RosterEntry} {r : ExcuseRef} :
    e.overridden = some r ↔ (e.state = .explained ∨ e.state = .excusedAway) ∧ e.excuseRef = some r := by
  unfold RosterEntry.overridden RosterState.excusedState
  cases e.state <;> simp

/-- The excuses after R63's mark. -/
def RosterEntry.overriddenIn (e : RosterEntry) (l : List Excuse) : List Excuse :=
  match e.overridden with
  | some r => markedExcuses e.roll r .overridden l
  | none => l

theorem overriddenIn_some {e : RosterEntry} {r : ExcuseRef} (h : e.overridden = some r) (l : List Excuse) :
    e.overriddenIn l = markedExcuses e.roll r .overridden l := by unfold RosterEntry.overriddenIn; rw [h]
theorem overriddenIn_none {e : RosterEntry} (h : e.overridden = none) (l : List Excuse) : e.overriddenIn l = l := by
  unfold RosterEntry.overriddenIn; rw [h]

/-! ### The entry -/

/-- The Attendance Engine with the entry of a judged arrival, its reference taken by ref, and the excuses given. -/
def Attendance.arrived (e : RosterEntry) (b : Band) (second : Nat) (ref : RosterEntry → Option ExcuseRef) (excuses : List Excuse)
    (ae : Attendance) : Attendance :=
  { ae.onEntry e.roll fun x => { x with
      state := if b = .onTime ∨ b = .grace then .present else .late
      band := some b, arrivalSecond := some second, excuseRef := ref x } with excuses := excuses }

theorem onEntry_onEntry (roll : Nat) {f : RosterEntry → RosterEntry} (hf : ∀ e, (f e).roll = e.roll) (g : RosterEntry → RosterEntry)
    (ae : Attendance) : (ae.onEntry roll f).onEntry roll g = ae.onEntry roll fun e => g (f e) := by
  have entry (e : RosterEntry) : (if (if e.roll == roll then f e else e).roll == roll then g (if e.roll == roll then f e else e)
      else if e.roll == roll then f e else e) = if e.roll == roll then g (f e) else e := by
    by_cases h : (e.roll == roll) = true
    · rw [if_pos h, if_pos (by rw [hf]; exact h), if_pos h]
    · rw [if_neg h, if_neg h, if_neg h]
  simp only [Attendance.onEntry, Option.map_map, Function.comp_def, List.map_map, entry]

/-- The entry of a judged arrival moved by R63, its reference left as it was. -/
def Attendance.movedBy (e : RosterEntry) (b : Band) (second : Nat) (ae : Attendance) : Attendance :=
  ae.onEntry e.roll fun x => { x with state := b.rosterState, band := some b, arrivalSecond := some second }

/-- The excuse that R63 overrides marked. -/
def Attendance.overriding (e : RosterEntry) (ae : Attendance) : Attendance := { ae with excuses := e.overriddenIn ae.excuses }

theorem overriding_eq (e : RosterEntry) (ae : Attendance) : ae.overriding e = match e.overridden with
    | some r => ae.markExcuse e.roll r .overridden
    | none => ae := by
  unfold Attendance.overriding RosterEntry.overriddenIn
  cases e.overridden with
  | none => rfl
  | some r => exact (markExcuse_eq _ _ _ _).symm

section
variable {e : RosterEntry} {b : Band} {second : Nat} {ae : Attendance}

theorem movedBy_overriding (judged : b ≠ .desk) :
    (ae.movedBy e b second).overriding e = ae.arrived e b second (·.excuseRef) (e.overriddenIn ae.excuses) := by
  unfold Attendance.movedBy; rw [rosterState_judged judged]; rfl

theorem judgedEntry_unexcused (x : Option Excuse) (timed : b ≠ .lateExcused) :
    judgedEntry e b second x ae = (ae.movedBy e b second).overriding e := by
  rw [overriding_eq]
  cases b
  case lateExcused => exact absurd rfl timed
  all_goals rfl
theorem judgedEntry_excused (x : Excuse) : judgedEntry e .lateExcused second (some x) ae =
    if e.overridden = some x.ref then (ae.movedBy e .lateExcused second).overriding e
    else (((ae.movedBy e .lateExcused second).overriding e).markExcuse e.roll x.ref .applied).onEntry e.roll
      fun y => { y with excuseRef := some x.ref } := by
  rw [overriding_eq]; rfl

/-- The entry keeps its reference, but where LATE_EXCUSED comes by an excuse that R63 does not override. -/
theorem judgedEntry_keepsRef (judged : b ≠ .desk) {x : Option Excuse}
    (h : b ≠ .lateExcused ∨ ∃ y, x = some y ∧ e.overridden = some y.ref) :
    judgedEntry e b second x ae = ae.arrived e b second (·.excuseRef) (e.overriddenIn ae.excuses) := by
  rw [← movedBy_overriding judged]
  by_cases timed : b = .lateExcused
  · obtain ⟨y, rfl, overrides⟩ := h.resolve_left (not_not.2 timed)
    rw [timed, judgedEntry_excused, if_pos overrides]
  · exact judgedEntry_unexcused x timed

/-- An excuse that makes LATE_EXCUSED becomes the reference, APPLIED, after R63's mark. -/
theorem judgedEntry_takesRef {x : Excuse} (other : e.overridden ≠ some x.ref) :
    judgedEntry e .lateExcused second (some x) ae = ae.arrived e .lateExcused second (fun _ => some x.ref)
      (markedExcuses e.roll x.ref .applied (e.overriddenIn ae.excuses)) := by
  rw [judgedEntry_excused, if_neg other, movedBy_overriding (by decide), markExcuse_eq]
  have entry := onEntry_onEntry e.roll (f := fun y => { y with
    state := .late, band := some .lateExcused, arrivalSecond := some second }) (fun _ => rfl)
    (fun y => { y with excuseRef := some x.ref }) ae
  exact congrArg (fun ae' : Attendance => { ae with
    roster := ae'.roster, excuses := markedExcuses e.roll x.ref .applied (e.overriddenIn ae.excuses) }) entry

end

/-! ### Resolution and verdicts -/

/-- The verdict on an arrival of an entry (R83, R88). -/
def Device.verdictOn (d : Device) (a : Arrival) (e : RosterEntry) (v : Verdict) (lateness : Nat) : VerdictRecord :=
  ⟨v, e.roll, lateness, e.due.bind fun q => if q.site = a.site then none else some q.site, d.tb.second⟩

theorem wrongSite_eq (e : RosterEntry) (site : Nat) :
    wrongSite e site = e.due.bind fun q => if q.site = site then none else some q.site := by
  unfold wrongSite; cases e.due <;> rfl

section
variable {d : Device} {a : Arrival} {p : Pupil} {e : RosterEntry}

theorem resolve_keyed (keyed : a.keyed = true) : d.resolve a =
    if 1 ≤ a.number ∧ a.number ≤ 2400 then d.ae.pupils.find? (·.roll == a.number) else none := if_pos keyed
theorem resolve_card (carded : a.keyed = false) : d.resolve a = d.ae.pupils.find? (·.card == some a.number) :=
  if_neg (Bool.eq_false_iff.1 carded)

theorem timedEntry_none {roll : Nat} (h : d.tb.validity = .invalid ∨ d.ae.roster = none) : d.timedEntry roll = none := by
  unfold Device.timedEntry
  rcases h with invalid | none
  · rw [(clockValid_false_iff d).2 invalid]; rfl
  · unfold Attendance.entry; rw [none]; exact ite_self _
theorem timedEntry_valid {roll : Nat} (valid : d.tb.validity = .valid) : d.timedEntry roll = d.ae.entry roll :=
  if_pos ((clockValid_iff d).2 valid)

theorem takeArrival_unresolved (unresolved : d.resolve a = none) : takeArrival a d = (⟨.unknownCard, 0, 0, none, d.tb.second⟩,
    appendJournal (journalOf a false ⟨.unknownCard, 0, 0, none, d.tb.second⟩ false d.tb.date) d) := by
  unfold takeArrival; rw [unresolved]

variable (resolved : d.resolve a = some p)
include resolved

theorem takeArrival_untimed (untimed : d.timedEntry p.roll = none) :
    takeArrival a d = (⟨.untimed, p.roll, 0, none, d.tb.second⟩,
      appendJournal (journalOf a true ⟨.untimed, p.roll, 0, none, d.tb.second⟩ false d.tb.date) d) := by
  unfold takeArrival; rw [resolved]; dsimp only; rw [untimed]
theorem takeArrival_timed (timed : d.timedEntry p.roll = some e) : takeArrival a d = timedArrival a p e d := by
  unfold takeArrival; rw [resolved]; dsimp only; rw [timed]

end

/-! ### Tallies and notices -/

theorem tallied_eq (b : Band) (m : Nat) (p : Pupil) : p.tallied b m = { p with
    latePoints := min 255 (p.latePoints + if b = .late then 1 else if b = .veryLate then 2 else 0)
    lateMinutes := min 65535 (p.lateMinutes + m) } := by
  cases b <;> rfl

theorem submit_ae (n : Notice) (d : Device) : (submit n d).ae = d.ae := by
  unfold submit; split
  · rfl
  · obtain ⟨-, -, -, ae⟩ := toCalls_leaves .queueFull none n d
    exact ae
theorem compose_ae (body : NoticeBody) (pupil contact key step subjectDay : Nat) (d : Device) :
    (compose body pupil contact key step subjectDay d).ae = d.ae := submit_ae _ _
theorem composeLateness_ae (body : NoticeBody) (roll : Nat) (d : Device) : (composeLateness body roll d).ae = d.ae := by
  unfold composeLateness; split
  · exact compose_ae _ _ _ _ _ _ _
  · rfl

/-- The absence-notice rule leaves the late step: of the Attendance Engine it moves the sweeps alone. -/
theorem absenceRuleFor_lateStep (asArrival : Bool) (roll : Nat) (tag : Option Nat) (d : Device) :
    (absenceRuleFor asArrival roll tag d).ae.lateStep = d.ae.lateStep := by
  have arrived (roll t contact key step : Nat) (b : Device) :
      (composeArrived roll t contact key step b).ae.lateStep = b.ae.lateStep := by
    unfold composeArrived; rw [compose_ae]
  unfold absenceRuleFor absenceRule
  split
  · rfl
  · split
    · rfl
    · split
      · split
        · exact arrived _ _ _ _ _ _
        · rfl
      · split
        · split
          · exact arrived _ _ _ _ _ (leaveAwaiting _ d)
          · rfl
        · split
          · rfl
          · split
            · split
              · exact arrived _ _ _ _ _ _
              · rfl
            · rfl

section
variable {e : RosterEntry} {b : Band} {m old new : Nat} {c d : Device}

/-- The absence-notice rule that an arrival brings to an entry that was UNEXPLAINED or EXPLAINED (R63, R70). -/
def followAbsence (e : RosterEntry) (c : Device) : Device :=
  if e.state = .unexplained ∨ e.state = .explained then absenceRuleFor true e.roll e.absenceTag c else c

theorem followAbsence_eq (e : RosterEntry) (c : Device) :
    (if e.state.notified then absenceRuleFor true e.roll e.absenceTag c else c) = followAbsence e c := by
  unfold followAbsence RosterState.notified
  cases e.state <;> rfl
theorem followAbsence_ss (e : RosterEntry) (c : Device) : (followAbsence e c).ss = c.ss := by
  unfold followAbsence; split
  · exact (absenceRuleFor_move _ _ _ _).ss
  · rfl
theorem followAbsence_lateStep (e : RosterEntry) (c : Device) : (followAbsence e c).ae.lateStep = c.ae.lateStep := by
  unfold followAbsence; split
  · exact absenceRuleFor_lateStep _ _ _ _
  · rfl

/-- LATE_RECORDED on the device c, asked for by the settings of the device d. -/
def Device.recordLate (d : Device) (e : RosterEntry) (b : Band) (m : Nat) (c : Device) : Device :=
  match e.due with
  | some q => if (d.ss.site q.site).notifyEachLate then composeLateness (.lateRecorded b m) e.roll c else c
  | none => c
/-- LATE_PATTERN on the device c, asked for by the late step of the device d. -/
def Device.patternLate (d : Device) (e : RosterEntry) (b : Band) (old new : Nat) (c : Device) : Device :=
  if d.ae.lateStep ≠ 0 ∧ old / d.ae.lateStep < new / d.ae.lateStep then composeLateness (.latePattern new b) e.roll c else c

theorem askLateRecorded_by (same : c.ss = d.ss) : askLateRecorded e b m c = d.recordLate e b m c := by
  unfold askLateRecorded Device.recordLate; rw [same]
  cases e.due <;> rfl
theorem askLatePattern_by (same : c.ae.lateStep = d.ae.lateStep) :
    askLatePattern e.roll b old new c = d.patternLate e b old new c := by
  unfold askLatePattern Device.patternLate; rw [same]
theorem recordLate_lateStep : (d.recordLate e b m c).ae.lateStep = c.ae.lateStep := by
  unfold Device.recordLate; split
  · split
    · rw [composeLateness_ae]
    · rfl
  · rfl

/-- The notices of a judged arrival, asked for by the settings before it. -/
theorem judgedNotices_by (site : c.ss = d.ss) (step : c.ae.lateStep = d.ae.lateStep) : judgedNotices e b m old new c =
    if b = .late ∨ b = .veryLate then d.patternLate e b old new (d.recordLate e b m (followAbsence e c)) else followAbsence e c := by
  unfold judgedNotices; dsimp only
  rw [followAbsence_eq, askLateRecorded_by ((followAbsence_ss e c).trans site),
    askLatePattern_by (recordLate_lateStep.trans ((followAbsence_lateStep e c).trans step))]
  simp only [isLate_iff]

end

end Sys2Proof.Machine
end

section
/-! O35: an arrival by the state of the entry it finds (R63, R64, R75, Table 5-4). -/
namespace Sys2Proof.Machine

theorem excuseFor_kind {ae : Attendance} {roll date : Nat} {kind : ExcuseKind} {x : Excuse}
    (h : ae.excuseFor roll kind date = some x) : x.kind = kind := by
  have found := List.find?_some h
  simp only [Bool.and_eq_true, beq_iff_eq] at found
  obtain ⟨⟨-, same⟩, -⟩ := found
  exact same

theorem leavingExcuse_some_iff {d : Device} {roll : Nat} {x : Excuse} : d.leavingExcuse roll = some x ↔
    d.ae.excuseFor roll .leavingEarly d.tb.date = some x ∧ 60 * (x.minute - 30) ≤ d.tb.second := by
  unfold Device.leavingExcuse
  rw [Option.filter_eq_some_iff, decide_eq_true_eq]; rfl

theorem judged_iff (st : RosterState) : st.judged = true ↔
    st = .expected ∨ st = .provisional ∨ st = .unexplained ∨ st = .explained ∨ st = .excusedAway := by
  cases st <;> simp [RosterState.judged]
theorem canSignOut_iff (st : RosterState) : st.canSignOut = true ↔ st = .present ∨ st = .late ∨ st = .notDue := by
  cases st <;> simp [RosterState.canSignOut]

/-- Of the states judged, all but EXPECTED are absences. -/
theorem absence_judged {st : RosterState} (judged : st.judged = true) : st.absence = decide (st ≠ .expected) := by
  rcases (judged_iff st).1 judged with rfl | rfl | rfl | rfl | rfl <;> rfl

/-- The device on which a judged arrival has reached the roster, the excuses and the tallies, and the journal. -/
def Device.arrivedAs (d : Device) (a : Arrival) (p : Pupil) (e : RosterEntry) (b : Band) (m : Nat) (ae : Attendance) : Device :=
  appendJournal (journalOf a true (d.verdictOn a e b.verdict m) (decide (e.state ≠ .expected)) d.tb.date)
    { d with ae := ae.onPupil p.roll fun _ => p.tallied b m }

theorem plainArrival_eq (a : Arrival) (v : Verdict) (e f : RosterEntry) (d : Device) : plainArrival a v e f d =
    (d.verdictOn a e v 0,
      appendJournal (journalOf a true (d.verdictOn a e v 0) false d.tb.date) (d.onAe (·.onEntry e.roll fun _ => f))) := by
  unfold plainArrival Device.verdictOn; rw [wrongSite_eq]

section
variable {d : Device} {a : Arrival} {p : Pupil} {e : RosterEntry}

theorem timedArrival_in (inward : a.inward = true) (unjudged : e.state.judged = false) :
    timedArrival a p e d = plainArrival a (unjudgedIn d.tb.second e).1 e (unjudgedIn d.tb.second e).2 d := by
  unfold timedArrival; rw [if_pos inward, if_neg (Bool.eq_false_iff.1 unjudged)]
theorem timedArrival_judged (inward : a.inward = true) (judged : e.state.judged = true) :
    timedArrival a p e d = judgedArrival a p e d := by
  unfold timedArrival; rw [if_pos inward, if_pos judged]
theorem timedArrival_notIn (outward : a.inward = false) (absent : ¬ e.state.canSignOut = true) :
    timedArrival a p e d = plainArrival a .notIn e e d := by
  unfold timedArrival; rw [if_neg (Bool.eq_false_iff.1 outward), if_neg absent]
theorem timedArrival_signOut (outward : a.inward = false) (present : e.state.canSignOut = true) :
    timedArrival a p e d = signOutArrival a e d := by
  unfold timedArrival; rw [if_neg (Bool.eq_false_iff.1 outward), if_pos present]

theorem timedArrival_alreadyIn (inward : a.inward = true) (h : e.state = .present ∨ e.state = .late) :
    timedArrival a p e d = plainArrival a .alreadyIn e e d := by
  rcases h with h | h <;> rw [timedArrival_in inward (by rw [h]; rfl)] <;> unfold unjudgedIn <;> rw [h]
theorem timedArrival_notExpected (inward : a.inward = true) (h : e.state = .notDue) : timedArrival a p e d =
    plainArrival a .notExpected e { e with arrivalSecond := some (e.arrivalSecond.getD d.tb.second) } d := by
  rw [timedArrival_in inward (by rw [h]; rfl)]; unfold unjudgedIn; rw [h]
theorem timedArrival_returned (inward : a.inward = true) (h : e.state = .out) {before : RosterState} (prior : e.prior = some before) :
    timedArrival a p e d = plainArrival a .returned e { e with
      state := before, returnSecond := some d.tb.second, prior := none } d := by
  rw [timedArrival_in inward (by rw [h]; rfl)]; unfold unjudgedIn; rw [h, prior]; rfl

/-- A judged arrival, its entry and excuses given: the tallies, one journal record, and then the notices of R86. -/
theorem judgedArrival_eq {b : Band} {m : Nat} {ae : Attendance} (same : e.roll = p.roll) (judged : e.state.judged = true)
    (h : d.judge p e = (b, m)) (entered : judgedEntry e b d.tb.second (d.lateExcuse p.roll) d.ae = ae)
    (step : ae.lateStep = d.ae.lateStep) :
    judgedArrival a p e d = (d.verdictOn a e b.verdict m,
      if b = .late ∨ b = .veryLate then
        d.patternLate e b p.latePoints (p.tallied b m).latePoints (d.recordLate e b m (followAbsence e (d.arrivedAs a p e b m ae)))
      else followAbsence e (d.arrivedAs a p e b m ae)) := by
  have notices := judgedNotices_by (e := e) (b := b) (m := m) (old := p.latePoints) (new := (p.tallied b m).latePoints)
    (c := d.arrivedAs a p e b m ae) (d := d) rfl step
  rw [← notices]
  unfold judgedArrival Device.arrivedAs Device.verdictOn
  rw [h, ← absence_judged judged, wrongSite_eq, same]
  dsimp only [Device.onAe]
  rw [entered]

variable (a) in
theorem signOutArrival_excused {x : Excuse} (excused : d.leavingExcuse e.roll = some x) : signOutArrival a e d =
    (d.verdictOn a e .signedOut 0, appendJournal (journalOf a true (d.verdictOn a e .signedOut 0) false d.tb.date)
      ((d.onAe (·.onEntry e.roll (RosterEntry.signedOut a.reason))).onAe (Attendance.excuseTaken x .out))) := by
  unfold signOutArrival Device.verdictOn; rw [wrongSite_eq, excused]
variable (a) in
theorem signOutArrival_unexcused (unexcused : d.leavingExcuse e.roll = none) : signOutArrival a e d =
    (d.verdictOn a e .signedOut 0, composeLeftSite a.reason e.roll
      (appendJournal (journalOf a true (d.verdictOn a e .signedOut 0) false d.tb.date)
        (d.onAe (·.onEntry e.roll (RosterEntry.signedOut a.reason))))) := by
  unfold signOutArrival Device.verdictOn; rw [wrongSite_eq, unexcused]

end

end Sys2Proof.Machine
end

section
/-! O35: how lateness notices and LEFT_SITE are composed (R64, R86, R110 to R112), and the obligation. -/
namespace Sys2Proof.Machine

theorem submit_routine_room {n : Notice} {d : Device} (routine : n.cls = .routine) (room : d.nu.queueCount < 240) :
    submit n d = { d with nu.routine := d.nu.routine ++ [n] } := by
  unfold submit NoticeUnit.enqueue; rw [routine]; exact if_pos (decide_eq_true room)
theorem submit_routine_full {n : Notice} {d : Device} (routine : n.cls = .routine) (full : 240 ≤ d.nu.queueCount) :
    submit n d = toCalls .queueFull none n d := by
  unfold submit; rw [routine]; exact if_neg (mt of_decide_eq_true (Nat.not_lt.2 full))

theorem tagGiven_queueCount (tag : Nat) (d : Device) : (d.tagGiven tag).nu.queueCount = d.nu.queueCount := by
  simp only [NoticeUnit.queueCount, tagGiven_nu_urgent, tagGiven_nu_routine, tagGiven_nu_bulk]

section
variable {body : NoticeBody} {pupil contact key step subjectDay : Nat} {d : Device}

theorem compose_routine_room (routine : body.cls = .routine) (room : d.nu.queueCount < 240) :
    compose body pupil contact key step subjectDay d = { d.tagGiven d.freeTag with
      nu.routine := d.nu.routine ++ [d.newNotice body pupil contact key step subjectDay] } :=
  submit_routine_room routine (by rw [tagGiven_queueCount]; exact room)
theorem compose_routine_full (routine : body.cls = .routine) (full : 240 ≤ d.nu.queueCount) :
    compose body pupil contact key step subjectDay d =
      toCalls .queueFull none (d.newNotice body pupil contact key step subjectDay) (d.tagGiven d.freeTag) :=
  submit_routine_full routine (by rw [tagGiven_queueCount]; exact full)
theorem compose_urgent_room (urgent : body.cls = .urgent) (room : d.nu.queueCount < 256) :
    compose body pupil contact key step subjectDay d = { d.tagGiven d.freeTag with
      nu.urgent := d.nu.urgent ++ [d.newNotice body pupil contact key step subjectDay] } :=
  submit_urgent_room urgent (by rw [tagGiven_queueCount]; exact room)
theorem compose_urgent_full (urgent : body.cls = .urgent) (full : 256 ≤ d.nu.queueCount) :
    compose body pupil contact key step subjectDay d =
      toCalls .queueFull none (d.newNotice body pupil contact key step subjectDay) (d.tagGiven d.freeTag) :=
  submit_urgent_full urgent (by rw [tagGiven_queueCount]; exact full)

end

section
variable {d : Device} {roll : Nat}

theorem composeLateness_unheard (body : NoticeBody) (none : d.ae.notifiable roll 0 = none) : composeLateness body roll d = d := by
  unfold composeLateness; rw [none]
theorem composeLeftSite_unheard (reason : SignOut) (none : d.ae.notifiable roll 0 = none) :
    composeLeftSite reason roll d = composeNoContact (.leftSite reason) roll d := by
  unfold composeLeftSite; rw [none]

variable {k : Nat} {c : Contact} (heard : d.ae.notifiable roll 0 = some (k, c))
include heard

theorem composeLateness_heard (body : NoticeBody) :
    composeLateness body roll d = compose body roll c.index c.key k d.tb.date d := by
  unfold composeLateness; rw [heard]
theorem composeLeftSite_heard (reason : SignOut) :
    composeLeftSite reason roll d = compose (.leftSite reason) roll c.index c.key k d.tb.date d := by
  unfold composeLeftSite; rw [heard]

end

theorem journalOf_eq (a : Arrival) (resolved overridden : Bool) (v : VerdictRecord) (date : Nat) :
    journalOf a resolved v overridden date = {
      serial := 0, date := date, second := v.second, station := a.station, roll := v.roll
      card := if a.keyed = true ∧ resolved = true then 0 else a.number
      direction := if a.inward then .inward else .outward
      signOut := if a.inward then none else some a.reason
      verdict := v.verdict, lateness := v.lateness, wrongSite := v.dueSite.isSome
      excuseOverridden := overridden, keyed := a.keyed } := by
  simp only [journalOf, Bool.and_eq_true]

/-- Settles O35: an arrival by its resolution, by whether it is timed, and by the state of the entry it finds; then the parts. -/
theorem arrivalsAreTaken : Obligations.ArrivalsAreTaken := by
  refine ⟨fun d a => ?_, ⟨rfl, rfl, rfl, rfl, rfl⟩, fun d body roll routine => ?_, fun d a => ⟨resolve_keyed, resolve_card⟩,
    fun d roll x => ⟨fun kind date => ?_, leavingExcuse_some_iff⟩, journalOf_eq, fun d reason roll => ?_⟩
  · intro verdict
    refine ⟨takeArrival_unresolved, fun p resolved untimed => takeArrival_untimed resolved (timedEntry_none untimed),
      fun p e resolved valid entry => ?_⟩
    intro onEntry plain
    have same : e.roll = p.roll := entry_roll entry
    have taken : takeArrival a d = timedArrival a p e d := takeArrival_timed resolved ((timedEntry_valid valid).trans entry)
    have plainly {v : Verdict} {f : RosterEntry} (h : timedArrival a p e d = plainArrival a v e f d) : plain v f :=
      taken.trans (h.trans (plainArrival_eq a v e f d))
    refine ⟨fun inward h => plainly (timedArrival_alreadyIn inward h), fun inward h => plainly (timedArrival_notExpected inward h),
      fun inward h before prior => plainly (timedArrival_returned inward h prior),
      fun outward present late notDue => plainly (timedArrival_notIn outward fun h => ?_), fun b m inward states judge => ?_,
      fun outward states => ?_⟩
    · rcases (canSignOut_iff _).1 h with h | h | h
      · exact present h
      · exact late h
      · exact notDue h
    · intro excused points mark arrived recorded patterned takes overridden before
      have judged : e.state.judged = true := (judged_iff _).2 states
      obtain ⟨notDesk, covered⟩ := judge_band judge
      have takesOf {ref : RosterEntry → Option ExcuseRef} {excuses : List Excuse}
          (entered : judgedEntry e b d.tb.second (d.lateExcuse p.roll) d.ae = d.ae.arrived e b d.tb.second ref excuses) :
          takes (arrived ref excuses) := by
        have all := judgedArrival_eq (a := a) same judged judge entered rfl
        unfold Device.arrivedAs at all
        rw [tallied_eq] at all
        exact (taken.trans (timedArrival_judged inward judged)).trans all
      have beforeOf {ref : RosterEntry → Option ExcuseRef} {further : List Excuse → List Excuse}
          (entered : judgedEntry e b d.tb.second (d.lateExcuse p.roll) d.ae =
            d.ae.arrived e b d.tb.second ref (further (e.overriddenIn d.ae.excuses))) : before ref further := by
        refine ⟨fun r overrides => takesOf ?_, fun kept => takesOf ?_⟩
        · rw [entered, overriddenIn_some (overridden_iff.2 overrides)]; rfl
        · rw [entered, overriddenIn_none (Option.eq_none_iff_forall_ne_some.2 fun r h => kept r (overridden_iff.1 h))]
      refine ⟨fun other => beforeOf (judgedEntry_keepsRef notDesk (.inl other)), fun x late found => ?_⟩
      have byExcuse : d.lateExcuse p.roll = some x := by
        obtain ⟨y, hy⟩ := covered late
        have first := (lateExcuse_some_iff.1 hy).1
        rw [← same, found] at first
        rw [hy, ← first]
      have ref : x.ref = ⟨.lateExpected, x.first⟩ := by unfold Excuse.ref; rw [excuseFor_kind found]
      refine ⟨fun overrides => beforeOf (judgedEntry_keepsRef notDesk (.inr ⟨x, byExcuse, ?_⟩)), fun other => beforeOf ?_⟩
      · rw [ref]; exact overridden_iff.2 overrides
      · rw [byExcuse, late, judgedEntry_takesRef (by rw [ref]; exact mt overridden_iff.1 other), ref]; rfl
    · intro left record
      have signs := taken.trans (timedArrival_signOut outward ((canSignOut_iff _).2 states))
      exact ⟨fun x excused => signs.trans (signOutArrival_excused a excused),
        fun unexcused => signs.trans (signOutArrival_unexcused a unexcused)⟩
  · refine ⟨composeLateness_unheard body, fun k c heard => ?_⟩
    intro n given
    rw [composeLateness_heard heard body]
    exact ⟨fun room => compose_routine_room routine room, fun full => compose_routine_full routine full⟩
  · unfold Attendance.excuseFor Excuse.covers; rfl
  · intro n given asked
    refine ⟨composeLeftSite_unheard reason, fun k c heard => ?_⟩
    have composed : asked = compose (.leftSite reason) roll c.index c.key k d.tb.date d := composeLeftSite_heard heard reason
    rw [composed]
    exact ⟨fun room => compose_urgent_room rfl room, fun full => compose_urgent_full rfl full⟩

end Sys2Proof.Machine
end

section
/-! O36: the arrival journal (R89, R90). -/
namespace Sys2Proof.Machine

/-! ### Appending -/

section
variable {r : JournalRecord} {d : Device}

/-- With room, the record is appended and no cursor moves. -/
theorem appendJournal_room (room : d.ae.journal.length < 1024) : appendJournal r d = ({ d with
    ae.journal := d.ae.journal ++ [{ r with serial := d.ae.nextSerial }]
    ae.nextSerial := if 16777215 ≤ d.ae.nextSerial then 1 else d.ae.nextSerial + 1 } : Device).raise .journal := by
  have fits : ¬ Config.maxJournal ≤ d.ae.journal.length := Nat.not_le.2 room
  unfold appendJournal
  cases held : d.ae.journal with
  | nil => rw [held] at fits; simp only [fits, if_false]; rfl
  | cons oldest l => rw [held] at fits; simp only [fits, if_false, decide_false, Bool.false_and]; rfl

variable {oldest : JournalRecord} {l : List JournalRecord} (held : d.ae.journal = oldest :: l) (full : 1024 ≤ d.ae.journal.length)
include held full

/-- In a full journal the oldest record goes, and the cursor moves on where it stood there. -/
theorem appendJournal_full : appendJournal r d = ({ d with
    ae.journal := l ++ [{ r with serial := d.ae.nextSerial }]
    ae.nextSerial := if 16777215 ≤ d.ae.nextSerial then 1 else d.ae.nextSerial + 1
    op.readCursor := if oldest.serial = d.op.readCursor then (if 16777215 ≤ d.op.readCursor then 1 else d.op.readCursor + 1)
      else d.op.readCursor
    op.lostCount := if oldest.serial = d.op.readCursor then min 65535 (d.op.lostCount + 1) else d.op.lostCount } : Device).raise
      .journal := by
  have overfull : Config.maxJournal ≤ (oldest :: l).length := by rw [← held]; exact full
  unfold appendJournal
  rw [held]
  simp only [overfull, if_true, decide_true, Bool.true_and, beq_iff_eq]
  rfl

end

/-! ### Reading -/

/-- A request at a ready state is answered with what it serves. -/
theorem act_request_served {code tag : Nat} {serve : Device → Answer × Device} {s : State} {r : Answer × Device} (ready : Ready s)
    (h : serve s.dev = r) : act (request code tag serve) s = answers s tag code r.1 r.2 := by
  rw [act_request_ready ready, h]

section
variable {serial : Nat} {d : Device}

theorem releasedTo_ignored (unknown : ∀ r ∈ d.unread, r.serial ≠ serial) : d.releasedTo serial = d.op.readCursor :=
  if_neg (by simpa using unknown)
theorem releasedTo_known (known : ∃ r ∈ d.unread, r.serial = serial) :
    d.releasedTo serial = if 16777215 ≤ serial then 1 else serial + 1 := if_pos (by simpa using known)

theorem serveReadJournal_ignored (unknown : ∀ r ∈ d.unread, r.serial ≠ serial) : serveReadJournal serial d =
    (⟨.ok, { releaseIgnored := serial != 0 }, .journal (d.unread.take 8) d.unread.length d.op.lostCount⟩,
      { d with op.lostCount := 0 }) := by
  have absent : d.unread.any (·.serial == serial) = false := by simpa using unknown
  unfold serveReadJournal
  rw [releasedTo_ignored unknown, absent, Bool.not_false, Bool.and_true]; rfl

theorem serveReadJournal_released {cursor : Nat} (known : ∃ r ∈ d.unread, r.serial = serial)
    (moved : cursor = if 16777215 ≤ serial then 1 else serial + 1) : serveReadJournal serial d =
    (⟨.ok, {}, .journal ((d.ae.journal.dropWhile (·.serial != cursor)).take 8) (d.ae.journal.dropWhile (·.serial != cursor)).length
      d.op.lostCount⟩, { d with op.readCursor := cursor, op.lostCount := 0 }) := by
  have present : d.unread.any (·.serial == serial) = true := by simpa using known
  unfold serveReadJournal
  rw [releasedTo_known known, present, ← moved, Bool.not_true, Bool.and_false]; rfl

end

/-- Settles O36: an append by the journal's room and the oldest record's standing, a read by whether its serial is unread. -/
theorem journalIsKeptAndRead : Obligations.JournalIsKeptAndRead := by
  refine ⟨fun d r => ?_, fun s tag serial ready => ?_⟩
  · intro n after
    refine ⟨appendJournal_room, fun oldest l held full => ⟨fun read => ?_, fun unread => ?_⟩⟩
    · rw [appendJournal_full held full, if_neg read, if_neg read]
    · rw [appendJournal_full held full, if_pos unread, if_pos unread, ← unread]; rfl
  · intro unread
    exact ⟨fun unknown => act_request_served ready (serveReadJournal_ignored unknown),
      fun known _ => ⟨_, rfl, act_request_served ready (serveReadJournal_released known rfl)⟩⟩

end Sys2Proof.Machine
end

section
/-! O47: SET_LATE_STEP, SET_NOTICE_TIMES, SET_RELAY_LINK and their queries (R85, R119, R120, R148). -/
namespace Sys2Proof.Machine

section
variable {s : State} {code tag : Nat} {serve : Device → Answer × Device} {t : Answer × Device} (ready : Ready s)
include ready

/-- A request that only a rollover holds back is refused BUSY during one, and served otherwise. -/
theorem act_request_busy (active : s.dev.tb.rollover.isSome = true)
    (h : serve s.dev = checked s.dev [(s.dev.rolling, .busy)] t) : act (request code tag serve) s = refuses s tag code .busy :=
  act_request_served ready (h.trans (checked_fails (rolling_active active)))
theorem act_request_idle (idle : s.dev.tb.rollover = none)
    (h : serve s.dev = checked s.dev [(s.dev.rolling, .busy)] t) : act (request code tag serve) s = answers s tag code t.1 t.2 :=
  act_request_served ready (h.trans (checked_passes (rolling_idle idle)))

end

theorem clampNat_eq {lo hi : Nat} (h : lo ≤ hi) (n : Nat) : clampNat lo hi n = if n < lo then lo else if hi < n then hi else n := by
  unfold clampNat; split_ifs <;> omega

/-! ### Notice times -/

/-- The device with the notice times written, clamped (R120). -/
def Device.withNoticeTimes (timeout delay : Nat) (d : Device) : Device :=
  { d with nu.outcomeTimeout := clampNat 5 120 timeout, nu.fallbackDelay := clampNat 1 60 delay }

theorem serveSetNoticeTimes_idle {timeout delay : Nat} {d : Device} (idle : d.tb.rollover = none) :
    serveSetNoticeTimes timeout delay d =
      (okClamped (clampNat 5 120 timeout != timeout || clampNat 1 60 delay != delay) .empty,
        if d.rl.link = .up then d.withNoticeTimes timeout delay else fallBackAll (d.withNoticeTimes timeout delay)) :=
  checked_passes (rolling_idle idle)

theorem fallBack_noticeTimes (n : Notice) (d : Device) : (fallBack n d).nu.outcomeTimeout = d.nu.outcomeTimeout ∧
    (fallBack n d).nu.fallbackDelay = d.nu.fallbackDelay := by
  unfold fallBack toCalls addCall; split <;> exact ⟨rfl, rfl⟩
theorem fallBackAll_noticeTimes (d : Device) : (fallBackAll d).nu.outcomeTimeout = d.nu.outcomeTimeout ∧
    (fallBackAll d).nu.fallbackDelay = d.nu.fallbackDelay :=
  ⟨foldl_keeps (·.nu.outcomeTimeout) _ (fun e n => (fallBack_noticeTimes n e).1) _ _,
    foldl_keeps (·.nu.fallbackDelay) _ (fun e n => (fallBack_noticeTimes n e).2) _ _⟩

/-! ### The relay link's settings -/

section
variable {set : RelaySettings} {d : Device}

theorem writeSettings_stays (h : d.rl.link ≠ .down ∨ set.autoRestart = 0 ∨ d.rl.downFor < set.autoRestart) :
    writeSettings set d = { d with rl.settings := set } := by
  refine if_neg fun ⟨down, nonzero, passed⟩ => ?_
  rcases h with other | never | early
  · exact other down
  · exact nonzero never
  · exact Nat.not_le.2 early passed
theorem writeSettings_restarts (down : d.rl.link = .down) (nonzero : set.autoRestart ≠ 0) (passed : set.autoRestart ≤ d.rl.downFor) :
    writeSettings set d = enterStarting { d with rl.settings := set } := if_pos ⟨down, nonzero, passed⟩

end

section
variable {run threshold time limit silence delay : Nat} {autoStart : Bool} {d : Device}

theorem serveSetRelayLink_uncoded {setting : Nat} (h1 : setting ≠ 1) (h2 : setting ≠ 2) :
    serveSetRelayLink run threshold time limit silence delay setting d = refuse .range d := by
  unfold serveSetRelayLink; rw [enabledCode_none h1 h2]
theorem serveSetRelayLink_running (h : d.rl.link = .starting ∨ d.rl.link = .up) :
    serveSetRelayLink run threshold time limit silence delay (if autoStart then 1 else 2) d = refuse .state d := by
  unfold serveSetRelayLink; rw [enabledCode_of]
  exact checked_fails (by rcases h with h | h <;> rw [h] <;> rfl)
theorem serveSetRelayLink_resting (h : d.rl.link = .off ∨ d.rl.link = .down) :
    serveSetRelayLink run threshold time limit silence delay (if autoStart then 1 else 2) d =
      (okClamped (clampedSettings run threshold time limit silence delay autoStart !=
        ⟨run, threshold, time, limit, silence, delay, autoStart⟩) .empty,
        writeSettings (clampedSettings run threshold time limit silence delay autoStart) d) := by
  unfold serveSetRelayLink; rw [enabledCode_of]
  exact checked_passes (by rcases h with h | h <;> rw [h] <;> rfl)

/-- The settings written, the limits of Table 8-11 read as cases. -/
theorem clampedSettings_eq {within : Nat → Nat → Nat → Nat}
    (h : ∀ lo hi n, within lo hi n = if n < lo then lo else if hi < n then hi else n) :
    clampedSettings run threshold time limit silence delay autoStart =
      ⟨within 4 32 run, min (within 2 16 threshold) (within 4 32 run), within 50 2000 time, within 1 15 limit, within 2 30 silence,
        if delay = 0 then 0 else within 10 600 delay, autoStart⟩ := by
  simp only [clampedSettings, clampRestart, clampNat_eq, h, Nat.reduceLeDiff]

end

/-- Settles O47: each setting clamped and written by the state of the device, with what falls back or restarts at once. -/
theorem settingsAreClampedAndRead : Obligations.SettingsAreClampedAndRead := by
  refine ⟨fun s tag step ready => ⟨fun active => ?_, fun idle => ?_⟩, fun s tag timeout delay ⟨ready, idle⟩ => ?_,
    fun s tag run threshold time limit silence delay autoStart ready => ?_,
    fun s tag run threshold time limit silence delay setting ready h1 h2 =>
      act_request_served ready (serveSetRelayLink_uncoded h1 h2)⟩
  · exact ⟨act_request_busy (serve := serveSetLateStep step) ready active rfl, act_request_busy (serve := serveQueryLateStep) ready active rfl,
      act_request_busy (serve := serveSetNoticeTimes step step) ready active rfl,
      act_request_busy (serve := serveQueryNoticeTimes) ready active rfl⟩
  · refine ⟨(act_request_idle (serve := serveSetLateStep step) ready idle rfl).trans ?_,
      act_request_idle (serve := serveQueryLateStep) ready idle rfl, act_request_idle (serve := serveQueryNoticeTimes) ready idle rfl⟩
    rw [Nat.min_comm]; rfl
  · intro t f set a
    have ht : clampNat 5 120 timeout = t := clampNat_eq (by decide) _
    have hf : clampNat 1 60 delay = f := clampNat_eq (by decide) _
    have written : s.dev.withNoticeTimes timeout delay = set := by unfold Device.withNoticeTimes; rw [ht, hf]
    have answer : okClamped (clampNat 5 120 timeout != timeout || clampNat 1 60 delay != delay) .empty = a := by
      rw [ht, hf]
      refine congrArg (okClamped · .empty) ?_
      rw [Bool.eq_iff_iff]; simp
    have request : exec (.setNoticeTimes tag timeout delay) s =
        answers s tag 46 a (if s.dev.rl.link = .up then set else fallBackAll set) := by
      refine (act_request_served ready (serveSetNoticeTimes_idle idle)).trans ?_
      rw [written, answer]
    rw [request]
    refine ⟨fun h => ?_, fun down => ?_⟩
    · refine congrArg (answers s tag 46 a) (ite_eq_left_iff.2 fun down => ?_)
      exact fallBackAll_young (d := set) (h.resolve_left down)
    · rw [if_neg down]
      obtain ⟨timeout', delay'⟩ := fallBackAll_noticeTimes set
      refine ⟨_, rfl, ?_, timeout', delay', fallBackAll_leaves set⟩
      unfold fallBackAll NoticeUnit.fallbackSeconds
      rw [Nat.mul_comm]; rfl
  · intro within asked set a request
    have written : clampedSettings run threshold time limit silence delay autoStart = set := clampedSettings_eq fun _ _ _ => rfl
    have answer : okClamped (set != asked) .empty = a := by
      refine congrArg (okClamped · .empty) ?_
      rw [Bool.eq_iff_iff]; simp
    have resting (h : s.dev.rl.link = .off ∨ s.dev.rl.link = .down) : request = answers s tag 50 a (writeSettings set s.dev) := by
      refine (act_request_served ready (serveSetRelayLink_resting h)).trans ?_
      rw [written, ← answer]
    refine ⟨act_request_ready ready, fun h => act_request_served ready (serveSetRelayLink_running h), fun h => ?_,
      fun down nonzero passed => ?_⟩
    · rw [resting (h.imp_right And.left)]
      refine congrArg _ (writeSettings_stays ?_)
      exact h.imp (fun off => by rw [off]; nofun) And.right
    · rw [resting (.inr down), writeSettings_restarts down nonzero passed]; rfl

end Sys2Proof.Machine
end

section
/-! O37: the merge of an excuse into the table (R92, R93). -/
namespace Sys2Proof.Machine

/-! ### The merged entry -/

section
variable (new : Excuse) (table : List Excuse)

/-- The merged entry's first day is the earliest of the new excuse and the entries found. -/
theorem mergedIn_first : (mergedIn new table).first ≤ new.first ∧
    (∀ x ∈ table.filter new.meets, (mergedIn new table).first ≤ x.first) ∧
    ((mergedIn new table).first = new.first ∨ ∃ x ∈ table.filter new.meets, (mergedIn new table).first = x.first) := by
  obtain ⟨below, least, attained⟩ := foldl_min_spec ((table.filter new.meets).map (·.first)) new.first
  refine ⟨below, fun x hx => least _ (List.mem_map_of_mem hx), attained.imp_right fun held => ?_⟩
  obtain ⟨x, hx, same⟩ := List.mem_map.1 held
  exact ⟨x, hx, same.symm⟩

/-- Its last day is the latest of theirs. -/
theorem mergedIn_last : new.last ≤ (mergedIn new table).last ∧
    (∀ x ∈ table.filter new.meets, x.last ≤ (mergedIn new table).last) ∧
    ((mergedIn new table).last = new.last ∨ ∃ x ∈ table.filter new.meets, (mergedIn new table).last = x.last) := by
  obtain ⟨above, most, attained⟩ := foldl_max_spec ((table.filter new.meets).map (·.last)) new.last
  refine ⟨above, fun x hx => most _ (List.mem_map_of_mem hx), attained.imp_right fun held => ?_⟩
  obtain ⟨x, hx, same⟩ := List.mem_map.1 held
  exact ⟨x, hx, same.symm⟩

theorem mergedIn_state : (mergedIn new table).state =
    if ∃ x ∈ table.filter new.meets, x.state = .overridden then .overridden
    else if ∃ x ∈ table.filter new.meets, x.state = .applied then .applied else .pending := by
  simp only [mergedIn, Excuse.merged, List.any_eq_true, beq_iff_eq]

end

/-! ### The table after -/

section
variable {new : Excuse} {l m : List Excuse}

theorem mem_recordIn (x : Excuse) : x ∈ recordIn new l ↔ x = mergedIn new l ∨ x ∈ l ∧ x ∉ l.filter new.meets := by
  unfold recordIn
  rw [mem_insertBefore, List.mem_filter, List.mem_filter]
  simp only [Bool.not_eq_true', not_and, Bool.not_eq_true]
  tauto

theorem length_recordIn (new : Excuse) (l : List Excuse) :
    (recordIn new l).length + (l.filter new.meets).length = l.length + 1 := by
  have parts := List.length_eq_length_filter_add (l := l) new.meets
  unfold recordIn
  rw [length_insertBefore]
  omega

/-- What a merge makes does not hang on the order the entries are held in. -/
theorem mergedIn_perm (h : l.Perm m) : mergedIn new l = mergedIn new m := by
  have found := h.filter new.meets
  unfold mergedIn Excuse.merged
  rw [(found.map _).foldl_eq, (found.map _).foldl_eq, found.any_eq, found.any_eq]

theorem recordIn_perm (h : l.Perm m) : (recordIn new l).Perm (recordIn new m) := by
  unfold recordIn
  rw [mergedIn_perm h]
  exact (insertBefore_perm _ _ _).trans (((h.filter _).cons _).trans (insertBefore_perm _ _ _).symm)

theorem apart_perm (h : l.Perm m) : l.Pairwise Excuse.apart ↔ m.Pairwise Excuse.apart :=
  h.pairwise_iff fun apart samePupil sameKind => (apart samePupil.symm sameKind.symm).symm

/-- Entries apart stay apart in a table of any order: the sorted table is one that recording keeps (R92). -/
theorem recordIn_pairwise (runs : new.first ≤ new.last) (held : ∀ x ∈ l, x.first ≤ x.last) (apart : l.Pairwise Excuse.apart) :
    (recordIn new l).Pairwise Excuse.apart := by
  have sorted := sortBy_perm excuseBefore l
  have kept : ExcusesApart (recordIn new (sortBy excuseBefore l)) :=
    recordIn_apart runs ⟨sortBy_inOrder excuseBefore_asymm excuseBefore_trans l, (apart_perm sorted).2 apart,
      fun x hx => held x (sorted.subset hx)⟩
  exact (apart_perm (recordIn_perm sorted)).1 kept.2.1

end

/-- Settles O37: the entries found are those the new excuse meets, and the merged entry takes its days and state from them. -/
theorem mergingKeepsExcusesApart : Obligations.MergingKeepsExcusesApart := by
  intro new table runs held apart found m
  have finds : found = table.filter new.meets :=
    List.filter_congr fun x _ => Bool.eq_iff_iff.2 (decide_eq_true_iff.trans (meets_iff new x).symm)
  obtain ⟨firstBelow, firstLeast, firstAttained⟩ := mergedIn_first new table
  obtain ⟨lastAbove, lastMost, lastAttained⟩ := mergedIn_last new table
  have state : m.state = _ := mergedIn_state new table
  rw [finds]
  refine ⟨recordIn_pairwise runs held, mem_recordIn, rfl, rfl, rfl, rfl, firstBelow, lastAbove,
    fun x hx => ⟨firstLeast x hx, lastMost x hx⟩, firstAttained, lastAttained, fun overridden => ?_, fun none applied => ?_,
    fun pending => ?_, length_recordIn new table⟩
  · rw [state, if_pos overridden]
  · rw [state, if_neg fun ⟨x, hx, overridden⟩ => none x hx overridden, if_pos applied]
  · have only {st : ExcuseState} (other : st ≠ .pending) : ¬ ∃ x ∈ table.filter new.meets, x.state = st :=
      fun ⟨x, hx, is⟩ => other (is.symm.trans (pending x hx))
    rw [state, if_neg (only (st := .overridden) nofun), if_neg (only (st := .applied) nofun)]

end Sys2Proof.Machine
end

section
/-! O38, O39: recording an excuse and applying it to its pupil's entry (R65, R66, R93, R95, Table 4-5). -/
namespace Sys2Proof.Machine

/-! ### Recording -/

/-- The device with an excuse recorded: a reference to an entry it is merged with names the merged entry (R66, R93). -/
def Device.recorded (new : Excuse) (d : Device) : Device := { d with
  ae.excuses := recordIn new d.ae.excuses
  ae.roster := d.ae.roster.map fun l => l.map fun x =>
    if x.roll = new.pupil ∧ ∃ y ∈ d.ae.excuses, new.meets y = true ∧ x.excuseRef = some ⟨y.kind, y.first⟩ then
      { x with excuseRef := some ⟨new.kind, (mergedIn new d.ae.excuses).first⟩ } else x }

/-- The device with an excuse recorded and taken by its pupil's entry in a new state (R65, R95). -/
def Device.excused (new : Excuse) (st : RosterState) (d : Device) : Device := { d.recorded new with
  ae.excuses := (recordIn new d.ae.excuses).map fun x =>
    if x.pupil = new.pupil ∧ x.kind = new.kind ∧ x.first = (mergedIn new d.ae.excuses).first then { x with state := .applied } else x
  ae.roster := d.ae.roster.map fun l => l.map fun x =>
    if x.roll = new.pupil then
      { x with state := st, excuseRef := some ⟨new.kind, (mergedIn new d.ae.excuses).first⟩ } else x }

/-- An entry's reference to an entry of the table that a new excuse is merged with names the merged entry (R66). -/
def Excuse.follow (new : Excuse) (table : List Excuse) (e : RosterEntry) : RosterEntry :=
  match e.excuseRef with
  | none => e
  | some r => if (table.filter new.meets).any (fun x => x.ref == r) then { e with excuseRef := some (mergedIn new table).ref } else e

section
variable (new : Excuse) (table : List Excuse) (e : RosterEntry)

/-- Following moves the reference alone. -/
theorem follow_frame : new.follow table e = { e with excuseRef := (new.follow table e).excuseRef } := by
  unfold Excuse.follow
  split
  · rfl
  · split <;> rfl
theorem follow_roll : (new.follow table e).roll = e.roll := by rw [follow_frame]
theorem follow_state : (new.follow table e).state = e.state := by rw [follow_frame]
theorem follow_absenceTag : (new.follow table e).absenceTag = e.absenceTag := by rw [follow_frame]

theorem follow_eq : new.follow table e =
    if ∃ y ∈ table, new.meets y = true ∧ e.excuseRef = some ⟨y.kind, y.first⟩ then
      { e with excuseRef := some ⟨new.kind, (mergedIn new table).first⟩ } else e := by
  unfold Excuse.follow
  cases held : e.excuseRef with
  | none => simp
  | some r =>
    refine if_congr ?_ rfl rfl
    simp only [List.any_eq_true, List.mem_filter, beq_iff_eq, Excuse.ref, Option.some.injEq, and_assoc, @eq_comm _ r]

end

/-- The entry with a state taken from the excuse that a reference names (R65). -/
def RosterEntry.takenBy (st : RosterState) (ref : ExcuseRef) (e : RosterEntry) : RosterEntry :=
  { e with state := st, excuseRef := some ref }

/-- An excuse taken covers a reference that followed. -/
theorem takenBy_follow (new : Excuse) (table : List Excuse) (e : RosterEntry) (st : RosterState) (ref : ExcuseRef) :
    (new.follow table e).takenBy st ref = e.takenBy st ref := by
  rw [follow_frame]; rfl

/-- A change of one roll number's entry is read in that entry. -/
theorem entry_onEntry (roll : Nat) {f : RosterEntry → RosterEntry} (keeps : ∀ e, (f e).roll = e.roll) (ae : Attendance) :
    (ae.onEntry roll f).entry roll = (ae.entry roll).map f := by
  have same (e : RosterEntry) : (if e.roll == roll then f e else e).roll = e.roll := by
    split
    · exact keeps e
    · rfl
  unfold Attendance.entry Attendance.onEntry
  cases ae.roster with
  | none => rfl
  | some l =>
    simp only [Option.map_some, Option.bind_some, List.find?_map, Function.comp_def, same]
    exact Option.map_congr fun e held => if_pos (List.find?_some held)

section
variable (new : Excuse) (d : Device)

theorem recordExcuse_follows : recordExcuse new d = d.onAe fun ae =>
    ({ ae with excuses := recordIn new ae.excuses }).onEntry new.pupil (new.follow ae.excuses) := rfl

theorem recordExcuse_eq : recordExcuse new d = d.recorded new := by
  have moves (x : RosterEntry) : (if x.roll == new.pupil then new.follow d.ae.excuses x else x) =
      if x.roll = new.pupil ∧ ∃ y ∈ d.ae.excuses, new.meets y = true ∧ x.excuseRef = some ⟨y.kind, y.first⟩ then
        { x with excuseRef := some ⟨new.kind, (mergedIn new d.ae.excuses).first⟩ } else x := by
    by_cases same : x.roll = new.pupil
    · rw [if_pos (beq_iff_eq.2 same), follow_eq]
      exact if_congr (and_iff_right same).symm rfl rfl
    · rw [if_neg (mt beq_iff_eq.1 same), if_neg fun moved => same moved.1]
  rw [recordExcuse_follows]
  exact congrArg (fun f => ({ d with ae.excuses := recordIn new d.ae.excuses, ae.roster := d.ae.roster.map (·.map f) } : Device))
    (funext moves)

theorem excuseTaken_recordExcuse (st : RosterState) :
    (recordExcuse new d).onAe (·.excuseTaken (mergedIn new d.ae.excuses) st) = d.excused new st := by
  have entry : (recordExcuse new d).ae.onEntry new.pupil (RosterEntry.takenBy st (mergedIn new d.ae.excuses).ref) =
      ({ d.ae with excuses := recordIn new d.ae.excuses } : Attendance).onEntry new.pupil
        (RosterEntry.takenBy st (mergedIn new d.ae.excuses).ref) :=
    (onEntry_onEntry _ (follow_roll _ _) _ _).trans
      (congrArg (Attendance.onEntry new.pupil · _) (funext fun e => takenBy_follow new d.ae.excuses e st _))
  have same : (recordExcuse new d).ae.excuseTaken (mergedIn new d.ae.excuses) st =
      ({ d.ae with excuses := recordIn new d.ae.excuses } : Attendance).excuseTaken (mergedIn new d.ae.excuses) st :=
    congrArg (Attendance.markExcuse _ _ _) entry
  refine (congrArg (fun ae => ({ d with ae := ae } : Device)) same).trans ?_
  rw [excuseTaken_eq]; rfl

/-- Recording leaves the entry of the excuse's pupil its state and its absence notice tag. -/
theorem recordExcuse_entry : (recordExcuse new d).ae.entry new.pupil = (d.ae.entry new.pupil).map (new.follow d.ae.excuses) :=
  entry_onEntry new.pupil (follow_roll new d.ae.excuses) { d.ae with excuses := recordIn new d.ae.excuses }

end

/-! ### Table 4-5 -/

section
variable {kind : ExcuseKind} {st : RosterState}

theorem applied_unchanged (h : kind = .leavingEarly ∨ st = .notDue ∨ st = .excusedAway ∨ st = .explained ∨
    kind = .lateExpected ∧ st = .expected) : applied kind st = (none, .unchanged) := by
  rcases h with rfl | rfl | rfl | rfl | ⟨rfl, rfl⟩
  · rfl
  · cases kind <;> rfl
  · cases kind <;> rfl
  · cases kind <;> rfl
  · rfl

variable (acts : kind ≠ .leavingEarly)
include acts

theorem applied_alreadyIn (h : st = .present ∨ st = .late ∨ st = .out) : applied kind st = (none, .alreadyIn) := by
  cases kind
  case leavingEarly => exact absurd rfl acts
  all_goals rcases h with rfl | rfl | rfl <;> rfl
theorem applied_explains (h : st = .provisional ∨ st = .unexplained) : applied kind st = (some .explained, .changed) := by
  cases kind
  case leavingEarly => exact absurd rfl acts
  all_goals rcases h with rfl | rfl <;> rfl

end

/-! ### Applying -/

section
variable {new : Excuse} {d : Device}

/-- The merged entry acts on its pupil's entry, reference moved, where it covers today (R95). -/
theorem actsOn_recorded : (recordExcuse new d).actsOn (mergedIn new d.ae.excuses) =
    if (mergedIn new d.ae.excuses).first ≤ d.tb.date ∧ d.tb.date ≤ (mergedIn new d.ae.excuses).last then
      (d.ae.entry new.pupil).map (new.follow d.ae.excuses) else none := by
  unfold Device.actsOn
  refine if_congr ?_ (recordExcuse_entry new d) rfl
  rw [recordExcuse_tb, Excuse.covers, Bool.and_eq_true, decide_eq_true_eq, decide_eq_true_eq]

theorem recordAndApply_unacted (h : d.ae.entry new.pupil = none ∨ d.tb.date < (mergedIn new d.ae.excuses).first ∨
    (mergedIn new d.ae.excuses).last < d.tb.date) : recordAndApply new d = (.unchanged, d.recorded new) := by
  have idle : (recordExcuse new d).actsOn (mergedIn new d.ae.excuses) = none := by
    rw [actsOn_recorded]
    rcases h with none | early | late
    · rw [none]; exact ite_self _
    · exact if_neg fun covers => Nat.not_le.2 early covers.1
    · exact if_neg fun covers => Nat.not_le.2 late covers.2
  unfold recordAndApply applyExcuse
  rw [idle, recordExcuse_eq]

variable {e : RosterEntry} (held : d.ae.entry new.pupil = some e) (begun : (mergedIn new d.ae.excuses).first ≤ d.tb.date)
  (lasts : d.tb.date ≤ (mergedIn new d.ae.excuses).last)
include held begun lasts

theorem actsOn_entry : (recordExcuse new d).actsOn (mergedIn new d.ae.excuses) = some (new.follow d.ae.excuses e) := by
  rw [actsOn_recorded, if_pos ⟨begun, lasts⟩, held]; rfl

/-- Where Table 4-5 leaves the entry's state, nothing follows the recording. -/
theorem recordAndApply_leaves {r : RosterResult} (table : applied new.kind e.state = (none, r)) :
    recordAndApply new d = (r, d.recorded new) := by
  have same : applied (mergedIn new d.ae.excuses).kind (new.follow d.ae.excuses e).state = (none, r) := by
    rw [follow_state]; exact table
  unfold recordAndApply applyExcuse
  rw [actsOn_entry held begun lasts]
  dsimp only
  rw [same, recordExcuse_eq]

/-- Where it gives another, the entry takes it, and from UNEXPLAINED the absence-notice rule follows for the tag held (R65, R70). -/
theorem recordAndApply_moves {st : RosterState} {r : RosterResult} (table : applied new.kind e.state = (some st, r)) :
    recordAndApply new d = (r, if e.state = .unexplained then absenceRuleFor false new.pupil e.absenceTag (d.excused new st)
      else d.excused new st) := by
  have same : applied (mergedIn new d.ae.excuses).kind (new.follow d.ae.excuses e).state = (some st, r) := by
    rw [follow_state]; exact table
  have pupil : (mergedIn new d.ae.excuses).pupil = new.pupil := rfl
  unfold recordAndApply applyExcuse
  rw [actsOn_entry held begun lasts]
  dsimp only
  rw [same]
  dsimp only
  rw [excuseTaken_recordExcuse, follow_state, follow_absenceTag, pupil]

theorem recordAndApply_unchanged (h : new.kind = .leavingEarly ∨ e.state = .notDue ∨ e.state = .excusedAway ∨ e.state = .explained ∨
    new.kind = .lateExpected ∧ e.state = .expected) : recordAndApply new d = (.unchanged, d.recorded new) :=
  recordAndApply_leaves held begun lasts (applied_unchanged h)
theorem recordAndApply_alreadyIn (acts : new.kind ≠ .leavingEarly) (h : e.state = .present ∨ e.state = .late ∨ e.state = .out) :
    recordAndApply new d = (.alreadyIn, d.recorded new) :=
  recordAndApply_leaves held begun lasts (applied_alreadyIn acts h)
theorem recordAndApply_excusedAway (absent : new.kind = .absent) (expected : e.state = .expected) :
    recordAndApply new d = (.changed, d.excused new .excusedAway) := by
  rw [recordAndApply_moves held begun lasts (by rw [absent, expected]; rfl), if_neg (by rw [expected]; nofun)]
theorem recordAndApply_explained (acts : new.kind ≠ .leavingEarly) (provisional : e.state = .provisional) :
    recordAndApply new d = (.changed, d.excused new .explained) := by
  rw [recordAndApply_moves held begun lasts (applied_explains acts (.inl provisional)), if_neg (by rw [provisional]; nofun)]
theorem recordAndApply_withdraws (acts : new.kind ≠ .leavingEarly) (unexplained : e.state = .unexplained) :
    recordAndApply new d = (.changed, absenceRuleFor false new.pupil e.absenceTag (d.excused new .explained)) := by
  rw [recordAndApply_moves held begun lasts (applied_explains acts (.inr unexplained)), if_pos unexplained]

end

/-! ### What an explanation reaches -/

/-- An explanation withdraws a notice: of the Attendance Engine it moves the sweeps alone, and the queue loses the tag's notices (R70). -/
theorem absenceRuleFor_explains (roll : Nat) (tag : Option Nat) (d : Device) :
    (absenceRuleFor false roll tag d).ae = { d.ae with sweeps := (absenceRuleFor false roll tag d).ae.sweeps } ∧
    (absenceRuleFor false roll tag d).nu.queueCount ≤ d.nu.queueCount ∧
    ((∀ t, tag = some t → ∀ n ∈ d.nu.routine, n.tag ≠ t) → (absenceRuleFor false roll tag d).nu.routine = d.nu.routine) := by
  unfold absenceRuleFor absenceRule
  split
  · exact ⟨rfl, Nat.le_refl _, fun _ => rfl⟩
  · rename_i t
    split
    · refine ⟨rfl, ?_, fun other => ?_⟩
      · exact Nat.add_le_add (Nat.add_le_add (List.length_filter_le _ _) (List.length_filter_le _ _)) (List.length_filter_le _ _)
      · exact List.filter_eq_self.2 fun n hn => by simpa using other t rfl n hn
    · split
      · exact ⟨rfl, Nat.le_refl _, fun _ => rfl⟩
      · split
        · exact ⟨rfl, Nat.le_refl _, fun _ => rfl⟩
        · split
          · exact ⟨rfl, Nat.le_refl _, fun _ => rfl⟩
          · split <;> exact ⟨rfl, Nat.le_refl _, fun _ => rfl⟩

end Sys2Proof.Machine
end

section
/-! O38: ADD_EXCUSE, REMOVE_EXCUSE and QUERY_EXCUSES (R97, R98). -/
namespace Sys2Proof.Machine

theorem excuseKindCode_none_iff (n : Nat) : excuseKindCode n = none ↔ n = 0 ∨ 3 < n :=
  match n with
  | 0 => by decide
  | 1 => by decide
  | 2 => by decide
  | 3 => by decide
  | _ + 4 => ⟨fun _ => .inr (by omega), fun _ => rfl⟩

/-! ### ADD_EXCUSE -/

theorem applyExcuse_length (x : Excuse) (d : Device) : (applyExcuse x d).2.ae.excuses.length = d.ae.excuses.length := by
  unfold applyExcuse
  split
  · rfl
  · split
    · rfl
    · rename_i st _ _
      have taken : (d.onAe (·.excuseTaken x st)).ae.excuses.length = d.ae.excuses.length := List.length_map _
      dsimp only
      split
      · rw [(absenceRuleFor_explains _ _ _).1]; exact taken
      · exact taken
theorem recordAndApply_length (new : Excuse) (d : Device) :
    (recordAndApply new d).2.ae.excuses.length = (recordIn new d.ae.excuses).length := applyExcuse_length _ _

theorem addExcuseBad_iff (roll first last date : Nat) :
    (badRoll roll || Config.lastDay < first || Config.lastDay < last || last < first || last < date : Bool) = true ↔
      roll = 0 ∨ 2400 < roll ∨ 36524 < first ∨ 36524 < last ∨ last < first ∨ last < date := by
  simp only [Bool.or_eq_true, badRoll_iff, decide_eq_true_eq, or_assoc]; rfl

theorem overfull_one (new : Excuse) (table : List Excuse) : overfull [new] table = true ↔ 512 < (recordIn new table).length :=
  decide_eq_true_iff

section
variable {roll kind first last minute : Nat} {d : Device}

theorem serveAddExcuse_range (outside : roll = 0 ∨ 2400 < roll ∨ kind = 0 ∨ 3 < kind ∨ 36524 < first ∨ 36524 < last ∨ last < first ∨
    last < d.tb.date) : serveAddExcuse roll kind first last minute d = refuse .range d := by
  unfold serveAddExcuse
  cases code : excuseKindCode kind with
  | none => rfl
  | some k =>
    have known : ¬ (kind = 0 ∨ 3 < kind) := fun bad => by rw [(excuseKindCode_none_iff kind).2 bad] at code; cases code
    exact checked_fails_of (addExcuseBad_iff _ _ _ _) (by tauto)

variable (inside : ¬ (roll = 0 ∨ 2400 < roll ∨ kind = 0 ∨ 3 < kind ∨ 36524 < first ∨ 36524 < last ∨ last < first ∨ last < d.tb.date))
include inside

/-- With its operands in range, ADD_EXCUSE names a kind and has three checks left. -/
theorem serveAddExcuse_inside : ∃ k, excuseKindCode kind = some k ∧ serveAddExcuse roll kind first last minute d =
    checked d [(d.rolling, .busy), ((d.ae.pupil roll).isNone, .notFound),
        (overfull [deskExcuse roll k first last minute] d.ae.excuses, .full)]
      (okClamped (k != .absent && decide (1439 < minute))
        (.excuseAdded (mergedIn (deskExcuse roll k first last minute) d.ae.excuses).first
          (mergedIn (deskExcuse roll k first last minute) d.ae.excuses).last
          (recordIn (deskExcuse roll k first last minute) d.ae.excuses).length
          (recordAndApply (deskExcuse roll k first last minute) d).1),
        (recordAndApply (deskExcuse roll k first last minute) d).2) := by
  cases code : excuseKindCode kind with
  | none => exact absurd ((excuseKindCode_none_iff kind).1 code) (by tauto)
  | some k =>
    refine ⟨k, rfl, ?_⟩
    rw [← recordAndApply_length]
    unfold serveAddExcuse
    rw [code]
    exact checked_passes_of (addExcuseBad_iff _ _ _ _) (by tauto)

theorem serveAddExcuse_busy (active : d.tb.rollover.isSome = true) :
    serveAddExcuse roll kind first last minute d = refuse .busy d := by
  obtain ⟨k, -, served⟩ := serveAddExcuse_inside (minute := minute) inside
  rw [served, checked_fails (rolling_active active)]

variable (idle : d.tb.rollover = none)
include idle

theorem serveAddExcuse_notFound (none : d.ae.pupil roll = none) :
    serveAddExcuse roll kind first last minute d = refuse .notFound d := by
  obtain ⟨k, -, served⟩ := serveAddExcuse_inside (minute := minute) inside
  rw [served, checked_passes (rolling_idle idle), checked_fails (by rw [none]; rfl)]

variable (known : (d.ae.pupil roll).isSome = true) {k : ExcuseKind} (code : excuseKindCode kind = some k)
include known code

theorem serveAddExcuse_full (full : 512 < (recordIn (deskExcuse roll k first last minute) d.ae.excuses).length) :
    serveAddExcuse roll kind first last minute d = refuse .full d := by
  obtain ⟨_, code', served⟩ := serveAddExcuse_inside (minute := minute) inside
  obtain rfl := Option.some.inj (code.symm.trans code')
  rw [served, checked_passes (rolling_idle idle), checked_passes (by rw [Option.isNone_eq_false_iff]; exact known),
    checked_fails_of (overfull_one _ _) full]

theorem serveAddExcuse_taken (room : (recordIn (deskExcuse roll k first last minute) d.ae.excuses).length ≤ 512)
    {r : RosterResult} {b : Device} (did : recordAndApply (deskExcuse roll k first last minute) d = (r, b)) :
    serveAddExcuse roll kind first last minute d = (okClamped (k != .absent && decide (1439 < minute))
      (.excuseAdded (mergedIn (deskExcuse roll k first last minute) d.ae.excuses).first
        (mergedIn (deskExcuse roll k first last minute) d.ae.excuses).last
        (recordIn (deskExcuse roll k first last minute) d.ae.excuses).length r), b) := by
  obtain ⟨_, code', served⟩ := serveAddExcuse_inside (minute := minute) inside
  obtain rfl := Option.some.inj (code.symm.trans code')
  rw [served, checked_passes (rolling_idle idle), checked_passes (by rw [Option.isNone_eq_false_iff]; exact known),
    checked_passes_of (overfull_one _ _) (Nat.not_lt.2 room), checked_nil, did]

end

/-! ### REMOVE_EXCUSE -/

theorem removeExcuseBad_iff (roll day : Nat) : (badRoll roll || Config.lastDay < day : Bool) = true ↔
    roll = 0 ∨ 2400 < roll ∨ 36524 < day := by
  simp only [Bool.or_eq_true, badRoll_iff, decide_eq_true_eq, or_assoc]; rfl

section
variable {roll kind day : Nat} {d : Device}

theorem serveRemoveExcuse_range (outside : roll = 0 ∨ 2400 < roll ∨ kind = 0 ∨ 3 < kind ∨ 36524 < day) :
    serveRemoveExcuse roll kind day d = refuse .range d := by
  unfold serveRemoveExcuse
  cases code : excuseKindCode kind with
  | none => rfl
  | some k =>
    have known : ¬ (kind = 0 ∨ 3 < kind) := fun bad => by rw [(excuseKindCode_none_iff kind).2 bad] at code; cases code
    have bad := (removeExcuseBad_iff roll day).2 (by tauto)
    dsimp only
    split <;> exact checked_fails bad

variable (inside : ¬ (roll = 0 ∨ 2400 < roll ∨ kind = 0 ∨ 3 < kind ∨ 36524 < day))
include inside

theorem removeExcuse_inside : (badRoll roll || Config.lastDay < day : Bool) = false :=
  Bool.eq_false_iff.2 (mt (removeExcuseBad_iff roll day).1 (by tauto))

theorem serveRemoveExcuse_busy (active : d.tb.rollover.isSome = true) : serveRemoveExcuse roll kind day d = refuse .busy d := by
  unfold serveRemoveExcuse
  cases code : excuseKindCode kind with
  | none => exact absurd ((excuseKindCode_none_iff kind).1 code) (by tauto)
  | some k => dsimp only; split <;> exact checked_busy (removeExcuse_inside inside) active

variable (idle : d.tb.rollover = none) {k : ExcuseKind} (code : excuseKindCode kind = some k)
include idle code

theorem serveRemoveExcuse_none (none : d.ae.excuseFor roll k day = none) :
    serveRemoveExcuse roll kind day d = refuse .notFound d := by
  unfold serveRemoveExcuse
  rw [code]; dsimp only; rw [none]
  exact checked_steady (removeExcuse_inside inside) idle
theorem serveRemoveExcuse_found {x : Excuse} (found : d.ae.excuseFor roll k day = some x) :
    serveRemoveExcuse roll kind day d = (ok (.excuseRemoved x.first x.last), d.onAe (·.removeExcuse x)) := by
  unfold serveRemoveExcuse
  rw [code]; dsimp only; rw [found]
  exact checked_steady (removeExcuse_inside inside) idle

end

/-- An entry found by its pupil and kind, removed: those of its pupil, kind and first day go, and a reference to it is cleared. -/
theorem removeExcuse_eq {ae : Attendance} {roll day : Nat} {k : ExcuseKind} {x : Excuse} (found : ae.excuseFor roll k day = some x) :
    ae.removeExcuse x = { ae with
      excuses := ae.excuses.filter fun y => !(y.pupil == roll && y.kind == k && y.first == x.first)
      roster := ae.roster.map fun l => l.map fun e =>
        if e.roll = roll ∧ e.excuseRef = some ⟨k, x.first⟩ then { e with excuseRef := none } else e } := by
  have is := List.find?_some found
  simp only [Bool.and_eq_true, beq_iff_eq, and_assoc] at is
  obtain ⟨rfl, rfl, -⟩ := is
  simp only [Attendance.removeExcuse, Attendance.onEntry, Excuse.ref, beq_iff_eq, ite_and]
  rfl

/-! ### The obligation -/

theorem sourceKey_desk {ae : Attendance} {x : Excuse} (desk : x.source = .desk) : ae.sourceKey x = 0 := by
  unfold Attendance.sourceKey; rw [desk]
theorem sourceKey_contact {ae : Attendance} {x : Excuse} {i : Nat} (contact : x.source = .contact i) :
    ae.sourceKey x = ((ae.contactAt i).map (·.key)).getD 0 := by
  unfold Attendance.sourceKey; rw [contact]

/-- The device with an excuse recorded, the entries merged with said by their fields (R93). -/
theorem recorded_eq (new : Excuse) (d : Device) : d.recorded new = { d with
    ae.excuses := recordIn new d.ae.excuses
    ae.roster := d.ae.roster.map fun l => l.map fun x =>
      if x.roll = new.pupil ∧ ∃ y ∈ d.ae.excuses, y.pupil = new.pupil ∧ y.kind = new.kind ∧ y.first ≤ new.last + 1 ∧
          new.first ≤ y.last + 1 ∧ x.excuseRef = some ⟨y.kind, y.first⟩ then
        { x with excuseRef := some ⟨new.kind, (mergedIn new d.ae.excuses).first⟩ } else x } := by
  simp only [Device.recorded, meets_iff, and_assoc]

/-- Settles O38: each request by its checks in order; an excuse added by the entry it finds and Table 4-5. -/
theorem excuseRequestsKeepTheTable : Obligations.ExcuseRequestsKeepTheTable := by
  unfold Obligations.ExcuseRequestsKeepTheTable
  intro codeOf
  have coded (k : ExcuseKind) : excuseKindCode (codeOf k) = some k := by cases k <;> rfl
  refine ⟨fun s tag roll kind first last minute ready => ?_, fun s tag roll kind day ready => ?_, fun s tag day roll steady => ?_,
    fun ae x => ?_⟩
  · intro add outside
    have serves {t : Answer × Device} (h : serveAddExcuse roll kind first last minute s.dev = t) : add = answers s tag 36 t.1 t.2 :=
      act_request_served ready h
    refine ⟨fun out => serves (serveAddExcuse_range out), fun inside active => serves (serveAddExcuse_busy inside active),
      fun inside idle none => serves (serveAddExcuse_notFound inside idle none), ?_⟩
    rintro inside idle known k rfl
    intro new m table ref clamped base moved gives
    have gave {r : RosterResult} {b : Device} (room : table.length ≤ 512) (did : recordAndApply new s.dev = (r, b)) : gives r b :=
      serves (serveAddExcuse_taken inside idle known (coded k) room did)
    have merges : base = s.dev.recorded new := (recorded_eq new s.dev).symm
    have lasts : s.dev.tb.date ≤ m.last := Nat.le_trans (m := last) (by omega) (mergedIn_last new s.dev.ae.excuses).1
    refine ⟨fun full => serves (serveAddExcuse_full inside idle known (coded k) full), fun room => ⟨fun unacted => ?_,
      fun e held begun => ⟨fun stays => ?_, fun late expected => ?_, fun acts there => ?_, fun absent expected => ?_,
        fun acts provisional => ?_, fun acts unexplained => ?_⟩⟩⟩
    · rw [merges]
      exact gave room (recordAndApply_unacted (unacted.imp_right .inl))
    · rw [merges]
      exact gave room (recordAndApply_unchanged held begun lasts (by tauto))
    · rw [merges]
      exact gave room (recordAndApply_unchanged held begun lasts (.inr (.inr (.inr (.inr ⟨late, expected⟩)))))
    · rw [merges]
      exact gave room (recordAndApply_alreadyIn held begun lasts acts there)
    · exact gave room (recordAndApply_excusedAway held begun lasts absent expected)
    · exact gave room (recordAndApply_explained held begun lasts acts provisional)
    · exact gave room (recordAndApply_withdraws held begun lasts acts unexplained)
  · intro remove outside
    have serves {t : Answer × Device} (h : serveRemoveExcuse roll kind day s.dev = t) : remove = answers s tag 37 t.1 t.2 :=
      act_request_served ready h
    refine ⟨fun out => serves (serveRemoveExcuse_range out), fun inside active => serves (serveRemoveExcuse_busy inside active), ?_⟩
    rintro inside idle k rfl
    refine ⟨fun none => serves (serveRemoveExcuse_none inside idle (coded k) none), fun x found => ?_⟩
    exact (serves (serveRemoveExcuse_found inside idle (coded k) found)).trans
      (congrArg (fun ae => answers s tag 37 (ok (.excuseRemoved x.first x.last)) { s.dev with ae := ae }) (removeExcuse_eq found))
  · have serves {t : Answer × Device} (h : serveQueryExcuses day roll s.dev = t) :
        exec (.queryExcuses tag day roll) s = answers s tag 38 t.1 t.2 := act_request_served steady.1 h
    have test : (Config.lastDay < day || Config.maxRoll < roll : Bool) = true ↔ 36524 < day ∨ 2400 < roll := by
      simp only [Bool.or_eq_true, decide_eq_true_eq]; rfl
    refine ⟨fun outside => serves (checked_fails_of test outside), fun hday hroll => serves (checked_steady ?_ steady.2)⟩
    exact Bool.eq_false_iff.2 (mt test.1 (by omega))
  · refine ⟨sourceKey_desk, fun i contact => ⟨fun c held => ?_, fun dropped => ?_⟩⟩
    · rw [sourceKey_contact contact, held]; rfl
    · rw [sourceKey_contact contact, dropped]; rfl

end Sys2Proof.Machine
end

section
/-! O39: what recording and applying excuses leaves of the clock, the contacts and the queue (R66, R70, R93, R95). -/
namespace Sys2Proof.Machine

/-! ### What an acknowledgement reads -/

/-- b has the clock and the contacts of d, and no more notices queued: all that an acknowledgement on b reads of d. -/
structure Reads (d b : Device) : Prop where
  tb : b.tb = d.tb
  contacts : b.ae.contacts = d.ae.contacts
  count : b.nu.queueCount ≤ d.nu.queueCount

theorem Reads.refl (d : Device) : Reads d d := ⟨rfl, rfl, Nat.le_refl _⟩
theorem Reads.trans {a b c : Device} (h1 : Reads a b) (h2 : Reads b c) : Reads a c :=
  ⟨h2.tb.trans h1.tb, h2.contacts.trans h1.contacts, Nat.le_trans h2.count h1.count⟩

theorem addCall_leaves (reason : CallReason) (urgent : Bool) (content : CallContent) (d : Device) :
    (addCall reason urgent content d).ae = d.ae ∧ (addCall reason urgent content d).nu.queueCount = d.nu.queueCount ∧
      (addCall reason urgent content d).nu.routine = d.nu.routine := by
  unfold addCall; split <;> exact ⟨rfl, rfl, rfl⟩
theorem addCall_reads (reason : CallReason) (urgent : Bool) (content : CallContent) (d : Device) :
    Reads d (addCall reason urgent content d) :=
  have ⟨ae, count, _⟩ := addCall_leaves reason urgent content d
  ⟨addCall_tb _ _ _ _, congrArg Attendance.contacts ae, Nat.le_of_eq count⟩

/-- The absence notice tags the roster's entries hold. -/
def Attendance.absenceTags (ae : Attendance) : List Nat := (ae.roster.getD []).filterMap (·.absenceTag)

theorem mem_absenceTags {ae : Attendance} {t : Nat} :
    t ∈ ae.absenceTags ↔ ∃ l, ae.roster = some l ∧ ∃ e ∈ l, e.absenceTag = some t := by
  unfold Attendance.absenceTags
  cases ae.roster <;> simp

theorem entry_absenceTag {ae : Attendance} {roll t : Nat} {e : RosterEntry} (held : ae.entry roll = some e)
    (tagged : e.absenceTag = some t) : t ∈ ae.absenceTags := by
  unfold Attendance.entry at held
  obtain ⟨l, roster, found⟩ := Option.bind_eq_some_iff.1 held
  exact mem_absenceTags.2 ⟨l, roster, e, List.mem_of_find?_eq_some found, tagged⟩

theorem onEntry_absenceTags (roll : Nat) {f : RosterEntry → RosterEntry} (keeps : ∀ e, (f e).absenceTag = e.absenceTag)
    (ae : Attendance) : (ae.onEntry roll f).absenceTags = ae.absenceTags := by
  have same (e : RosterEntry) : (if e.roll == roll then f e else e).absenceTag = e.absenceTag := by
    split
    · exact keeps e
    · rfl
  unfold Attendance.absenceTags Attendance.onEntry
  cases ae.roster with
  | none => rfl
  | some l => simp only [Option.map_some, Option.getD_some, List.filterMap_map, Function.comp_def, same]

/-! ### Applying one excuse -/

section
variable (x : Excuse) (d : Device)

/-- Applying an excuse either changes the Attendance Engine alone, or goes on to withdraw the entry's absence notice. -/
theorem applyExcuse_cases : (∃ r, applyExcuse x d = (r, d)) ∨ (∃ r st, applyExcuse x d = (r, d.onAe (·.excuseTaken x st))) ∨
    ∃ r st e, d.ae.entry x.pupil = some e ∧
      applyExcuse x d = (r, absenceRuleFor false x.pupil e.absenceTag (d.onAe (·.excuseTaken x st))) := by
  unfold applyExcuse
  split
  · exact .inl ⟨_, rfl⟩
  · rename_i e acts
    have held : d.ae.entry x.pupil = some e := by
      unfold Device.actsOn at acts
      split at acts
      · exact acts
      · cases acts
    split
    · exact .inl ⟨_, rfl⟩
    · rename_i st r _
      dsimp only
      split
      · exact .inr (.inr ⟨r, st, e, held, rfl⟩)
      · exact .inr (.inl ⟨r, st, rfl⟩)

theorem excuseTaken_absenceTags (st : RosterState) : (d.ae.excuseTaken x st).absenceTags = d.ae.absenceTags :=
  onEntry_absenceTags x.pupil (f := fun e => { e with state := st, excuseRef := some x.ref }) (fun _ => rfl) d.ae

theorem applyExcuse_reads : Reads d (applyExcuse x d).2 := by
  rcases applyExcuse_cases x d with ⟨r, did⟩ | ⟨r, st, did⟩ | ⟨r, st, e, -, did⟩ <;> rw [did]
  · exact .refl d
  · exact ⟨rfl, rfl, Nat.le_refl _⟩
  · obtain ⟨ae, count, -⟩ := absenceRuleFor_explains x.pupil e.absenceTag (d.onAe (·.excuseTaken x st))
    exact ⟨absenceRuleFor_tb _ _ _ _, (congrArg Attendance.contacts ae).trans rfl, count⟩
theorem applyExcuse_absenceTags : (applyExcuse x d).2.ae.absenceTags = d.ae.absenceTags := by
  rcases applyExcuse_cases x d with ⟨r, did⟩ | ⟨r, st, did⟩ | ⟨r, st, e, -, did⟩ <;> rw [did]
  · exact excuseTaken_absenceTags x d st
  · obtain ⟨ae, -, -⟩ := absenceRuleFor_explains x.pupil e.absenceTag (d.onAe (·.excuseTaken x st))
    exact (congrArg Attendance.absenceTags ae).trans (excuseTaken_absenceTags x d st)

/-- No ROUTINE notice leaves but those of the tag the pupil's entry holds. -/
theorem applyExcuse_routine (other : ∀ e, d.ae.entry x.pupil = some e → ∀ t, e.absenceTag = some t → ∀ n ∈ d.nu.routine, n.tag ≠ t) :
    (applyExcuse x d).2.nu.routine = d.nu.routine := by
  rcases applyExcuse_cases x d with ⟨r, did⟩ | ⟨r, st, did⟩ | ⟨r, st, e, held, did⟩ <;> rw [did]
  · rfl
  · obtain ⟨-, -, routine⟩ := absenceRuleFor_explains x.pupil e.absenceTag (d.onAe (·.excuseTaken x st))
    exact routine (other e held)

end

/-! ### Recording and applying -/

section
variable (new : Excuse) (d : Device)

theorem recordExcuse_absenceTags : (recordExcuse new d).ae.absenceTags = d.ae.absenceTags :=
  onEntry_absenceTags new.pupil (follow_absenceTag new d.ae.excuses) { d.ae with excuses := recordIn new d.ae.excuses }

theorem recordAndApply_reads : Reads d (recordAndApply new d).2 :=
  Reads.trans (b := recordExcuse new d) ⟨rfl, rfl, Nat.le_refl _⟩ (applyExcuse_reads _ _)
theorem recordAndApply_absenceTags : (recordAndApply new d).2.ae.absenceTags = d.ae.absenceTags :=
  (applyExcuse_absenceTags _ _).trans (recordExcuse_absenceTags new d)

variable {new d}

theorem recordAndApply_routine
    (other : ∀ e, d.ae.entry new.pupil = some e → ∀ t, e.absenceTag = some t → ∀ n ∈ d.nu.routine, n.tag ≠ t) :
    (recordAndApply new d).2.nu.routine = d.nu.routine := by
  refine applyExcuse_routine (mergedIn new d.ae.excuses) (recordExcuse new d) fun f held t tagged => ?_
  obtain ⟨e, entry, rfl⟩ := Option.map_eq_some_iff.1 ((recordExcuse_entry new d).symm.trans held)
  exact other e entry t ((follow_absenceTag _ _ _).symm.trans tagged)

end

/-! ### The excuses of a message -/

theorem recordAll_reads (l : List Excuse) (d : Device) : Reads d (recordAll l d).2 := by
  induction l generalizing d with
  | nil => exact .refl d
  | cons x l ih => exact (recordAndApply_reads x d).trans (ih _)

theorem recordAll_routine (l : List Excuse) {d : Device} (other : ∀ t ∈ d.ae.absenceTags, ∀ n ∈ d.nu.routine, n.tag ≠ t) :
    (recordAll l d).2.nu.routine = d.nu.routine := by
  induction l generalizing d with
  | nil => rfl
  | cons x l ih =>
    have first : (recordAndApply x d).2.nu.routine = d.nu.routine :=
      recordAndApply_routine fun e held t tagged => other t (entry_absenceTag held tagged)
    refine (ih ?_).trans first
    rw [recordAndApply_absenceTags, first]
    exact other

/-- With no roster held, the excuses are merged into the table and nothing else happens (R95). -/
theorem recordAll_noRoster (l : List Excuse) {d : Device} (none : d.ae.roster = none) :
    (∀ r ∈ (recordAll l d).1, r = .unchanged) ∧
    (recordAll l d).2 = { d with ae.excuses := l.foldl (fun table x => recordIn x table) d.ae.excuses } := by
  induction l generalizing d with
  | nil => exact ⟨nofun, rfl⟩
  | cons x l ih =>
    have one : recordAndApply x d = (.unchanged, { d with ae.excuses := recordIn x d.ae.excuses }) := by
      rw [recordAndApply_unacted (.inl (by unfold Attendance.entry; rw [none]; rfl))]
      unfold Device.recorded
      rw [none, Option.map_none, ← none]
    obtain ⟨results, after⟩ := ih (d := { d with ae.excuses := recordIn x d.ae.excuses }) none
    unfold recordAll
    rw [one]
    exact ⟨List.forall_mem_cons.2 ⟨rfl, results⟩, after⟩

/-! ### The entry after -/

section
variable (new : Excuse) (d : Device)

theorem recorded_entry : (d.recorded new).ae.entry new.pupil = (d.ae.entry new.pupil).map (new.follow d.ae.excuses) := by
  rw [← recordExcuse_eq]; exact recordExcuse_entry new d

theorem excused_entry (st : RosterState) : (d.excused new st).ae.entry new.pupil =
    (d.ae.entry new.pupil).map (RosterEntry.takenBy st (mergedIn new d.ae.excuses).ref) := by
  have entry := entry_onEntry new.pupil (f := RosterEntry.takenBy st (mergedIn new d.ae.excuses).ref) (fun _ => rfl)
    (recordExcuse new d).ae
  have again : RosterEntry.takenBy st (mergedIn new d.ae.excuses).ref ∘ new.follow d.ae.excuses =
      RosterEntry.takenBy st (mergedIn new d.ae.excuses).ref :=
    funext fun e => takenBy_follow new d.ae.excuses e st _
  rw [recordExcuse_entry, Option.map_map, again] at entry
  rw [← excuseTaken_recordExcuse]
  exact entry

theorem absenceRuleFor_entry (roll r : Nat) (tag : Option Nat) (d : Device) :
    (absenceRuleFor false roll tag d).ae.entry r = d.ae.entry r := by
  obtain ⟨ae, -, -⟩ := absenceRuleFor_explains roll tag d
  exact congrArg (·.entry r) ae

end

/-- Recording and applying an excuse gives a roster result and leaves its pupil's entry in a state. -/
def Device.Gives (d : Device) (new : Excuse) (r : RosterResult) (st : RosterState) : Prop :=
  (recordAndApply new d).1 = r ∧ ∃ f, (recordAndApply new d).2.ae.entry new.pupil = some f ∧ f.state = st

section
variable {new : Excuse} {d : Device} {e : RosterEntry} (held : d.ae.entry new.pupil = some e)
include held

theorem gives_recorded {r : RosterResult} (did : recordAndApply new d = (r, d.recorded new)) : d.Gives new r e.state := by
  unfold Device.Gives
  rw [did]
  exact ⟨rfl, new.follow d.ae.excuses e, by rw [recorded_entry, held]; rfl, follow_state _ _ _⟩
theorem gives_excused {r : RosterResult} {st : RosterState} (did : recordAndApply new d = (r, d.excused new st)) :
    d.Gives new r st := by
  unfold Device.Gives
  rw [did]
  exact ⟨rfl, _, by rw [excused_entry, held]; rfl, rfl⟩

variable (begun : (mergedIn new d.ae.excuses).first ≤ d.tb.date) (lasts : d.tb.date ≤ (mergedIn new d.ae.excuses).last)
include begun lasts

theorem gives_explained (acts : new.kind ≠ .leavingEarly) (h : e.state = .provisional ∨ e.state = .unexplained) :
    d.Gives new .changed .explained := by
  rcases h with provisional | unexplained
  · exact gives_excused held (recordAndApply_explained held begun lasts acts provisional)
  · unfold Device.Gives
    rw [recordAndApply_withdraws held begun lasts acts unexplained]
    exact ⟨rfl, _, by rw [absenceRuleFor_entry, excused_entry, held]; rfl, rfl⟩

end

/-- An entry merged with an excuse that covers a date covers it too. -/
theorem mergedIn_covers {new : Excuse} {date : Nat} (begun : new.first ≤ date) (lasts : date ≤ new.last) (table : List Excuse) :
    (mergedIn new table).first ≤ date ∧ date ≤ (mergedIn new table).last :=
  ⟨Nat.le_trans (mergedIn_first new table).1 begun, Nat.le_trans lasts (mergedIn_last new table).1⟩

end Sys2Proof.Machine
end

section
/-! O39: the one acknowledgement of a parent message, and its code (R99 to R102, R104, R105, Table 6-4). -/
namespace Sys2Proof.Machine

/-! ### The acknowledgement -/

section
variable {m : ParentMessage} {d : Device}

theorem ackPupil_unknown (unknown : d.ae.sender m.key = none) : d.ackPupil m = 0 := by
  unfold Device.ackPupil; rw [unknown]
theorem ackPupil_known {c : Contact} (known : d.ae.sender m.key = some c) :
    d.ackPupil m = if m.roll ∈ c.pupils then m.roll else 0 := by
  unfold Device.ackPupil; rw [known]; exact if_congr List.contains_iff_mem rfl rfl

end

/-- The ACK_PARENT notice about a message taken on the device d, composed on the device b. -/
def Device.ackNotice (d b : Device) (code : AckCode) (m : ParentMessage) (contact first last : Nat) : Notice :=
  ⟨b.freeTag, .ackParent code m.intent m.roll first last, d.ackPupil m, contact, m.key, 1, d.tb.date, d.tb.second, 0, none⟩

section
variable {d b : Device} (reads : Reads d b) (code : AckCode) (m : ParentMessage) (contact first last : Nat)
include reads

theorem newNotice_ack : b.newNotice (.ackParent code m.intent m.roll first last) (b.ackPupil m) contact m.key 1 b.tb.date =
    d.ackNotice b code m contact first last := by
  have pupil : b.ackPupil m = d.ackPupil m := by
    unfold Device.ackPupil Attendance.sender Attendance.contactOf; rw [reads.contacts]
  unfold Device.newNotice Device.ackNotice
  rw [pupil, reads.tb]

theorem acknowledge_room (room : b.nu.queueCount < 240) : acknowledge code m contact first last b = { b.tagGiven b.freeTag with
    nu.routine := b.nu.routine ++ [d.ackNotice b code m contact first last] } := by
  rw [← newNotice_ack reads]; exact compose_routine_room rfl room
theorem acknowledge_full (full : 240 ≤ b.nu.queueCount) : acknowledge code m contact first last b =
    addCall .queueFull false (.notice (d.ackNotice b code m contact first last) none false) (b.tagGiven b.freeTag) := by
  rw [← newNotice_ack reads]; exact compose_routine_full rfl full

end

/-! ### The desk call entry -/

section
variable (reason : CallReason) (urgent : Bool) (content : CallContent) {d : Device}

theorem addCall_listed (room : d.nu.calls.length < 128) : ∃ number : Nat,
    (⟨number, reason, urgent, d.tb.second, d.tb.date, content⟩ : CallEntry) ∈ (addCall reason urgent content d).nu.calls := by
  have fits : ¬ d.callsFull = true := mt of_decide_eq_true (Nat.not_le.2 room)
  unfold addCall
  rw [if_neg fits]
  cases urgent
  · exact ⟨_, List.mem_append_right _ List.mem_cons_self⟩
  · exact ⟨_, List.mem_append_right _ List.mem_cons_self⟩
theorem addCall_refused (full : 128 ≤ d.nu.calls.length) : addCall reason urgent content d = d.raise .callsFull :=
  if_pos (decide_eq_true full)

end

/-! ### The code -/

theorem freeTextCode_eq (c : Contact) (d : Device) : freeTextCode (!c.pupils.isEmpty) d.callsFull =
    if c.pupils = [] then .unknownPupil else if 128 ≤ d.nu.calls.length then .notRecorded else .accepted := by
  unfold freeTextCode
  refine if_congr ?_ rfl (if_congr decide_eq_true_iff rfl rfl)
  rw [Bool.not_not, List.isEmpty_iff]

theorem resultCode_eq (results : List RosterResult) :
    resultCode results = if .alreadyIn ∈ results ∧ .changed ∉ results then .alreadyIn else .accepted := by
  refine if_congr ?_ rfl rfl
  rw [Bool.and_eq_true, Bool.not_eq_true', List.contains_iff_mem, Bool.eq_false_iff, ne_eq, List.contains_iff_mem]

section
variable {m : ParentMessage} {d : Device}

section
variable (unknown : d.ae.sender m.key = none)
include unknown

theorem takeMessage_unknownText (text : m.intent = 5) :
    takeMessage m d = acknowledge .unknownPupil m 0 0 0 (messageCall .freeText false 0 m d) := by
  unfold takeMessage; rw [unknown]; exact if_pos text
theorem takeMessage_unknown (other : m.intent ≠ 5) : takeMessage m d = acknowledge .unknownPupil m 0 0 0 d := by
  unfold takeMessage; rw [unknown]; exact if_neg other

end

variable {c : Contact} (known : d.ae.sender m.key = some c)
include known

theorem takeMessage_text (text : m.intent = 5) : takeMessage m d = acknowledge
    (if c.pupils = [] then .unknownPupil else if 128 ≤ d.nu.calls.length then .notRecorded else .accepted)
    m c.index 0 0 (messageCall .freeText false c.index m d) := by
  unfold takeMessage; rw [known, ← freeTextCode_eq]; exact if_pos text

variable (other : m.intent ≠ 5)
include other

theorem takeMessage_noPupils (none : c.pupils = []) : takeMessage m d = acknowledge .unknownPupil m c.index 0 0 d := by
  unfold takeMessage; rw [known]
  exact (if_neg other).trans (if_pos (List.isEmpty_iff.2 none))

variable (some : c.pupils ≠ [])
include some

theorem takeMessage_unauthorised (mayNot : c.mayExcuse = false) :
    takeMessage m d = acknowledge .notAuthorised m c.index 0 0 (messageCall .notAuthorised false c.index m d) := by
  unfold takeMessage; rw [known]
  exact (if_neg other).trans ((if_neg (mt List.isEmpty_iff.1 some)).trans (if_pos (by rw [mayNot]; rfl)))

variable (may : c.mayExcuse = true)
include may

theorem takeMessage_excusing : takeMessage m d = takeExcusing m c d := by
  unfold takeMessage; rw [known]
  exact (if_neg other).trans ((if_neg (mt List.isEmpty_iff.1 some)).trans (if_neg (by rw [may]; nofun)))
theorem takeMessage_unrecorded (unfit : d.recordable m c = none) :
    takeMessage m d = acknowledge .notRecorded m c.index 0 0 (messageCall .notRecorded true c.index m d) := by
  rw [takeMessage_excusing known other some may]; unfold takeExcusing; rw [unfit]

/-- Excuses recorded are acknowledged by their results, ABSENT_DAYS with its days (R105). -/
theorem takeMessage_recorded {news : List Excuse} (fits : d.recordable m c = .some news) : takeMessage m d = acknowledge
    (if .alreadyIn ∈ (recordAll news d).1 ∧ .changed ∉ (recordAll news d).1 then .alreadyIn else .accepted) m c.index
    (if m.intent = 2 then d.tb.date else 0) (if m.intent = 2 then lastAbsentDay d.tb.date m.dayCount else 0) (recordAll news d).2 := by
  rw [takeMessage_excusing known other some may, ← resultCode_eq]
  unfold takeExcusing ackDays
  rw [fits]
  by_cases days : m.intent = 2
  · simp only [days, if_true]
  · simp only [days, if_false]

end

/-! ### The excuses a message makes -/

/-- The excuse a message of a known intent makes for a pupil (Table 6-3). -/
def Device.excuseOf (d : Device) (m : ParentMessage) (c : Contact) (pupil : Nat) : Excuse where
  pupil := pupil
  kind := if m.intent = 3 then .lateExpected else if m.intent = 4 then .leavingEarly else .absent
  first := d.tb.date
  last := if m.intent = 2 then lastAbsentDay d.tb.date m.dayCount else d.tb.date
  minute := if m.intent = 3 ∨ m.intent = 4 then min 1439 m.minute else 0
  source := .contact c.index
  state := .pending

section
variable {m : ParentMessage} {c : Contact} {d : Device}

theorem excuseMade_known (h1 : 1 ≤ m.intent) (h4 : m.intent ≤ 4) (pupil : Nat) :
    excuseMade d.tb.date m c pupil = some (d.excuseOf m c pupil) := by
  obtain ⟨key, roll, intent, days, minute, number⟩ := m
  dsimp only at h1 h4
  interval_cases intent <;> rfl
theorem excuseMade_unknown (h : m.intent = 0 ∨ 4 < m.intent) (today pupil : Nat) : excuseMade today m c pupil = none := by
  unfold excuseMade
  split
  · omega
  · omega
  · omega
  · omega
  · rfl

theorem targets_eq (roll : Nat) (c : Contact) : targets roll c = if roll ≠ 0 ∧ roll ∈ c.pupils then [roll] else c.pupils := by
  unfold targets
  exact if_congr (and_congr_right fun _ => List.contains_iff_mem) rfl rfl
theorem targets_some (roll : Nat) (some : c.pupils ≠ []) : targets roll c ≠ [] := by
  unfold targets
  split
  · exact List.cons_ne_nil _ _
  · exact some

/-- A list of members that each decode decodes to what they decode to. -/
theorem decodeAll_of {α β : Type} {f : α → Option β} {g : α → β} {l : List α} (h : ∀ a ∈ l, f a = some (g a)) :
    decodeAll f l = some (l.map g) := by
  induction l with
  | nil => rfl
  | cons a l ih =>
    obtain ⟨first, rest⟩ := List.forall_mem_cons.1 h
    unfold decodeAll
    rw [first, ih rest]; rfl

theorem overfull_iff (news table : List Excuse) : overfull news table = true ↔
    512 < (news.foldl (fun t x => recordIn x t) table).length := decide_eq_true_iff

/-- The excuses a message makes, one a target (R100, R103). -/
def Device.excusesOf (d : Device) (m : ParentMessage) (c : Contact) : List Excuse := (targets m.roll c).map (d.excuseOf m c)

/-- A message is recorded when the clock is VALID, its intent is known and its excuses fit (R94, R103). -/
def Device.Fits (d : Device) (m : ParentMessage) (c : Contact) : Prop :=
  d.tb.validity = .valid ∧ 1 ≤ m.intent ∧ m.intent ≤ 4 ∧
    ((d.excusesOf m c).foldl (fun table x => recordIn x table) d.ae.excuses).length ≤ 512

theorem recordable_known (h1 : 1 ≤ m.intent) (h4 : m.intent ≤ 4) : d.recordable m c =
    if !d.clockValid || overfull (d.excusesOf m c) d.ae.excuses then none else some (d.excusesOf m c) := by
  unfold Device.recordable
  rw [decodeAll_of fun pupil _ => excuseMade_known h1 h4 pupil]; rfl

theorem recordable_fits (fits : d.Fits m c) : d.recordable m c = some (d.excusesOf m c) := by
  obtain ⟨valid, h1, h4, room⟩ := fits
  have small := Bool.eq_false_iff.2 (mt (overfull_iff (d.excusesOf m c) d.ae.excuses).1 (Nat.not_lt.2 room))
  rw [recordable_known h1 h4, (clockValid_iff d).2 valid, small]; rfl

theorem recordable_unfit (some : c.pupils ≠ []) (unfit : ¬ d.Fits m c) : d.recordable m c = none := by
  by_cases known : 1 ≤ m.intent ∧ m.intent ≤ 4
  · obtain ⟨h1, h4⟩ := known
    rw [recordable_known h1 h4]
    refine if_pos ?_
    cases validity : d.tb.validity with
    | invalid => rw [(clockValid_false_iff d).2 validity]; rfl
    | valid =>
      have tooMany : 512 < ((d.excusesOf m c).foldl (fun table x => recordIn x table) d.ae.excuses).length :=
        Nat.not_le.1 fun room => unfit ⟨validity, h1, h4, room⟩
      rw [(overfull_iff _ _).2 tooMany, Bool.or_true]
  · obtain ⟨pupil, target⟩ := List.exists_mem_of_ne_nil _ (targets_some m.roll some)
    have undecoded := (decodeAll_none (excuseMade d.tb.date m c) (targets m.roll c)).2
      ⟨pupil, target, excuseMade_unknown (by omega) _ _⟩
    unfold Device.recordable
    rw [undecoded]

/-- What can be recorded is the excuses made, each beginning today. -/
theorem recordable_some {news : List Excuse} (some : c.pupils ≠ []) (h : d.recordable m c = .some news) : news = d.excusesOf m c := by
  by_cases fits : d.Fits m c
  · exact Option.some.inj (h.symm.trans (recordable_fits fits))
  · rw [recordable_unfit some fits] at h; cases h

/-- Today being a day of the calendar, an excuse made covers it (Table 6-3). -/
theorem excusesOf_covers (today : d.tb.date ≤ 36524) {x : Excuse} (made : x ∈ d.excusesOf m c) :
    x.first ≤ d.tb.date ∧ d.tb.date ≤ x.last := by
  obtain ⟨pupil, -, rfl⟩ := List.mem_map.1 made
  refine ⟨Nat.le_refl _, ?_⟩
  unfold Device.excuseOf
  dsimp only
  split
  · unfold lastAbsentDay takenDays clampNat
    simp only [Config.lastDay]
    omega
  · exact Nat.le_refl _

end

end Sys2Proof.Machine
end

section
/-! O39: parent messages (R99 to R105, R112, R125). -/
namespace Sys2Proof.Machine

/-! ### With room in the queue -/

section
variable {m : ParentMessage} {d b : Device} (room : d.nu.queueCount < 240) (reads : Reads d b)
include room reads

/-- The acknowledgement stands last among the ROUTINE notices, and nothing else of the blocks it reaches changes. -/
theorem acknowledge_queues (code : AckCode) (contact first last : Nat) :
    (acknowledge code m contact first last b).nu.routine = b.nu.routine ++ [d.ackNotice b code m contact first last] ∧
    (acknowledge code m contact first last b).ae = b.ae ∧ (acknowledge code m contact first last b).nu.calls = b.nu.calls ∧
    (acknowledge code m contact first last b).op = b.op := by
  rw [acknowledge_room reads code m contact first last (Nat.lt_of_le_of_lt reads.count room)]
  exact ⟨rfl, rfl, rfl, rfl⟩

end

/-- The device after holds one more ROUTINE notice than d, the last: the acknowledgement of the message with a code and days. -/
def Acked (d after : Device) (m : ParentMessage) (code : AckCode) (contact first last : Nat) : Prop :=
  ∃ b : Device, after.nu.routine = d.nu.routine ++ [d.ackNotice b code m contact first last]

/-- Acknowledged as a message whose excuses are recorded is, ABSENT_DAYS with its days (R105). -/
def AckedRecorded (d after : Device) (m : ParentMessage) (c : Contact) (code : AckCode) : Prop :=
  Acked d after m code c.index (if m.intent = 2 then d.tb.date else 0) (if m.intent = 2 then lastAbsentDay d.tb.date m.dayCount else 0)

section
variable {m : ParentMessage} {d after : Device} (room : d.nu.queueCount < 240)
include room

theorem acked_of {b : Device} {code : AckCode} {contact first last : Nat} (h : after = acknowledge code m contact first last b)
    (reads : Reads d b) (routine : b.nu.routine = d.nu.routine) : Acked d after m code contact first last :=
  ⟨b, by rw [h, (acknowledge_queues room reads code contact first last).1, routine]⟩

variable {reason : CallReason} {urgent : Bool} {code : AckCode} {contact : Nat}
  (h : after = acknowledge code m contact 0 0 (messageCall reason urgent contact m d))
include h

/-- A message held for the desk is acknowledged all the same. -/
theorem acked_called : Acked d after m code contact 0 0 :=
  acked_of room h (addCall_reads _ _ _ _) (addCall_leaves _ _ _ _).2.2

/-- It leaves the Attendance Engine as it stood, and its entry is listed, or CALLS_FULL raised. -/
theorem called_listed : after.ae = d.ae ∧
    (d.nu.calls.length < 128 → ∃ number : Nat, (⟨number, reason, urgent, d.tb.second, d.tb.date,
      .message contact m.key m.roll m.intent m.dayCount m.minute m.number⟩ : CallEntry) ∈ after.nu.calls) ∧
    (128 ≤ d.nu.calls.length → after.nu.calls = d.nu.calls ∧ after.op.holds .callsFull = true) := by
  obtain ⟨-, ae, calls, op⟩ := acknowledge_queues (m := m) room (b := messageCall reason urgent contact m d)
    (addCall_reads _ _ _ _) code contact 0 0
  rw [h, ae, calls, op]
  refine ⟨(addCall_leaves _ _ _ _).1, addCall_listed _ _ _, fun full => ?_⟩
  have refused : messageCall reason urgent contact m d = d.raise .callsFull := addCall_refused _ _ _ full
  rw [refused]
  exact ⟨rfl, raise_holds_same .callsFull d⟩

end

/-! ### Excuses recorded, with room in the queue -/

/-- A lone result makes ALREADY_IN only as ALREADY_IN (Table 6-4, orders 5 and 6). -/
theorem alreadyIn_alone (r : RosterResult) : .alreadyIn ∈ [r] ∧ .changed ∉ [r] ↔ r = .alreadyIn := by cases r <;> decide

section
variable {m : ParentMessage} {d : Device} {c : Contact} (room : d.nu.queueCount < 240) (known : d.ae.sender m.key = some c)
  (other : m.intent ≠ 5) (some : c.pupils ≠ []) (may : c.mayExcuse = true)
include room known other some may

section
variable {news : List Excuse} (fits : d.recordable m c = .some news)
include fits

theorem recorded_ae : (takeMessage m d).ae = (recordAll news d).2.ae := by
  rw [takeMessage_recorded known other some may fits]
  exact (acknowledge_queues room (recordAll_reads news d) _ _ _ _).2.1
theorem recorded_acked {code : AckCode}
    (is : (if .alreadyIn ∈ (recordAll news d).1 ∧ .changed ∉ (recordAll news d).1 then .alreadyIn else .accepted) = code)
    (routine : (recordAll news d).2.nu.routine = d.nu.routine) : AckedRecorded d (takeMessage m d) m c code := by
  have taken := takeMessage_recorded known other some may fits
  rw [is] at taken
  exact acked_of room taken (recordAll_reads news d) routine

theorem recorded_noRoster (none : d.ae.roster = none) : AckedRecorded d (takeMessage m d) m c .accepted ∧
    (takeMessage m d).ae = { d.ae with excuses := news.foldl (fun table x => recordIn x table) d.ae.excuses } := by
  obtain ⟨results, did⟩ := recordAll_noRoster news none
  have unfound : RosterResult.alreadyIn ∉ (recordAll news d).1 := fun there => absurd (results _ there) nofun
  exact ⟨recorded_acked room known other some may fits (if_neg fun ⟨there, _⟩ => unfound there) (by rw [did]),
    by rw [recorded_ae room known other some may fits, did]⟩

end

/-- A lone excuse: its result gives the code, and its pupil's entry is left in the state it gives. -/
theorem recorded_lone {x : Excuse} (fits : d.recordable m c = .some [x])
    (quiet : ∀ e, d.ae.entry x.pupil = .some e → ∀ t, e.absenceTag = .some t → ∀ n ∈ d.nu.routine, n.tag ≠ t)
    {r : RosterResult} {st : RosterState} (gives : d.Gives x r st) :
    AckedRecorded d (takeMessage m d) m c (if r = .alreadyIn then .alreadyIn else .accepted) ∧
      ∃ f, (takeMessage m d).ae.entry x.pupil = .some f ∧ f.state = st := by
  obtain ⟨rfl, entry⟩ := gives
  rw [recorded_ae room known other some may fits]
  exact ⟨recorded_acked room known other some may fits (if_congr (alreadyIn_alone _) rfl rfl) (recordAndApply_routine quiet), entry⟩

end

/-! ### The obligation -/

/-- Settles O39: a message by its sender, its intent and whether its excuses fit; the acknowledgement by the queue's room; an excuse by
Table 4-5. -/
theorem parentMessagesAreAcknowledged : Obligations.ParentMessagesAreAcknowledged := by
  refine ⟨fun d m room => ?_, fun d key roll intent dayCount minute number => ?_, fun d => ⟨rfl, fun x l => rfl⟩, fun d new => ?_⟩
  · intro sender after acked desk
    have acks {code : AckCode} {contact first last : Nat} (h : Acked d after m code contact first last) :
        acked code contact first last := by
      obtain ⟨b, queued⟩ := h
      refine ⟨d.ackNotice b code m contact first last, queued, rfl, rfl, rfl, rfl, ?_, rfl, rfl, rfl, rfl⟩
      have known : d.ae.sender m.key = sender := rfl
      clear_value sender
      cases sender with
      | none => exact ackPupil_unknown known
      | some c => exact ackPupil_known known
    refine ⟨fun unknown => ?_, fun c known none => ?_, fun c known some text => ?_, fun c known some other mayNot => ?_,
      fun c known some other may => ⟨fun unfit => ?_, fun unfit => ?_⟩, fun c news known some other may fits => ?_⟩
    · by_cases text : m.intent = 5
      · exact acks (acked_called room (takeMessage_unknownText unknown text))
      · exact acks (acked_of room (takeMessage_unknown unknown text) (.refl d) rfl)
    · by_cases text : m.intent = 5
      · have taken := takeMessage_text known text
        rw [if_pos none] at taken
        exact acks (acked_called room taken)
      · exact acks (acked_of room (takeMessage_noPupils known text none) (.refl d) rfl)
    · have taken := takeMessage_text known text
      rw [if_neg some] at taken
      refine ⟨fun free => ?_, fun full => ?_⟩
      · rw [if_neg (Nat.not_le.2 free)] at taken
        exact acks (acked_called room taken)
      · rw [if_pos full] at taken
        exact acks (acked_called room taken)
    · have taken := takeMessage_unauthorised known other some mayNot
      exact ⟨acks (acked_called room taken), called_listed room taken⟩
    · refine recordable_unfit some fun ⟨valid, h1, h4, _⟩ => ?_
      rcases unfit with zero | beyond | invalid
      · omega
      · omega
      · rw [invalid] at valid; cases valid
    · have taken := takeMessage_unrecorded known other some may unfit
      exact ⟨acks (acked_called room taken), called_listed room taken⟩
    · intro lastDay records
      refine ⟨fun none => ?_, fun quiet => ?_, ?_⟩
      · exact (recorded_noRoster room known other some may fits none).imp_left acks
      · have routine := recordAll_routine news fun t tagged => by
          obtain ⟨l, roster, e, held, tag⟩ := mem_absenceTags.1 tagged
          exact quiet l roster e held t tag
        exact ⟨fun there none => acks (recorded_acked room known other some may fits (if_pos ⟨there, none⟩) routine),
          fun h => acks (recorded_acked room known other some may fits (if_neg (by tauto)) routine)⟩
      · rintro x e rfl today held quiet stands
        have made : x ∈ d.excusesOf m c := recordable_some some fits ▸ List.mem_singleton_self x
        obtain ⟨first, last⟩ := excusesOf_covers today made
        obtain ⟨begun, lasts⟩ := mergedIn_covers first last d.ae.excuses
        have lone {r : RosterResult} {st : RosterState} (gives : d.Gives x r st) :
            records (if r = .alreadyIn then .alreadyIn else .accepted) ∧ stands st :=
          (recorded_lone room known other some may fits (fun f found => by
            obtain rfl := Option.some.inj (held.symm.trans found)
            exact quiet) gives).imp_left acks
        exact ⟨fun acts there => lone (gives_recorded held (recordAndApply_alreadyIn held begun lasts acts there)),
          fun absent expected => lone (gives_excused held (recordAndApply_excusedAway held begun lasts absent expected)),
          fun acts h => lone (gives_explained held begun lasts acts h),
          fun stays => lone (gives_recorded held (recordAndApply_unchanged held begun lasts stays))⟩
  · intro handed sender pupil acked desk
    let m : ParentMessage := ⟨key, roll, intent, dayCount, minute, number⟩
    have acks {b : Device} {code : AckCode} {contact first last : Nat} (h : handed = acknowledge code m contact first last b)
        (reads : Reads d b) : acked code contact first last b := by
      have named : d.ackPupil m = pupil := by
        have known : d.ae.sender m.key = sender := rfl
        clear_value sender
        cases sender with
        | none => exact ackPupil_unknown known
        | some c => exact ackPupil_known known
      have notice : d.ackNotice b code m contact first last = ⟨b.freeTag, .ackParent code intent roll first last, pupil, contact, key,
          1, d.tb.date, d.tb.second, 0, none⟩ := by unfold Device.ackNotice; rw [named]
      refine ⟨fun room => h.trans ?_, fun full => h.trans ?_⟩
      · rw [acknowledge_room reads code m contact first last room, notice]; rfl
      · rw [acknowledge_full reads code m contact first last full, notice]; rfl
    have calls (reason : CallReason) (urgent : Bool) (contact : Nat) : Reads d (desk reason urgent contact) := addCall_reads _ _ _ _
    refine ⟨rfl, fun unknown => ⟨fun text => acks (takeMessage_unknownText (m := m) unknown text) (calls _ _ _),
      fun other => acks (takeMessage_unknown (m := m) unknown other) (.refl d)⟩, fun c known =>
      ⟨fun text => acks (takeMessage_text (m := m) known text) (calls _ _ _),
        fun other none => acks (takeMessage_noPupils (m := m) known other none) (.refl d),
        fun other some mayNot => acks (takeMessage_unauthorised (m := m) known other some mayNot) (calls _ _ _),
        fun other some may => ?_⟩⟩
    intro listed lastDay news fits did code
    have made : d.excusesOf m c = news := congrArg (List.map (d.excuseOf m c)) (targets_eq roll c)
    have fit : d.Fits m c ↔ fits := by unfold Device.Fits; rw [made]
    refine ⟨fun unfit => ?_, fun fitting => ?_⟩
    · have unrecorded := recordable_unfit (m := m) some (mt fit.1 unfit)
      exact acks (takeMessage_unrecorded (m := m) known other some may unrecorded) (calls _ _ _)
    · have recorded := recordable_fits (fit.2 fitting)
      rw [made] at recorded
      exact acks (takeMessage_recorded (m := m) known other some may recorded) (recordAll_reads news d)
  · intro m table ref base moved did
    refine ⟨recordAndApply_unacted, fun e held begun lasts => ⟨fun stays => ?_, fun late expected => ?_, fun acts there => ?_,
      fun absent expected => ?_, fun acts provisional => ?_, fun acts unexplained => ?_⟩⟩
    · exact recordAndApply_unchanged held begun lasts (by tauto)
    · exact recordAndApply_unchanged held begun lasts (.inr (.inr (.inr (.inr ⟨late, expected⟩))))
    · exact recordAndApply_alreadyIn held begun lasts acts there
    · exact recordAndApply_excusedAway held begun lasts absent expected
    · exact recordAndApply_explained held begun lasts acts provisional
    · exact recordAndApply_withdraws held begun lasts acts unexplained

end Sys2Proof.Machine
end

section
/-! O40: the bulletin fan-out, its requests and its step (R111, R123, R124). -/
namespace Sys2Proof.Machine

/-! ### COMPOSE_BULLETIN and STOP_BULLETIN -/

theorem composeBulletinOutside_iff (number cohorts sites : Nat) :
    (number == 0 || cohorts == 0 || sites == 0 || !fitsMask 7 cohorts || !fitsMask 3 sites) = true ↔
      number = 0 ∨ cohorts = 0 ∨ sites = 0 ∨ 128 ≤ cohorts ∨ 8 ≤ sites := by
  simp only [Bool.or_eq_true, beq_iff_eq, fitsMask, Bool.not_eq_true', decide_eq_false_iff_not, Nat.not_lt, or_assoc, Nat.reducePow]

section
variable {number cohorts sites : Nat} {d : Device}

theorem serveComposeBulletin_range (outside : number = 0 ∨ cohorts = 0 ∨ sites = 0 ∨ 128 ≤ cohorts ∨ 8 ≤ sites) :
    serveComposeBulletin number cohorts sites d = refuse .range d := checked_fails_of (composeBulletinOutside_iff _ _ _) outside

variable (inside : ¬ (number = 0 ∨ cohorts = 0 ∨ sites = 0 ∨ 128 ≤ cohorts ∨ 8 ≤ sites))
include inside

theorem composeBulletin_inside :
    (number == 0 || cohorts == 0 || sites == 0 || !fitsMask 7 cohorts || !fitsMask 3 sites) = false :=
  Bool.eq_false_iff.2 (mt (composeBulletinOutside_iff _ _ _).1 inside)

theorem serveComposeBulletin_busy (active : d.tb.rollover.isSome = true) :
    serveComposeBulletin number cohorts sites d = refuse .busy d := checked_busy (composeBulletin_inside inside) active

variable (idle : d.tb.rollover = none)
include idle

theorem serveComposeBulletin_state (fanning : d.nu.fanout.status ≠ .idle) :
    serveComposeBulletin number cohorts sites d = refuse .state d :=
  (checked_steady (composeBulletin_inside inside) idle).trans (checked_fails (bne_iff_ne.2 fanning))
theorem serveComposeBulletin_starts (resting : d.nu.fanout.status = .idle) :
    serveComposeBulletin number cohorts sites d = (ok .empty, { d with nu.fanout :=
      ⟨.running, number, BitVec.ofNat 7 cohorts, BitVec.ofNat 3 sites, 1, 0, 0, d.nu.fanout.lastEnd⟩ }) :=
  (checked_steady (composeBulletin_inside inside) idle).trans (checked_passes (by rw [resting]; rfl))

end

section
variable {d : Device} (idle : d.tb.rollover = none)
include idle

theorem serveStopBulletin_resting (resting : d.nu.fanout.status = .idle) : serveStopBulletin d = (ok .empty, d) :=
  (checked_passes (rolling_idle idle)).trans (by rw [if_pos resting]; rfl)
theorem serveStopBulletin_ends (fanning : d.nu.fanout.status ≠ .idle) : serveStopBulletin d = (ok .empty, endFanout .stopped d) :=
  (checked_passes (rolling_idle idle)).trans (by rw [if_neg fanning]; rfl)

end

/-! ### Whom a bulletin concerns -/

/-- The site masks match a pupil by naming all three sites, or one of the pupil's start group in the present cycle. -/
theorem sitesMatch_iff {sites : SiteSet} {p : Pupil} {d : Device} {l : List (Option DuePoint)} (group : d.ae.groups[p.group]? = some l) :
    d.sitesMatch sites p = true ↔
      sites = 7 ∨ ∃ i q, i < d.tb.cycleLength ∧ l[i]? = some (some q) ∧ sites.getLsbD q.site = true := by
  have held : d.ae.groups.getD p.group [] = l := by rw [List.getD_eq_getElem?_getD, group]; rfl
  unfold Device.sitesMatch
  rw [held, Bool.or_eq_true, beq_iff_eq, List.any_eq_true]
  refine or_congr Iff.rfl ⟨?_, ?_⟩
  · rintro ⟨entry, inCycle, names⟩
    obtain ⟨i, at_i⟩ := List.mem_iff_getElem?.1 inCycle
    rw [List.getElem?_take, Option.ite_none_right_eq_some] at at_i
    cases entry with
    | none => cases names
    | some q => exact ⟨i, q, at_i.1, at_i.2, names⟩
  · rintro ⟨i, q, within, at_i, names⟩
    refine ⟨some q, List.mem_iff_getElem?.2 ⟨i, ?_⟩, names⟩
    rw [List.getElem?_take, if_pos within, at_i]

theorem concerned_iff {p : Pupil} {d : Device} {l : List (Option DuePoint)} (group : d.ae.groups[p.group]? = some l) :
    d.concerned p = true ↔ d.nu.fanout.cohorts.getLsbD (p.cohort - 1) = true ∧
      (d.nu.fanout.sites = 7 ∨ ∃ i q, i < d.tb.cycleLength ∧ l[i]? = some (some q) ∧ d.nu.fanout.sites.getLsbD q.site = true) := by
  unfold Device.concerned; rw [Bool.and_eq_true, sitesMatch_iff group]

/-! ### The step -/

theorem submit_bulk_room {n : Notice} {d : Device} (bulk : n.cls = .bulk) (room : d.nu.queueCount < 192) :
    submit n d = { d with nu.bulk := d.nu.bulk ++ [n] } := by
  unfold submit NoticeUnit.enqueue; rw [bulk]; exact if_pos (decide_eq_true room)
theorem compose_bulk_room {body : NoticeBody} {pupil contact key step subjectDay : Nat} {d : Device} (bulk : body.cls = .bulk)
    (room : d.nu.queueCount < 192) : compose body pupil contact key step subjectDay d = { d.tagGiven d.freeTag with
      nu.bulk := d.nu.bulk ++ [d.newNotice body pupil contact key step subjectDay] } :=
  submit_bulk_room bulk (by rw [tagGiven_queueCount]; exact room)

section
variable {d : Device}

theorem fanoutStep_resting (h : d.nu.fanout.status ≠ .running) : fanoutStep d = d := if_neg h

variable (running : d.nu.fanout.status = .running)
include running

theorem fanoutStep_unheld (unheld : d.ae.pupil d.nu.fanout.cursor = none) : fanoutStep d = fanoutOn d := by
  unfold fanoutStep; rw [if_pos running, unheld]

variable {p : Pupil} (held : d.ae.pupil d.nu.fanout.cursor = some p)
include held

theorem fanoutStep_passesOver (unconcerned : ¬ d.concerned p = true) : fanoutStep d = fanoutOn d := by
  unfold fanoutStep; rw [if_pos running, held]; exact if_neg unconcerned
theorem fanoutStep_concerned (concerned : d.concerned p = true) : fanoutStep d = bulletinFor p d := by
  unfold fanoutStep; rw [if_pos running, held]; exact if_pos concerned

end

section
variable {d : Device} {p : Pupil}

theorem bulletinFor_unheard (none : d.ae.notifiable p.roll 0 = none) :
    bulletinFor p d = fanoutOn { d with nu.fanout.passedBy := d.nu.fanout.passedBy + 1 } := by
  unfold bulletinFor; rw [none]

variable {n : Nat} {c : Contact} (heard : d.ae.notifiable p.roll 0 = some (n, c))
include heard

theorem bulletinFor_pauses (full : 192 ≤ d.nu.queueCount) : bulletinFor p d = { d with nu.fanout.status := .paused } := by
  unfold bulletinFor; rw [heard]; exact if_pos full
theorem bulletinFor_sends (room : d.nu.queueCount < 192) : bulletinFor p d = fanoutOn { d with
    nu.bulk := d.nu.bulk ++ [d.newNotice (.bulletin d.nu.fanout.bulletin) p.roll c.index c.key n d.tb.date]
    nu.nextTag := if 65535 ≤ d.freeTag then 1 else d.freeTag + 1
    nu.fanout.composed := d.nu.fanout.composed + 1 } := by
  unfold bulletinFor; rw [heard]
  refine (if_neg (Nat.not_le.2 room)).trans ?_
  dsimp only; rw [compose_bulk_room rfl room]; rfl

end

/-- Settles O40: the requests by their checks in order, the step by the pupil at the cursor, the contact found and the queue's room. -/
theorem bulletinsFanOut : Obligations.BulletinsFanOut := by
  refine ⟨fun s tag number cohorts sites ready => ?_, fun s tag ready => ⟨fun active => ?_, fun idle => ?_⟩, fun s powered => ?_⟩
  · intro compose outside
    have serves {t : Answer × Device} (h : serveComposeBulletin number cohorts sites s.dev = t) : compose = answers s tag 39 t.1 t.2 :=
      act_request_served ready h
    exact ⟨fun out => serves (serveComposeBulletin_range out), fun inside active => serves (serveComposeBulletin_busy inside active),
      fun inside idle fanning => serves (serveComposeBulletin_state inside idle fanning),
      fun inside idle resting => serves (serveComposeBulletin_starts inside idle resting)⟩
  · exact ⟨act_request_busy (serve := serveStopBulletin) ready active rfl,
      act_request_busy (serve := serveQueryFanout) ready active rfl⟩
  · exact ⟨fun resting => act_request_served ready (serveStopBulletin_resting idle resting),
      fun fanning => act_request_served ready (serveStopBulletin_ends idle fanning),
      act_request_idle (serve := serveQueryFanout) ready idle rfl⟩
  · intro f on
    have steps {d : Device} (h : fanoutStep s.dev = d) : exec .fanoutStep s = goesTo s d :=
      (act_powered_on powered).trans (congrArg (goesTo s) h)
    refine ⟨fun resting => steps (fanoutStep_resting resting), fun running unheld => steps (fanoutStep_unheld running unheld),
      fun p l running held group => ?_⟩
    intro concerned
    have named : s.dev.concerned p = true ↔ concerned := concerned_iff group
    have sends (h : concerned) : fanoutStep s.dev = bulletinFor p s.dev := fanoutStep_concerned running held (named.2 h)
    exact ⟨fun h => steps (fanoutStep_passesOver running held (mt named.1 h)),
      fun h unheard => steps ((sends h).trans (bulletinFor_unheard unheard)),
      fun n c h heard => ⟨fun full => steps ((sends h).trans (bulletinFor_pauses heard full)),
        fun room => steps ((sends h).trans (bulletinFor_sends heard room))⟩⟩

end Sys2Proof.Machine
end

section
/-! O41: the numbers and tags given, and the desk call list's entries (R108, R125, Table 7-6). -/
namespace Sys2Proof.Machine

/-! ### What is held -/

theorem notice?_some_iff {e : CallEntry} {n : Notice} : e.notice? = some n ↔ ∃ o sup, e.content = .notice n o sup := by
  unfold CallEntry.notice?
  cases e.content with
  | notice m o sup => simp
  | message => simp
  | parentUnaware => simp

theorem holdsTag_iff {e : CallEntry} {t : Nat} : e.holdsTag t = true ↔ ∃ m o sup, e.content = .notice m o sup ∧ m.tag = t := by
  unfold CallEntry.holdsTag
  cases e.content with
  | notice m o sup => simp
  | message => simp
  | parentUnaware => simp

theorem holdsTag_notice_iff {e : CallEntry} {t : Nat} : e.holdsTag t = true ↔ ∃ n, e.notice? = some n ∧ n.tag = t := by
  simp only [holdsTag_iff, notice?_some_iff]
  exact ⟨fun ⟨m, o, sup, is, tagged⟩ => ⟨m, ⟨o, sup, is⟩, tagged⟩, fun ⟨m, ⟨o, sup, is⟩, tagged⟩ => ⟨m, o, sup, is, tagged⟩⟩

/-- A tag is held in one of the places of a notice, in the called-today record or in the roster (R108). -/
theorem mem_heldTags {d : Device} {t : Nat} : t ∈ d.heldTags ↔ (∃ n ∈ d.nu.queued, n.tag = t) ∨ (∃ r ∈ d.rl.ring, r.notice.tag = t) ∨
    (∃ w ∈ d.nu.awaiting, w.notice.tag = t) ∨ (∃ e ∈ d.nu.calls, e.holdsTag t = true) ∨ (∃ c ∈ d.nu.calledToday, c.tag = t) ∨
      ∃ l, d.ae.roster = some l ∧ ∃ e ∈ l, e.absenceTag = some t := by
  have roster : t ∈ (d.ae.roster.getD []).filterMap (·.absenceTag) ↔ _ := mem_absenceTags (ae := d.ae)
  unfold Device.heldTags
  simp only [List.mem_append, or_assoc, List.mem_map, List.mem_filterMap, Option.map_eq_some_iff, roster, holdsTag_notice_iff]

/-- The tag the next composition gives is the first from the counter on that is not held. -/
theorem freeTag_first {d : Device} (room : d.heldTags.length < 65535) :
    d.freeTag ∉ d.heldTags ∧ ∃ k, d.freeTag = tryAt 65535 d.nu.nextTag k ∧ ∀ j, j < k → tryAt 65535 d.nu.nextTag j ∈ d.heldTags := by
  obtain ⟨k, -, given, free, before⟩ := firstFree_free (limit := Config.maxWord) d.heldTags d.nu.nextTag room
  have given : d.freeTag = tryAt 65535 d.nu.nextTag k := given
  exact ⟨by rw [given]; exact free, k, given, before⟩

/-! ### A new entry -/

/-- The number the next desk call entry gets (R125). -/
def NoticeUnit.callNumber (nu : NoticeUnit) : Nat :=
  firstFree Config.maxWord (nu.calls.map (·.number)) ((nu.calls.map (·.number)).length + 1) nu.nextCall

theorem callNumber_first {nu : NoticeUnit} (room : nu.calls.length < 128) :
    (∀ e ∈ nu.calls, e.number ≠ nu.callNumber) ∧ ∃ k, nu.callNumber = tryAt 65535 nu.nextCall k ∧
      ∀ j, j < k → ∃ e ∈ nu.calls, e.number = tryAt 65535 nu.nextCall j := by
  have few : (nu.calls.map (·.number)).length < 65535 := by rw [List.length_map]; omega
  obtain ⟨k, -, given, free, before⟩ := firstFree_free (limit := Config.maxWord) (nu.calls.map (·.number)) nu.nextCall few
  have given : nu.callNumber = tryAt 65535 nu.nextCall k := given
  refine ⟨fun e held same => free (List.mem_map.2 ⟨e, held, same.trans given⟩), k, given, fun j hj => List.mem_map.1 (before j hj)⟩

theorem addCall_enters {d : Device} (room : d.nu.calls.length < 128) (reason : CallReason) (urgent : Bool) (content : CallContent) :
    addCall reason urgent content d =
      let e : CallEntry := ⟨d.nu.callNumber, reason, urgent, d.tb.second, d.tb.date, content⟩
      ({ d with
        nu.calls := if urgent then d.nu.calls.filter (·.urgent) ++ e :: d.nu.calls.filter (!·.urgent) else d.nu.calls ++ [e]
        nu.nextCall := if 65535 ≤ d.nu.callNumber then 1 else d.nu.callNumber + 1 } : Device).raise .calls :=
  if_neg (mt of_decide_eq_true (Nat.not_le.2 room))

end Sys2Proof.Machine
end

section
/-! O41: CLOSE_CALL, QUERY_CALLS, QUERY_NOTICE and QUERY_NOTICES (R126, R127). -/
namespace Sys2Proof.Machine

/-! ### Looking for a number -/

section
variable {α : Type} {f : α → Nat} {l : List α}

theorem find?_number_none {n : Nat} (unheld : ∀ a ∈ l, f a ≠ n) : l.find? (f · == n) = none :=
  List.find?_eq_none.2 fun a held same => unheld a held (beq_iff_eq.1 same)

/-- Where no two members have the same number, the member found for a number is the one that has it. -/
theorem find?_number_some {a : α} (held : a ∈ l) (once : (l.map f).Nodup) : l.find? (f · == f a) = some a := by
  cases found : l.find? (f · == f a) with
  | none => exact absurd (beq_self_eq_true (f a)) (List.find?_eq_none.1 found a held)
  | some b =>
    have same : f b = f a := beq_iff_eq.1 (List.find?_some (p := (f · == f a)) found)
    rw [List.inj_on_of_nodup_map once (List.mem_of_find?_eq_some found) held same]

end

/-! ### The desk call list -/

section
variable {number : Nat} {d : Device}

theorem serveCloseCall_busy (active : d.tb.rollover.isSome = true) : serveCloseCall number d = refuse .busy d := by
  unfold serveCloseCall; split <;> exact checked_fails (rolling_active active)

variable (idle : d.tb.rollover = none)
include idle

theorem serveCloseCall_unlisted (unlisted : ∀ e ∈ d.nu.calls, e.number ≠ number) : serveCloseCall number d = refuse .notFound d := by
  unfold serveCloseCall; rw [find?_number_none unlisted]; exact checked_passes (rolling_idle idle)
theorem serveCloseCall_closes {e : CallEntry} (listed : d.nu.calls.find? (·.number == number) = some e) : serveCloseCall number d =
    (ok (.callClosed e.notice?.isSome e.reason), { d with nu.calls := d.nu.calls.filter (·.number != number) }) := by
  unfold serveCloseCall; rw [listed]; exact checked_passes (rolling_idle idle)

end

/-! ### One notice -/

theorem serveQueryNotice_busy {tag : Nat} {d : Device} (active : d.tb.rollover.isSome = true) :
    serveQueryNotice tag d = refuse .busy d := by
  unfold serveQueryNotice; split <;> exact checked_fails (rolling_active active)

section
variable {tag : Nat} {d : Device} (idle : d.tb.rollover = none)
include idle

theorem serveQueryNotice_found {body : ReplyBody} (found : d.noticeReply tag = some body) : serveQueryNotice tag d = (ok body, d) := by
  unfold serveQueryNotice; rw [found]; exact checked_passes (rolling_idle idle)
theorem serveQueryNotice_none (none : d.noticeReply tag = none) : serveQueryNotice tag d = refuse .notFound d := by
  unfold serveQueryNotice; rw [none]; exact checked_passes (rolling_idle idle)

end

section
variable {tag : Nat} {d : Device}

theorem noticeReply_queue {n : Notice} (held : n ∈ d.nu.queued) (tagged : n.tag = tag) (once : (d.nu.queued.map (·.tag)).Nodup) :
    d.noticeReply tag = some (.notice n .queue none none) := by
  subst tagged; unfold Device.noticeReply; rw [find?_number_some held once]

variable (unqueued : ∀ n ∈ d.nu.queued, n.tag ≠ tag)
include unqueued

theorem noticeReply_ring {r : RingEntry} (found : d.rl.ring.find? (·.notice.tag == tag) = some r) :
    d.noticeReply tag = some (.notice r.notice .ring none none) := by
  simp only [Device.noticeReply, find?_number_none unqueued, found]

variable (unringed : ∀ r ∈ d.rl.ring, r.notice.tag ≠ tag)
include unringed

theorem noticeReply_awaiting {w : Awaiting} (found : d.nu.awaitingOf tag = some w) :
    d.noticeReply tag = some (.notice w.notice .awaiting none (some w.deadline)) := by
  simp only [Device.noticeReply, find?_number_none unqueued, find?_number_none unringed, found]

variable (unawaited : d.nu.awaitingOf tag = none)
include unawaited

theorem noticeReply_calls {e : CallEntry} {n : Notice} (found : d.nu.calls.find? (CallEntry.holdsTag tag) = some e)
    (holds : e.notice? = some n) : d.noticeReply tag = some (.notice n .calls (some e.number) none) := by
  simp only [Device.noticeReply, find?_number_none unqueued, find?_number_none unringed, unawaited, found, holds, Option.map_some]

/-- A tag that no place of a notice holds is read from the called-today record. -/
theorem noticeReply_closed (uncalled : ∀ e ∈ d.nu.calls, e.holdsTag tag = false) : d.noticeReply tag =
    (d.nu.calledToday.find? (·.tag == tag)).map fun c => .noticeClosed c.roll c.reason := by
  have none : d.nu.calls.find? (CallEntry.holdsTag tag) = none :=
    List.find?_eq_none.2 fun e held => by rw [uncalled e held]; exact Bool.false_ne_true
  simp only [Device.noticeReply, find?_number_none unqueued, find?_number_none unringed, unawaited, none]

end

/-! ### The notices of a place -/

theorem noticesPlaceCode_none {place : Nat} (h1 : place ≠ 1) (h3 : place ≠ 3) : noticesPlaceCode place = none := by
  unfold noticesPlaceCode
  split
  · exact absurd rfl h1
  · exact absurd rfl h3
  · rfl

theorem serveQueryNotices_range {place position : Nat} {d : Device} (outside : (place ≠ 1 ∧ place ≠ 3) ∨ position = 0) :
    serveQueryNotices place position d = refuse .range d := by
  unfold serveQueryNotices
  cases code : noticesPlaceCode place with
  | none => rfl
  | some inQueue =>
    rcases outside with ⟨h1, h3⟩ | zero
    · rw [noticesPlaceCode_none h1 h3] at code; cases code
    · exact checked_fails (beq_iff_eq.2 zero)

section
variable {position : Nat} {d : Device} (first : 1 ≤ position) (idle : d.tb.rollover = none)
include first idle

theorem serveQueryNotices_queue : serveQueryNotices 1 position d =
    (ok (.notices .queue (((d.nu.queued.map fun n => (n, none)).drop (position - 1)).take 8) d.noticeCounts), d) :=
  checked_steady (beq_eq_false_iff_ne.2 (Nat.ne_of_gt first)) idle
theorem serveQueryNotices_awaiting : serveQueryNotices 3 position d = (ok (.notices .awaiting
    (((d.nu.awaiting.map fun w => (w.notice, some w.deadline)).drop (position - 1)).take 8) d.noticeCounts), d) :=
  checked_steady (beq_eq_false_iff_ne.2 (Nat.ne_of_gt first)) idle

end

/-- The counts QUERY_NOTICES gives, those of the ring filtered by class (R127). -/
theorem noticeCounts_eq (d : Device) : d.noticeCounts =
    let ringed (c : NoticeClass) : Nat := (d.rl.ring.filter fun r => r.notice.cls == c).length
    ⟨[d.nu.urgent.length, d.nu.routine.length, d.nu.bulk.length], d.nu.awaiting.length, [ringed .urgent, ringed .routine, ringed .bulk],
      d.nu.calls.length, d.nu.nextTag⟩ := by
  simp only [Device.noticeCounts, classCounts, List.filter_map, List.length_map]; rfl

/-! ### The obligation -/

/-- Settles O41: the first free number and tag by the tries of `firstFree`, each request by its checks in order, and a notice by the
place that holds its tag. -/
theorem deskCallsAreKeptAndRead : Obligations.DeskCallsAreKeptAndRead := by
  unfold Obligations.DeskCallsAreKeptAndRead
  intro counted
  refine ⟨fun d reason urgent content => ⟨fun full => addCall_refused _ _ _ full, fun room => ?_⟩, fun d reason outcome n => ⟨rfl, rfl⟩,
    fun d room => ?_, fun s tag n ready active => ?_, fun s tag number ⟨ready, idle⟩ => ?_, fun s tag position ready => ?_,
    fun s tag notice ⟨ready, idle⟩ => ?_, fun s tag position ⟨ready, idle⟩ => ?_, fun d => noticeCounts_eq d,
    fun nu t => ⟨rfl, rfl, rfl⟩, fun e n t => ⟨notice?_some_iff, holdsTag_iff⟩⟩
  · obtain ⟨free, k, given, before⟩ := callNumber_first room
    exact ⟨d.nu.callNumber, k, given, free, before, addCall_enters room reason urgent content⟩
  · intro held
    obtain ⟨free, k, given, before⟩ := freeTag_first room
    exact ⟨mt mem_heldTags.2 free, k, given, fun j hj => mem_heldTags.1 (before j hj)⟩
  · exact ⟨act_request_served ready (serveCloseCall_busy active), act_request_served ready (serveQueryNotice_busy active)⟩
  · exact ⟨fun unlisted => act_request_served ready (serveCloseCall_unlisted idle unlisted),
      fun e listed => act_request_served ready (serveCloseCall_closes idle listed)⟩
  · have serves {t : Answer × Device} (h : serveQueryCalls position s.dev = t) :
        exec (.queryCalls tag position) s = answers s tag 43 t.1 t.2 := act_request_served ready h
    exact ⟨fun outside => serves (checked_fails_of numberBad_iff outside),
      fun first last active => serves (checked_busy (numberBad_not first last) active),
      fun first last idle => serves (checked_steady (numberBad_not first last) idle)⟩
  · intro read
    have reads {body : ReplyBody} (found : s.dev.noticeReply notice = some body) : read = answers s tag 44 (ok body) s.dev :=
      act_request_served ready (serveQueryNotice_found idle found)
    refine ⟨fun n held tagged once => reads (noticeReply_queue held tagged once), fun unqueued =>
      ⟨fun r found => reads (noticeReply_ring unqueued found), fun unringed =>
        ⟨fun w found => reads (noticeReply_awaiting unqueued unringed found),
          fun e n unawaited found holds => reads (noticeReply_calls unqueued unringed unawaited found holds),
          fun unawaited uncalled => ?_⟩⟩⟩
    have closed := noticeReply_closed unqueued unringed unawaited uncalled
    refine ⟨fun c found => reads (by rw [closed, found]; rfl), fun unclosed => ?_⟩
    exact act_request_served ready (serveQueryNotice_none idle (by rw [closed, find?_number_none unclosed]; rfl))
  · exact ⟨fun place outside => act_request_served ready (serveQueryNotices_range outside),
      fun first => ⟨act_request_served ready (serveQueryNotices_queue first idle),
        act_request_served ready (serveQueryNotices_awaiting first idle)⟩⟩

end Sys2Proof.Machine
end

section
/-! The Relay Link's operations, each said once: what the transmitter is doing, marks taken, and the emptied link (R133, R138, R146). -/
namespace Sys2Proof.Machine

/-! ### What the transmitter is doing -/

theorem isReplay_iff (a : TxActivity) : a.isReplay = true ↔ ∃ l, a = .replay l := by
  cases a <;> simp [TxActivity.isReplay]
theorem isClearRun_iff (a : TxActivity) : a.isClearRun = true ↔ ∃ n, a = .clearRun n := by
  cases a <;> simp [TxActivity.isClearRun]
theorem isRewindRun_iff (a : TxActivity) : a.isRewindRun = true ↔ ∃ n, a = .rewindRun n := by
  cases a <;> simp [TxActivity.isRewindRun]

/-! ### Marks -/

/-- e is d but for what a mark applied reaches: receipts by the Attendance Engine, the Notice Unit and the Office Port, and the ring
with its read position. -/
def RingMove (d e : Device) : Prop :=
  e = { d with ae := e.ae, nu := e.nu, op := e.op, rl.ring := e.rl.ring, rl.readPos := e.rl.readPos }

theorem RingMove.refl (d : Device) : RingMove d d := rfl
theorem RingMove.trans {a b c : Device} (h1 : RingMove a b) (h2 : RingMove b c) : RingMove a c := by
  unfold RingMove at *; rw [h2, h1]
theorem RingMove.mainPower {d e : Device} (h : RingMove d e) : e.mainPower = d.mainPower := by rw [h]
theorem RingMove.rl {d e : Device} (h : RingMove d e) : e.rl = { d.rl with ring := e.rl.ring, readPos := e.rl.readPos } := by rw [h]

theorem NoticeMove.ringMove {d e : Device} (h : NoticeMove d e) : RingMove d e := by
  have same := h.rl
  unfold RingMove
  rw [same]; exact h
theorem retireOne_ringMove (d : Device) : RingMove d (retireOne d) := by
  unfold retireOne
  split
  · exact .refl d
  · exact RingMove.trans (b := { d with rl.ring := _, rl.readPos := _ }) rfl (receipt_move _ _).ringMove
theorem retire_ringMove (k : Nat) (d : Device) : RingMove d (retire k d) := by
  induction k generalizing d with
  | zero => exact .refl d
  | succ k ih => exact (retireOne_ringMove d).trans (ih _)
theorem applyMark_ringMove (m : Nat) (d : Device) : RingMove d (applyMark m d) := by
  unfold applyMark
  split
  · exact retire_ringMove _ d
  · exact .refl d

section
variable {m : Nat} {d : Device}

theorem takeMark_replay {l : List RingEntry} (h : d.rl.activity = .replay l) :
    takeMark m d = { d with rl.markHold := some (m % 128) } :=
  if_pos ((isReplay_iff _).2 ⟨l, h⟩)
theorem takeMark_applies (h : ∀ l, d.rl.activity ≠ .replay l) : takeMark m d = applyMark m d :=
  if_neg fun replay => let ⟨l, is⟩ := (isReplay_iff _).1 replay; h l is

/-- A mark taken leaves every item of the Relay Link but the ring, the read position and the mark hold. -/
theorem takeMark_rl (m : Nat) (d : Device) : (takeMark m d).rl =
    { d.rl with ring := (takeMark m d).rl.ring, readPos := (takeMark m d).rl.readPos, markHold := (takeMark m d).rl.markHold } := by
  unfold takeMark
  split
  · rfl
  · have moved := (applyMark_ringMove m d).rl
    rw [moved]

theorem applyMark_outside (h : d.rl.ring.length < d.rl.markAhead m) : applyMark m d = d := if_neg (Nat.not_le.2 h)
theorem applyMark_inside (h : d.rl.markAhead m ≤ d.rl.ring.length) : applyMark m d = retire (d.rl.markAhead m) d := if_pos h

end

/-- Retiring k notices is retiring one, k times over. -/
theorem foldl_retireOne {α : Type} (l : List α) (d : Device) : l.foldl (fun e _ => retireOne e) d = retire l.length d := by
  induction l generalizing d with
  | nil => rfl
  | cons a l ih => exact ih _

theorem retireOne_quiet {d : Device} (h : ∀ r ∈ d.rl.ring, r.notice.cls ≠ .urgent) :
    (retireOne d).nu = d.nu ∧ ∀ r ∈ (retireOne d).rl.ring, r.notice.cls ≠ .urgent := by
  unfold retireOne
  split
  · exact ⟨rfl, h⟩
  · rename_i r rest ring
    rw [ring] at h
    rw [receipt_other (h r List.mem_cons_self)]
    exact ⟨rfl, fun q hq => h q (List.mem_cons_of_mem _ hq)⟩
/-- The receipts of notices that are not URGENT leave the Notice Unit as it is (R115). -/
theorem retire_quiet (k : Nat) {d : Device} (h : ∀ r ∈ d.rl.ring, r.notice.cls ≠ .urgent) : (retire k d).nu = d.nu := by
  induction k generalizing d with
  | zero => rfl
  | succ k ih =>
    obtain ⟨same, quiet⟩ := retireOne_quiet h
    exact (ih quiet).trans same

/-! ### The emptied link -/

theorem emptyLink_rl (d : Device) : (emptyLink d).rl = d.rl.emptied := (emptyLink_move d).rl
theorem emptyLink_fallbackDelay (d : Device) : (emptyLink d).nu.fallbackDelay = d.nu.fallbackDelay :=
  (returnNotices_returned _ _ _ _ { d with rl := d.rl.emptied }).fallbackDelay

theorem leaveUp_rl (next : LinkState) (d : Device) : (leaveUp next d).rl =
    { d.rl.emptied with link := next, silence := none, downFor := 0, restartGuard := false } := by
  unfold leaveUp
  rw [(fallBackAll_move _).rl, raise_rl, emptyLink_rl]
theorem leaveUp_holds (next : LinkState) (d : Device) : (leaveUp next d).op.holds .link = true :=
  fallBackAll_holds (raise_holds_same _ _)
/-- No URGENT notice as old as the fallback delay stays queued once the link has left UP (R119). -/
theorem leaveUp_young (next : LinkState) (d : Device) : ∀ n ∈ (leaveUp next d).nu.urgent, n.age < 60 * d.nu.fallbackDelay := by
  rw [← emptyLink_fallbackDelay d]
  exact fallBackAll_leaves _

end Sys2Proof.Machine
end

section
/-! O48: the LINK lamp and QUERY_LINK (R149, R150). -/
namespace Sys2Proof.Machine

/-! ### The lamp -/

theorem autoCode_none {n : Nat} (h1 : n ≠ 1) (h2 : n ≠ 2) : autoCode n = none := by
  unfold autoCode; split
  · exact absurd rfl h1
  · exact absurd rfl h2
  · rfl
theorem onCode_none {n : Nat} (h1 : n ≠ 1) (h2 : n ≠ 2) : onCode n = none := by
  unfold onCode; split
  · exact absurd rfl h1
  · exact absurd rfl h2
  · rfl
theorem onCode_of (on : Bool) : onCode (if on then 1 else 2) = some on := by cases on <;> rfl

theorem lampLit_auto {rl : RelayLink} (auto : rl.lampAuto = true) : rl.lampLit = true ↔ rl.link = .up := by
  unfold RelayLink.lampLit; rw [if_pos auto, beq_iff_eq]
theorem lampLit_manual {rl : RelayLink} (manual : rl.lampAuto = false) : rl.lampLit = rl.lampManual := by
  unfold RelayLink.lampLit; rw [manual]; rfl

section
variable {n : Nat} {d : Device}

theorem serveLinkLampMode_uncoded (h1 : n ≠ 1) (h2 : n ≠ 2) : serveLinkLampMode n d = refuse .range d := by
  unfold serveLinkLampMode; rw [autoCode_none h1 h2]
theorem serveLamp_uncoded (h1 : n ≠ 1) (h2 : n ≠ 2) : serveLamp n d = refuse .range d := by
  unfold serveLamp; rw [onCode_none h1 h2]

variable {on : Bool}

theorem serveLamp_auto (auto : d.rl.lampAuto = true) : serveLamp (if on then 1 else 2) d = refuse .state d := by
  unfold serveLamp; rw [onCode_of]; exact checked_fails auto
theorem serveLamp_manual (manual : d.rl.lampAuto = false) :
    serveLamp (if on then 1 else 2) d = (ok .empty, { d with rl.lampManual := on }) := by
  unfold serveLamp; rw [onCode_of]; exact checked_passes manual

end

/-! ### The reply of QUERY_LINK -/

section
variable (rl : RelayLink)

theorem reply_start_iff : rl.reply.start = true ↔ rl.startOwed = true ∨ rl.frame = some .start := by
  simp [RelayLink.reply]
theorem reply_rewindRun_iff : rl.reply.rewindRun = true ↔ rl.runOwed = true ∨ ∃ n, rl.activity = .rewindRun n := by
  simp [RelayLink.reply, isRewindRun_iff]
theorem reply_rewind_iff : rl.reply.rewind = true ↔
    rl.rewindOwed = true ∨ rl.furtherOwed = true ∨ (∃ n, rl.activity = .clearRun n) ∨ ∃ l, rl.activity = .replay l := by
  simp [RelayLink.reply, isClearRun_iff, isReplay_iff, or_assoc]
theorem reply_ring : rl.reply.ring = [(rl.ring.filter (·.notice.cls == .urgent)).length,
    (rl.ring.filter (·.notice.cls == .routine)).length, (rl.ring.filter (·.notice.cls == .bulk)).length] := by
  simp only [RelayLink.reply, classCounts, List.filter_map, List.length_map]; rfl

end

/-- Settles O48: the lamp by its mode, each request by the value it carries, and the link's reply field by field. -/
theorem lampFollowsTheLink : Obligations.LampFollowsTheLink := by
  refine ⟨fun rl => ⟨lampLit_auto, lampLit_manual⟩, fun s tag n ready => ⟨fun h1 h2 => ?_, ?_, ?_, fun on auto => ?_, fun on manual => ?_⟩,
    fun s tag ready => ?_⟩
  · exact ⟨act_request_served ready (serveLinkLampMode_uncoded h1 h2), act_request_served ready (serveLamp_uncoded h1 h2)⟩
  · exact ⟨_, act_request_ready ready, rfl, lampLit_auto rfl, rfl⟩
  · exact ⟨_, act_request_ready ready, rfl, lampLit_manual rfl, rfl⟩
  · exact act_request_served ready (serveLamp_auto auto)
  · exact ⟨_, act_request_served ready (serveLamp_manual manual), rfl, lampLit_manual manual⟩
  · exact ⟨s.dev.rl.reply, act_request_ready ready, rfl, rfl, rfl, rfl, rfl, rfl, rfl, reply_start_iff _, reply_rewindRun_iff _,
      reply_rewind_iff _, isReplay_iff _, rfl, rfl, rfl, reply_ring _, rfl, rfl, rfl, rfl, rfl, rfl,
      fun down delayed => if_pos ⟨down, delayed⟩, fun other => if_neg (other.elim (fun h g => h g.1) (fun h g => g.2 h))⟩

end Sys2Proof.Machine
end

section
/-! O45: receive hold, RESYNC frames and the resync timer (R130, R143 to R146). -/
namespace Sys2Proof.Machine

section
variable {d : Device}

theorem badFrame_ignored (h : d.rl.link ≠ .up) : badFrame d = d := if_neg h
theorem badFrame_holding (up : d.rl.link = .up) (hold : d.rl.hold = true) :
    badFrame d = { d with rl.rewindCount := 0, rl.clearCount := 0 } :=
  (if_pos up).trans (if_pos hold)
theorem badFrame_enters (up : d.rl.link = .up) (free : d.rl.hold = false) :
    badFrame d = enterHold { d with rl.rewindCount := 0, rl.clearCount := 0 } :=
  (if_pos up).trans (if_neg (Bool.eq_false_iff.1 free))

theorem receiveMsg_bad {body : List Byte} (bad : msgContent body = none) (seq place mark : Nat) :
    receiveMsg seq place mark body d = badFrame d := by
  unfold receiveMsg
  rw [bad]
  split
  · rfl
  · rename_i other; exact (badFrame_ignored other).symm

theorem receiveResync_ignored (h : d.rl.link ≠ .up) (flag mark : Nat) : receiveResync flag mark d = d := if_neg h
theorem receiveResync_bad {flag : Nat} (h1 : flag ≠ 1) (h2 : flag ≠ 2) (mark : Nat) : receiveResync flag mark d = badFrame d := by
  unfold receiveResync
  rw [if_neg h1, if_neg h2]
  split
  · rfl
  · rename_i other; exact (badFrame_ignored other).symm
theorem receiveResync_rewind (up : d.rl.link = .up) (mark : Nat) : receiveResync 1 mark d = receiveRewind mark d := if_pos up
theorem receiveResync_clear (up : d.rl.link = .up) (mark : Nat) : receiveResync 2 mark d = receiveClear mark d := if_pos up

/-! ### A rewind request -/

theorem rewindRequest_further (busy : (∃ n, d.rl.activity = .clearRun n) ∨ ∃ l, d.rl.activity = .replay l) :
    rewindRequest d = { d with rl.furtherOwed := true } := by
  rw [← isClearRun_iff, ← isReplay_iff, ← Bool.or_eq_true] at busy
  exact if_pos busy
theorem rewindRequest_owed (idle : ¬ ((∃ n, d.rl.activity = .clearRun n) ∨ ∃ l, d.rl.activity = .replay l)) :
    rewindRequest d = { d with rl.rewindOwed := true } := by
  rw [← isClearRun_iff, ← isReplay_iff, ← Bool.or_eq_true] at idle
  exact if_neg idle

/-! ### RESYNC frames in UP -/

/-- A RESYNC heard in UP: the silence timer restarts, the restart guard falls, and the counts become as given (R144). -/
def Device.resyncHeard (rewind clear : Nat) (d : Device) : Device := { d with
  rl.silence := some 0, rl.restartGuard := false, rl.rewindCount := rewind, rl.clearCount := clear }

section
variable {mark : Nat}

theorem receiveRewind_reached (h : d.rl.rewindCount + 1 = d.rl.settings.threshold) :
    receiveRewind mark d = takeMark mark (rewindRequest (d.resyncHeard d.rl.settings.threshold 0)) := by
  unfold receiveRewind
  rw [h, Nat.min_self]
  exact if_pos (beq_self_eq_true _)
theorem receiveRewind_counted (h : d.rl.rewindCount + 1 ≠ d.rl.settings.threshold) : receiveRewind mark d =
    let counted := d.resyncHeard (min d.rl.settings.threshold (d.rl.rewindCount + 1)) 0
    if d.rl.hold then counted else takeMark mark counted :=
  if_neg (mt beq_iff_eq.1 h)

theorem receiveClear_free (free : d.rl.hold = false) : receiveClear mark d =
    takeMark mark (d.resyncHeard 0 (min d.rl.settings.threshold (d.rl.clearCount + 1))) :=
  if_neg (Bool.eq_false_iff.1 free)
theorem receiveClear_counted (hold : d.rl.hold = true) (h : d.rl.clearCount + 1 ≠ d.rl.settings.threshold) :
    receiveClear mark d = d.resyncHeard 0 (min d.rl.settings.threshold (d.rl.clearCount + 1)) :=
  (if_pos hold).trans (if_neg (mt beq_iff_eq.1 h))
/-- The CLEAR frame at the threshold ends the hold (R144). -/
theorem receiveClear_reached (hold : d.rl.hold = true) (h : d.rl.clearCount + 1 = d.rl.settings.threshold) :
    receiveClear mark d = takeMark mark
      { d.resyncHeard 0 d.rl.settings.threshold with rl.hold := false, rl.resyncTimer := false, rl.attempts := 0 } := by
  unfold receiveClear
  rw [h, Nat.min_self]
  exact (if_pos hold).trans (if_pos (beq_self_eq_true _))

end

/-! ### The resync timer -/

theorem resyncExpired_still (h : ¬ (d.rl.link = .up ∧ d.rl.hold = true ∧ d.rl.resyncTimer = true)) : resyncExpired d = d :=
  if_neg h

variable (holding : d.rl.link = .up ∧ d.rl.hold = true ∧ d.rl.resyncTimer = true)
include holding

theorem resyncExpired_attempt (few : d.rl.attempts + 1 < d.rl.settings.attemptLimit) : resyncExpired d = { d with
    rl.attempts := d.rl.attempts + 1, rl.runOwed := d.rl.runOwed || !d.rl.activity.isRewindRun } :=
  (if_pos holding).trans (if_pos few)
theorem resyncExpired_last (last : d.rl.settings.attemptLimit ≤ d.rl.attempts + 1) : resyncExpired d = leaveUp .down d :=
  (if_pos holding).trans (if_neg (Nat.not_lt.2 last))

end

/-- Settles O45: each frame and expiry by the link state, receive hold and the count before it. -/
theorem linkRecovers : Obligations.LinkRecovers := by
  refine ⟨fun s powered => ?_, fun s mark powered up => ?_, fun s powered => ?_⟩
  · intro counted
    have resync (flag mark : Nat) : exec (.rxResync flag mark) s = goesTo s (receiveResync flag mark s.dev) := act_powered_on powered
    have bad : exec .rxBadFrame s = goesTo s (badFrame s.dev) := act_powered_on powered
    rw [bad]
    refine ⟨act_powered_on powered, fun other => by rw [badFrame_ignored other], fun up hold => by rw [badFrame_holding up hold],
      fun up free => by rw [badFrame_enters up free]; rfl, fun seq place mark body notSound => ?_, fun flag mark h1 h2 => ?_,
      fun other flag mark => ?_⟩
    · have msg : exec (.rxMsg seq place mark body) s = goesTo s (receiveMsg seq place mark body s.dev) := act_powered_on powered
      rw [msg, receiveMsg_bad notSound]
    · rw [resync, receiveResync_bad h1 h2]
    · rw [resync, receiveResync_ignored other]
  · intro rl counts busy
    have rewind : exec (.rxResync 1 mark) s = goesTo s (receiveRewind mark s.dev) := by
      rw [← receiveResync_rewind up]; exact act_powered_on powered
    have clear : exec (.rxResync 2 mark) s = goesTo s (receiveClear mark s.dev) := by
      rw [← receiveResync_clear up]; exact act_powered_on powered
    have counted {n : Nat} (other : rl.rewindCount + 1 ≠ rl.settings.threshold)
        (count : min rl.settings.threshold (rl.rewindCount + 1) = n) :
        (rl.hold = true → receiveRewind mark s.dev = counts n 0) ∧
        (rl.hold = false → receiveRewind mark s.dev = takeMark mark (counts n 0)) := by
      rw [receiveRewind_counted other, ← count]
      exact ⟨fun hold => if_pos hold, fun free => if_neg (Bool.eq_false_iff.1 free)⟩
    rw [rewind, clear]
    refine ⟨fun below => ?_, fun reached => ?_, fun beyond => ?_, fun free => ?_, fun hold other => ?_, fun hold reached => ?_⟩
    · obtain ⟨holding, free⟩ := counted (Nat.ne_of_lt below) (Nat.min_eq_right (Nat.le_of_lt below))
      exact ⟨fun hold => congrArg _ (holding hold), fun out => congrArg _ (free out)⟩
    · rw [receiveRewind_reached reached]
      have further := rewindRequest_further (d := s.dev.resyncHeard rl.settings.threshold 0)
      have owed := rewindRequest_owed (d := s.dev.resyncHeard rl.settings.threshold 0)
      exact ⟨fun is => by rw [further is]; rfl, fun idle => by rw [owed idle]; rfl⟩
    · have past : rl.rewindCount < rl.rewindCount + 1 := Nat.lt_succ_self _
      obtain ⟨holding, free⟩ := counted (by omega) (Nat.min_eq_left (by omega))
      exact ⟨fun hold => congrArg _ (holding hold), fun out => congrArg _ (free out)⟩
    · rw [receiveClear_free free]; rfl
    · rw [receiveClear_counted hold other]; rfl
    · rw [receiveClear_reached hold reached]; rfl
  · intro rl holding
    have expires : exec .resyncTimeout s = goesTo s (resyncExpired s.dev) := act_powered_on powered
    rw [expires]
    refine ⟨fun still => by rw [resyncExpired_still still], fun held few => ?_, fun held last => ⟨_, rfl, ?_⟩⟩
    · rw [resyncExpired_attempt held few]
      refine ⟨fun running => ?_, fun idle => ?_⟩
      · rw [(isRewindRun_iff _).2 running, Bool.not_true, Bool.or_false]
      · have none : rl.activity.isRewindRun = false :=
          Bool.eq_false_iff.2 fun running => let ⟨n, is⟩ := (isRewindRun_iff _).1 running; idle n is
        rw [none, Bool.not_false, Bool.or_true]
    · rw [resyncExpired_last held last]
      have left := leaveUp_rl .down s.dev
      exact ⟨congrArg RelayLink.link left, congrArg RelayLink.hold left, congrArg RelayLink.attempts left,
        congrArg RelayLink.ring left, leaveUp_holds _ _, leaveUp_young _ _⟩

end Sys2Proof.Machine
end

section
/-! O44: MSG, MARK and IDLE frames and the mark taken (R19, R130, R133, R135, R142, Table 11-7). -/
namespace Sys2Proof.Machine

/-! ### The body of a MSG -/

theorem msgContent_long {body : List Byte} (h : body = [] ∨ 48 < body.length) : msgContent body = none := by
  unfold msgContent
  split
  · rfl
  · exact if_pos (h.resolve_left (List.cons_ne_nil _ _))

section
variable {kind : Byte} {rest : List Byte} (short : (kind :: rest).length ≤ 48)
include short

theorem msgContent_unknown (h1 : kind ≠ 1#8) (h2 : kind ≠ 2#8) : msgContent (kind :: rest) = some .unknownKind := by
  unfold msgContent; dsimp only; rw [if_neg (Nat.not_lt.2 short), if_neg h1, if_neg h2]
theorem msgContent_parent_bad (is : kind = 1#8) (bad : rest.length ≠ 12) : msgContent (kind :: rest) = none := by
  unfold msgContent; dsimp only
  rw [if_neg (Nat.not_lt.2 short), if_pos is]
  split
  · exact absurd rfl bad
  · rfl
theorem msgContent_outcome_bad (is : kind = 2#8) (bad : rest.length ≠ 4) : msgContent (kind :: rest) = none := by
  subst is
  unfold msgContent; dsimp only
  rw [if_neg (Nat.not_lt.2 short), if_neg (by decide), if_pos rfl]
  split
  · exact absurd rfl bad
  · rfl

end

theorem bigEndian_two (a b : Byte) : bigEndian [a, b] = 256 * a.toNat + b.toNat := by
  simp only [bigEndian, List.foldl_cons, List.foldl_nil]; omega
theorem bigEndian_four (a b c d : Byte) :
    bigEndian [a, b, c, d] = 16777216 * a.toNat + 65536 * b.toNat + 256 * c.toNat + d.toNat := by
  simp only [bigEndian, List.foldl_cons, List.foldl_nil]; omega

theorem msgContent_parent (k0 k1 k2 k3 r0 r1 i c m0 m1 n0 n1 : Byte) :
    msgContent [1#8, k0, k1, k2, k3, r0, r1, i, c, m0, m1, n0, n1] =
      some (.parent (16777216 * k0.toNat + 65536 * k1.toNat + 256 * k2.toNat + k3.toNat)
        (256 * r0.toNat + r1.toNat) i.toNat c.toNat (256 * m0.toNat + m1.toNat) (256 * n0.toNat + n1.toNat)) := by
  rw [← bigEndian_four, ← bigEndian_two, ← bigEndian_two, ← bigEndian_two]; rfl
theorem msgContent_outcome (t0 t1 o c : Byte) :
    msgContent [2#8, t0, t1, o, c] = some (.outcome (256 * t0.toNat + t1.toNat) o.toNat c.toNat) := by
  rw [← bigEndian_two]; rfl

/-! ### A mark taken out of a replay -/

section
variable {d : Device} (out : ∀ l, d.rl.activity ≠ .replay l) {m : Nat}
include out

theorem takeMark_outside (h : d.rl.ring.length < d.rl.markAhead m) : takeMark m d = d :=
  (takeMark_applies out).trans (applyMark_outside h)
theorem takeMark_inside (h : d.rl.markAhead m ≤ d.rl.ring.length) : takeMark m d = retire (d.rl.markAhead m) d :=
  (takeMark_applies out).trans (applyMark_inside h)

end

/-- A mark in window becomes the read position (R133). -/
theorem readPos_markAhead (rl : RelayLink) (m : Nat) : (rl.readPos + rl.markAhead m) % 128 = m % 128 := by
  unfold RelayLink.markAhead Config.placeModulus; omega
theorem markAhead_eq {rl : RelayLink} (h : rl.readPos < 128) (m : Nat) : rl.markAhead m = (m + 128 - rl.readPos) % 128 := by
  unfold RelayLink.markAhead Config.placeModulus; omega

/-! ### Frames by the link's state and receive hold -/

section
variable {d : Device}

theorem receiveMark_ignored (h : d.rl.link ≠ .up) (mark : Nat) : receiveMark mark d = d := if_neg h
theorem receiveMsg_ignored (h : d.rl.link ≠ .up) (seq place mark : Nat) (body : List Byte) : receiveMsg seq place mark body d = d :=
  if_neg h

variable (up : d.rl.link = .up)
include up

theorem receiveMark_holding (hold : d.rl.hold = true) (mark : Nat) : receiveMark mark d = heard d := (if_pos up).trans (if_pos hold)
theorem receiveMark_free (free : d.rl.hold = false) (mark : Nat) : receiveMark mark d = takeMark mark (heard d) :=
  (if_pos up).trans (if_neg (Bool.eq_false_iff.1 free))

variable {seq place mark : Nat} {body : List Byte} {c : MsgContent} (sound : msgContent body = some c)
include sound

theorem receiveMsg_holding (hold : d.rl.hold = true) : receiveMsg seq place mark body d = heard d := by
  unfold receiveMsg; rw [if_pos up, sound]; exact if_pos hold
theorem receiveMsg_free (free : d.rl.hold = false) : receiveMsg seq place mark body d = judgeMsg seq place mark c (heard d) := by
  unfold receiveMsg; rw [if_pos up, sound]; exact if_neg (Bool.eq_false_iff.1 free)

end

/-! ### A MSG out of hold -/

section
variable {d : Device} {seq place mark : Nat} {c : MsgContent}

theorem judgeMsg_full (active : d.tb.rollover.isSome = true) (full : 64 ≤ d.rl.rolloverHold.length) :
    judgeMsg seq place mark c d = enterHold d :=
  if_pos (by rw [rolling_active active]; exact decide_eq_true full)

theorem judgeMsg_room (room : d.tb.rollover = none ∨ d.rl.rolloverHold.length < 64) : judgeMsg seq place mark c d =
    if seq = nextOf 255 d.rl.lastSeq then takeMsg seq place mark c d
    else if d.rl.placeBehind place ≤ 63 then takeMark mark d else enterHold d := by
  refine if_neg fun overfull => ?_
  obtain ⟨active, full⟩ := (Bool.and_eq_true _ _).mp overfull
  rcases room with idle | few
  · rw [rolling_idle idle] at active; cases active
  · exact Nat.not_le.2 few (of_decide_eq_true full)

/-- With no rollover ACTIVE a MSG taken is handed on, and its place becomes the collected mark (R142). -/
theorem takeMsg_idle (idle : d.tb.rollover = none) : takeMsg seq place mark c d = takeContent c
    { takeMark mark d with
      rl.lastSeq := seq, rl.lastPlace := place % 128, rl.collected := place % 128
      rl.markDue := d.rl.markDue && place % 128 != d.rl.lastMark } := by
  obtain ⟨due, last⟩ := takeMark_due mark d
  rw [← due, ← last]
  exact if_neg (Bool.eq_false_iff.1 (rolling_idle idle))
/-- During a rollover it is held (R19). -/
theorem takeMsg_rolling (active : d.tb.rollover.isSome = true) : takeMsg seq place mark c d = { takeMark mark d with
    rl.lastSeq := seq, rl.lastPlace := place % 128, rl.rolloverHold := d.rl.rolloverHold ++ [⟨place % 128, c⟩] } := by
  have held : (takeMark mark d).rl.rolloverHold = d.rl.rolloverHold := by rw [takeMark_rl]
  rw [← held]
  exact if_pos active

end

/-- Settles O44: each frame by the link state, receive hold, its seq and place; a mark by its window; a body by its kind and length. -/
theorem linkReceives : Obligations.LinkReceives := by
  refine ⟨fun s seq place mark body powered other => ?_, fun s mark powered up inRange => ?_,
    fun s seq place mark body c powered up sound => ?_, fun d => rfl, fun m d => ?_, fun body => ⟨msgContent_long, ?_⟩⟩
  · have msg : exec (.rxMsg seq place mark body) s = goesTo s (receiveMsg seq place mark body s.dev) := act_powered_on powered
    have taken : exec (.rxMark mark) s = goesTo s (receiveMark mark s.dev) := act_powered_on powered
    have idle : exec (.rxIdle mark) s = goesTo s (receiveMark mark s.dev) := act_powered_on powered
    rw [msg, taken, idle, receiveMsg_ignored other, receiveMark_ignored other]
    exact ⟨rfl, rfl, rfl⟩
  · intro heard' ahead
    have taken : exec (.rxMark mark) s = goesTo s (receiveMark mark s.dev) := act_powered_on powered
    have window : heard'.rl.markAhead mark = ahead := markAhead_eq inRange mark
    rw [taken]
    refine ⟨act_powered_on powered, fun hold => congrArg _ (receiveMark_holding up hold mark),
      fun free => congrArg _ (receiveMark_free up free mark), fun free => ?_⟩
    rw [receiveMark_free up free]
    refine ⟨fun l replay => congrArg _ (takeMark_replay replay), fun out => ⟨fun beyond => ?_, fun within => ?_⟩⟩
    · exact congrArg _ (takeMark_outside (d := heard') out (by rw [window]; exact beyond))
    · have retired : takeMark mark (heard s.dev) = retire ahead heard' := by
        rw [← window]; exact takeMark_inside (d := heard') out (by rw [window]; exact within)
      refine ⟨_, rfl, ?_, fun quiet => ?_⟩
      · rw [retired, retire_rl ahead heard' within inRange, ← window, readPos_markAhead]
      · rw [retired, retire_quiet ahead (d := heard') quiet]
  · intro rl heard' held next again receive
    have receives : receive = goesTo s (receiveMsg seq place mark body s.dev) := act_powered_on powered
    have judged (free : rl.hold = false) : receive = goesTo s (judgeMsg seq place mark c heard') := by
      rw [receives, receiveMsg_free up sound free]; rfl
    have takes (free : rl.hold = false) (room : s.dev.tb.rollover = none ∨ rl.rolloverHold.length < 64) (is : next) :
        receive = goesTo s (takeMsg seq place mark c heard') := by
      rw [judged free, judgeMsg_room (d := heard') room]
      exact congrArg _ (if_pos is)
    refine ⟨fun hold => ?_, fun free is idle => ?_, fun free is active room => ⟨_, takes free (.inr room) is, ?_⟩,
      fun free active full => ?_, fun free room not => ?_⟩
    · rw [receives, receiveMsg_holding up sound hold]; rfl
    · rw [takes free (.inl idle) is, takeMsg_idle (d := heard') idle]
    · rw [takeMsg_rolling (d := heard') active]
      have collected : (takeMark mark heard').rl.collected = rl.collected := by rw [takeMark_rl]
      exact ⟨rfl, collected, rfl⟩
    · rw [judged free, judgeMsg_full (d := heard') active full]; rfl
    · rw [judged free, judgeMsg_room (d := heard') room]
      exact ⟨fun is => congrArg _ ((if_neg not).trans (if_pos is)), fun new => congrArg _ ((if_neg not).trans (if_neg new))⟩
  · intro ahead
    refine ⟨fun l replay => takeMark_replay replay, fun out => ⟨takeMark_outside out, fun within => ?_⟩⟩
    have retired : takeMark m d = retire ahead d := takeMark_inside out within
    rw [retired, ← List.length_range (n := ahead), ← foldl_retireOne, List.length_range]
    rfl
  · rintro kind rest rfl short
    refine ⟨msgContent_unknown short, fun is => ⟨msgContent_parent_bad short is, ?_⟩,
      fun is => ⟨msgContent_outcome_bad short is, ?_⟩⟩
    · rintro k0 k1 k2 k3 r0 r1 i c m0 m1 n0 n1 rfl
      rw [is, msgContent_parent]
    · rintro t0 t1 o c rfl
      rw [is, msgContent_outcome]

end Sys2Proof.Machine
end

section
/-! O46: the transmitter's choice, the ends of runs and replays, and what is offered (R61, R114, R124, R132, R134, R135, R146). -/
namespace Sys2Proof.Machine

/-! ### The line falls free -/

/-- The device with no frame going out. -/
def Device.frameOver (d : Device) : Device := { d with rl.frame := none }

section
variable {d : Device}

theorem frameOver_none (h : d.rl.frame = none) : d.frameOver = d := by unfold Device.frameOver; rw [← h]

theorem lineFree_up (up : d.rl.link = .up) : lineFree d = choose (lineFalls d) := by unfold lineFree; rw [up]
theorem lineFree_starting (starting : d.rl.link = .starting) : lineFree d = d.frameOver := by
  unfold lineFree; rw [starting]; rfl
theorem lineFree_silent (silent : d.rl.link = .off ∨ d.rl.link = .down) : lineFree d = d := by
  unfold lineFree; rcases silent with h | h <;> rw [h]

theorem lineFalls_rest (h : d.rl.activity = .rest) : lineFalls d = d.frameOver := by
  unfold lineFalls; rw [h]; rfl
theorem lineFalls_rewindEnds (h : d.rl.activity = .rewindRun 0) : lineFalls d = { d.frameOver with rl.activity := .rest } := by
  unfold lineFalls; rw [h]; rfl
theorem lineFalls_rewindRun {n : Nat} (h : d.rl.activity = .rewindRun (n + 1)) : lineFalls d = d.frameOver := by
  unfold lineFalls; rw [h]; rfl
theorem lineFalls_clearRun {n : Nat} (h : d.rl.activity = .clearRun (n + 1)) : lineFalls d = d.frameOver := by
  unfold lineFalls; rw [h]; rfl

/-- A replay has just these notices left to send, or begins with just these in the ring (R146). -/
def RelayLink.Replays (l : List RingEntry) (rl : RelayLink) : Prop := rl.activity = .replay l ∨ rl.activity = .clearRun 0 ∧ rl.ring = l

theorem lineFalls_replays {e : RingEntry} {l : List RingEntry} (next : d.rl.Replays (e :: l)) :
    lineFalls d = { d.frameOver with rl.activity := .replay (e :: l) } := by
  unfold lineFalls Device.frameOver
  dsimp only
  rcases next with h | ⟨h, held⟩
  · rw [h]
  · rw [h, held]; rfl
theorem lineFalls_replayEnds (spent : d.rl.Replays []) : lineFalls d = endReplay d.frameOver := by
  unfold lineFalls
  rcases spent with h | ⟨h, empty⟩
  · rw [h]; rfl
  · rw [h, empty]; rfl

/-- The device once a replay is over: a further rewind is the one owed, and the mark hold is empty (R146). -/
def Device.replayOver (d : Device) : Device := { d with
  rl.activity := .rest, rl.rewindOwed := d.rl.rewindOwed || d.rl.furtherOwed, rl.furtherOwed := false, rl.markHold := none }

theorem endReplay_unheld (empty : d.rl.markHold = none) : endReplay d = d.replayOver := by
  unfold endReplay; rw [empty]; rfl
/-- The mark of the mark hold is applied, as no replay is in progress any more. -/
theorem replayOver_marked (m : Nat) (d : Device) : RingMove d.replayOver (takeMark m d.replayOver) := by
  rw [takeMark_applies (by exact nofun)]; exact applyMark_ringMove m _
theorem endReplay_held {m : Nat} (held : d.rl.markHold = some m) : endReplay d = takeMark m d.replayOver := by
  unfold endReplay; rw [held]; rfl

/-! ### The transmitter's choice -/

theorem choose_start (owed : d.rl.startOwed = true) : choose d = send .start 0 { d with rl.startOwed := false } := if_pos owed

section
variable (noStart : d.rl.startOwed = false)
include noStart

theorem choose_new (rest : d.rl.activity = .rest) : choose d = chooseNew d := by
  unfold choose; rw [noStart, rest]; rfl
theorem choose_rewindRun {n : Nat} (h : d.rl.activity = .rewindRun (n + 1)) :
    choose d = send (.resyncRewind d.rl.collected) d.rl.collected { d with rl.activity := .rewindRun n } := by
  unfold choose; rw [noStart, h]; rfl
theorem choose_clearRun {n : Nat} (h : d.rl.activity = .clearRun (n + 1)) :
    choose d = send (.resyncClear d.rl.collected) d.rl.collected { d with rl.activity := .clearRun n } := by
  unfold choose; rw [noStart, h]; rfl
theorem choose_replay {e : RingEntry} {l : List RingEntry} (h : d.rl.activity = .replay (e :: l)) :
    choose d = send (.note e.seq e.place d.rl.collected e.notice) d.rl.collected { d with rl.activity := .replay l } := by
  unfold choose; rw [noStart, h]; rfl

end

theorem chooseNew_run (owed : d.rl.runOwed = true) : chooseNew d = send (.resyncRewind d.rl.collected) d.rl.collected
    { d with rl.runOwed := false, rl.activity := .rewindRun (d.rl.settings.runLength - 1) } := if_pos owed

section
variable (noRun : d.rl.runOwed = false)
include noRun

theorem chooseNew_rewind (owed : d.rl.rewindOwed = true) : chooseNew d = send (.resyncClear d.rl.collected) d.rl.collected
    { d with rl.rewindOwed := false, rl.activity := .clearRun (d.rl.settings.runLength - 1) } := by
  unfold chooseNew; rw [noRun, owed]; rfl

variable (noRewind : d.rl.rewindOwed = false)
include noRewind

theorem chooseNew_notice {n : Notice} (offered : d.offered = some n) : chooseNew d = dispatch n d := by
  unfold chooseNew; rw [noRun, noRewind, offered]; rfl

variable (unoffered : d.offered = none)
include unoffered

theorem chooseNew_mark (due : d.rl.markDue = true ∧ d.rl.collected ≠ d.rl.lastMark) :
    chooseNew d = send (.mark d.rl.collected) d.rl.collected d := by
  have due : (d.rl.markDue && d.rl.collected != d.rl.lastMark) = true := by rw [Bool.and_eq_true, bne_iff_ne]; exact due
  unfold chooseNew; rw [noRun, noRewind, unoffered, due]; rfl
theorem chooseNew_quiet (undue : ¬ (d.rl.markDue = true ∧ d.rl.collected ≠ d.rl.lastMark)) :
    chooseNew d = if d.rl.idleDue then send (.idle d.rl.collected) d.rl.collected d else d := by
  have undue : (d.rl.markDue && d.rl.collected != d.rl.lastMark) = false := by
    rw [← Bool.not_eq_true, Bool.and_eq_true, bne_iff_ne]; exact undue
  unfold chooseNew; rw [noRun, noRewind, unoffered, undue]; rfl

end

/-! ### What is offered -/

theorem canTake_iff (rl : RelayLink) : rl.canTake = true ↔ rl.link = .up ∧ rl.hold = false ∧ rl.startOwed = false ∧
    rl.runOwed = false ∧ rl.rewindOwed = false ∧ rl.furtherOwed = false ∧ rl.activity = .rest := by
  simp [RelayLink.canTake, and_assoc]

theorem ringRoom_eq (c : NoticeClass) (occupancy : Nat) : ringRoom c occupancy =
    decide (occupancy < match c with | .urgent => 64 | .routine => 56 | .bulk => 32) := by
  cases c <;> rfl

theorem offered_iff {n : Notice} : d.offered = some n ↔ d.tb.rollover = none ∧ d.rl.canTake = true ∧
    d.nu.queued.find? (fun m => ringRoom m.cls d.rl.ring.length) = some n := by
  have idle : d.rolling = false ↔ d.tb.rollover = none := Option.isSome_eq_false_iff.trans Option.isNone_iff_eq_none
  unfold Device.offered
  rw [← idle]
  split
  · rename_i takes
    rw [Bool.and_eq_true, Bool.not_eq_true'] at takes
    exact ⟨fun found => ⟨takes.1, takes.2, found⟩, fun h => h.2.2⟩
  · rename_i not
    rw [Bool.and_eq_true, Bool.not_eq_true'] at not
    exact ⟨nofun, fun h => absurd ⟨h.1, h.2.1⟩ not⟩

theorem dispatch_queued (n : Notice) (d : Device) (m : Notice) :
    m ∈ (dispatch n d).nu.queued ↔ m ∈ d.nu.queued ∧ m.tag ≠ n.tag := by
  have left : (dispatch n d).nu.queued = d.nu.queued.filter (·.tag != n.tag) :=
    leaveQueue_queued n.tag { d with rl.ring := _, rl.sendSeq := _ }
  rw [left, List.mem_filter, bne_iff_ne]

end

/-- Settles O46: what the line falling free ends, then the first choice that applies; each expiry and the offer by their tests. -/
theorem lineIsUsed : Obligations.LineIsUsed := by
  intro s powered rl free sends
  have looked (d : Device) (h : d.mainPower = true) : exec .txLineFree { s with dev := d } = goesTo s (lineFree d) :=
    act_powered_on (s := { s with dev := d }) h
  have frees : free = goesTo s (lineFree s.dev) := looked s.dev powered
  have ends (up : rl.link = .up) {d : Device} (on : d.mainPower = true) (linked : d.rl.link = .up)
      (rest : d.rl.activity = .rest) (falls : lineFalls s.dev = d.frameOver) :
      free = exec .txLineFree { s with dev := d } := by
    rw [looked d on, lineFree_up linked, lineFalls_rest rest, ← falls, ← lineFree_up up, frees]
  have fallen (up : rl.link = .up) {d : Device} (h : lineFalls s.dev = d) : free = goesTo s (choose d) := by
    rw [frees, lineFree_up up, h]
  refine ⟨fun silent => ?_, fun starting => ?_, fun up rest => ?_, fun up run => ?_, fun up spent empty => ?_,
    fun m up spent held => ?_, fun n up noStart run => ?_, fun n up noStart run => ?_, fun e l up noStart next => ?_,
    fun up out differs => ?_, fun still => ?_, fun up silent => ?_, fun still => ?_, fun n => ?_⟩
  · rw [frees, lineFree_silent silent]
  · rw [frees, lineFree_starting starting]; rfl
  · intro none'
    have falls := lineFalls_rest (d := s.dev) rest
    have chosen (noStart : rl.startOwed = false) : free = goesTo s (chooseNew s.dev.frameOver) := by
      rw [fallen up falls, choose_new (d := s.dev.frameOver) noStart rest]
    refine ⟨fun owed => ?_, fun noStart owed => ?_, fun noStart noRun owed => ?_, fun n ⟨noStart, noRun, noRewind⟩ offered => ?_,
      fun ⟨noStart, noRun, noRewind⟩ unoffered => ?_⟩
    · rw [fallen up falls, choose_start (d := s.dev.frameOver) owed]; rfl
    · rw [chosen noStart, chooseNew_run (d := s.dev.frameOver) owed]; rfl
    · rw [chosen noStart, chooseNew_rewind (d := s.dev.frameOver) noRun owed]; rfl
    · rw [chosen noStart, chooseNew_notice (d := s.dev.frameOver) noRun noRewind offered]
      exact ⟨_, rfl, rfl, dispatch_queued n _, leaveQueue_resumes n.tag _, rfl, rfl, rfl, rfl⟩
    · intro mark
      have quiet (undue : ¬ mark) := chooseNew_quiet (d := s.dev.frameOver) noRun noRewind unoffered undue
      rw [chosen noStart]
      refine ⟨fun due => ?_, fun undue idle => ?_, fun undue idle => ?_⟩
      · rw [chooseNew_mark (d := s.dev.frameOver) noRun noRewind unoffered due]; rfl
      · rw [quiet undue]; exact congrArg _ (if_pos idle)
      · rw [quiet undue]; exact congrArg _ (if_neg (Bool.eq_false_iff.1 idle))
  · exact ends up powered up rfl (lineFalls_rewindEnds run)
  · refine ends up powered up rfl ?_
    rw [lineFalls_replayEnds spent, endReplay_unheld (d := s.dev.frameOver) empty]
    unfold Device.replayOver; rw [← empty]; rfl
  · have moved := replayOver_marked m s.dev.frameOver
    have link : (takeMark m s.dev.frameOver.replayOver).rl.link = .up := by rw [moved.rl]; exact up
    have activity : (takeMark m s.dev.frameOver.replayOver).rl.activity = .rest := by rw [moved.rl]; rfl
    have frame : (takeMark m s.dev.frameOver.replayOver).rl.frame = none := by rw [moved.rl]; rfl
    have falls : lineFalls s.dev = takeMark m s.dev.frameOver.replayOver :=
      (lineFalls_replayEnds spent).trans (endReplay_held held)
    exact ends up (moved.mainPower.trans powered) link activity (falls.trans (frameOver_none frame).symm)
  · rw [fallen up (lineFalls_rewindRun run), choose_rewindRun (d := s.dev.frameOver) noStart run]; rfl
  · rw [fallen up (lineFalls_clearRun run), choose_clearRun (d := s.dev.frameOver) noStart run]; rfl
  · rw [fallen up (lineFalls_replays next),
      choose_replay (d := { s.dev.frameOver with rl.activity := .replay (e :: l) }) noStart rfl]
    rfl
  · exact (act_powered_on powered).trans (congrArg _ (if_pos ⟨up, by rw [out]; rfl, differs⟩))
  · refine (act_powered_on powered).trans (congrArg _ (if_neg fun ⟨up, out, differs⟩ => ?_))
    rcases still with other | hold | same
    · exact other up
    · rw [hold] at out; exact Bool.false_ne_true out
    · exact differs same
  · exact (act_powered_on powered).trans (congrArg _ (if_pos ⟨up, silent⟩))
  · exact (act_powered_on powered).trans (congrArg _ (if_neg fun ⟨up, silent⟩ => still.elim (· up) (· silent)))
  · rw [offered_iff, canTake_iff]
    simp only [ringRoom_eq, and_assoc]
    rfl

end Sys2Proof.Machine
end

section
/-! O43: the link opened and closed in each of its states, and the return of the ring (R111, R113, R119, R136 to R140). -/
namespace Sys2Proof.Machine

/-! ### The link by its state -/

section
variable {d : Device}

theorem relayStart_opens (h : d.rl.link = .off ∨ d.rl.link = .down) : relayStart d = enterStarting d := by
  unfold relayStart; rcases h with h | h <;> rw [h]
theorem relayStart_still (h : d.rl.link = .starting ∨ d.rl.link = .up) : relayStart d = d := by
  unfold relayStart; rcases h with h | h <;> rw [h]

theorem relayStop_still (off : d.rl.link = .off) : relayStop d = d := by unfold relayStop; rw [off]
theorem relayStop_up (up : d.rl.link = .up) : relayStop d = leaveUp .off d := by unfold relayStop; rw [up]
theorem relayStop_closes (h : d.rl.link = .starting ∨ d.rl.link = .down) :
    relayStop d = ({ d with rl.link := .off, rl.frame := none } : Device).raise .link := by
  unfold relayStop; rcases h with h | h <;> rw [h]

theorem receiveStart_ignored (h : d.rl.link = .off ∨ d.rl.link = .down) : receiveStart d = d := by
  unfold receiveStart; rcases h with h | h <;> rw [h]
theorem receiveStart_starting (starting : d.rl.link = .starting) : receiveStart d = enterUp d := by
  unfold receiveStart; rw [starting]
theorem receiveStart_guarded (up : d.rl.link = .up) (guard : d.rl.restartGuard = true) :
    receiveStart d = { d with rl.silence := some 0, rl.rewindCount := 0, rl.clearCount := 0 } := by
  unfold receiveStart; rw [up]; exact if_pos guard
theorem receiveStart_restarts (up : d.rl.link = .up) (clear : d.rl.restartGuard = false) : receiveStart d = relayRestart d := by
  unfold receiveStart; rw [up]; exact if_neg (Bool.eq_false_iff.1 clear)

end

theorem relayRestart_rl (d : Device) : (relayRestart d).rl = d.rl.emptied.opened := congrArg RelayLink.opened (emptyLink_rl d)

/-! ### The return of the ring -/

theorem fallBackAll_eq (d : Device) : fallBackAll d = (d.nu.urgent.filter fun n => decide (60 * d.nu.fallbackDelay ≤ n.age)).foldl
    (fun e n => toCalls .relayDown none n (leaveQueue n.tag e)) d := by
  unfold fallBackAll NoticeUnit.fallbackSeconds; rw [Nat.mul_comm]; rfl

section
variable {n : Notice} {l : List Notice} {u r b : Nat} {d : Device}

theorem returnNotices_urgent (urgent : n.cls = .urgent) : returnNotices (n :: l) u r b d =
    if d.nu.queueCount < 256 then returnNotices l (u + 1) r b { d with nu.urgent := insertAt u n d.nu.urgent }
    else returnNotices l u r b (toCalls .queueFull none n d) := by
  conv_lhs => unfold returnNotices
  rw [urgent]; exact if_congr decide_eq_true_iff rfl rfl
theorem returnNotices_routine (routine : n.cls = .routine) : returnNotices (n :: l) u r b d =
    if d.nu.queueCount < 240 then returnNotices l u (r + 1) b { d with nu.routine := insertAt r n d.nu.routine }
    else returnNotices l u r b (toCalls .queueFull none n d) := by
  conv_lhs => unfold returnNotices
  rw [routine]; exact if_congr decide_eq_true_iff rfl rfl
theorem returnNotices_bulk (bulk : n.cls = .bulk) : returnNotices (n :: l) u r b d =
    if d.nu.queueCount < 192 then returnNotices l u r (b + 1) { d with nu.bulk := insertAt b n d.nu.bulk }
    else returnNotices l u r b d := by
  conv_lhs => unfold returnNotices
  rw [bulk]; exact if_congr decide_eq_true_iff rfl rfl

end

/-- URGENT notices that all find room go, in their order, behind those already returned. -/
theorem returnNotices_allUrgent (l : List Notice) : ∀ (u r b : Nat) (d : Device), (∀ n ∈ l, n.cls = .urgent) →
    d.nu.queueCount + l.length ≤ 256 → u ≤ d.nu.urgent.length →
    returnNotices l u r b d = { d with nu.urgent := insertAll u l d.nu.urgent } := by
  induction l with
  | nil => intro u r b d _ _ _; rw [insertAll_nil]; rfl
  | cons n l ih =>
    intro u r b d urgent room placed
    rw [List.length_cons] at room
    have count : d.nu.queueCount = d.nu.urgent.length + d.nu.routine.length + d.nu.bulk.length := rfl
    rw [returnNotices_urgent (urgent n List.mem_cons_self), if_pos (by omega), ih, insertAll_insertAt n l placed]
    · exact fun m hm => urgent m (List.mem_cons_of_mem _ hm)
    · show (insertAt u n d.nu.urgent).length + d.nu.routine.length + d.nu.bulk.length + l.length ≤ 256
      rw [length_insertAt]; omega
    · show u + 1 ≤ (insertAt u n d.nu.urgent).length
      rw [length_insertAt]; omega

/-- A ring of URGENT notices goes back before every other one, where the queue has room for them all (R113). -/
theorem emptyLink_allUrgent {d : Device} (urgent : ∀ r ∈ d.rl.ring, r.notice.cls = .urgent)
    (room : d.nu.queueCount + d.rl.ring.length ≤ 256) : emptyLink d =
      { d with rl := d.rl.emptied, nu.urgent := d.rl.ring.map (·.notice) ++ d.nu.urgent } :=
  returnNotices_allUrgent _ 0 0 0 { d with rl := d.rl.emptied } (List.forall_mem_map.2 urgent)
    (by rw [List.length_map]; exact room) (Nat.zero_le _)

/-- Settles O43: each command by the link state, and a notice of the ring by its class and the queue's count. -/
theorem linkStartsAndStops : Obligations.LinkStartsAndStops := by
  refine ⟨fun s tag ready => ?_, fun s powered => ?_, fun s powered => ?_, fallBackAll_eq, fun u r b d => rfl,
    fun n l u r b d => ?_⟩
  · intro starting stopped
    have start : exec (.relayStart tag) s = answers s tag 48 (ok .empty) (relayStart s.dev) := act_request_ready ready
    have stop : exec (.relayStop tag) s = answers s tag 49 (ok .empty) (relayStop s.dev) := act_request_ready ready
    rw [start, stop]
    exact ⟨fun h => by rw [relayStart_opens h]; rfl, fun h => by rw [relayStart_still h], fun off => by rw [relayStop_still off],
      fun h => by rw [relayStop_closes h]⟩
  · intro starting
    exact ⟨fun down delayed => (act_powered_on powered).trans (congrArg _ (if_pos ⟨down, delayed⟩)),
      fun other => (act_powered_on powered).trans (congrArg _ (if_neg fun ⟨down, delayed⟩ => other.elim (· down) delayed)),
      fun starting => (act_powered_on powered).trans (congrArg _ (if_pos starting)),
      fun other => (act_powered_on powered).trans (congrArg _ (if_neg other))⟩
  · intro opened empty
    have start : exec .rxStart s = goesTo s (receiveStart s.dev) := act_powered_on powered
    have silent (up : s.dev.rl.link = .up) : exec .silenceTimeout s = goesTo s (leaveUp .down s.dev) :=
      (act_powered_on powered).trans (congrArg _ (if_pos up))
    have stop (tag : Nat) (ready : Ready s) (up : s.dev.rl.link = .up) :
        exec (.relayStop tag) s = answers s tag 49 (ok .empty) (leaveUp .off s.dev) := by
      rw [← relayStop_up up]; exact act_request_ready ready
    have restart (up : s.dev.rl.link = .up) (clear : s.dev.rl.restartGuard = false) :
        exec .rxStart s = goesTo s (relayRestart s.dev) := by rw [start, receiveStart_restarts up clear]
    refine ⟨fun h => ?_, fun starting => ?_, fun up guard => ?_, ?_⟩
    · rw [start, receiveStart_ignored h]
    · rw [start, receiveStart_starting starting]; rfl
    · rw [start, receiveStart_guarded up guard]
    · intro emptied left
      refine ⟨restart, silent, stop, fun up hold timer last => ?_, fun up clear => ⟨_, restart up clear, ?_⟩, fun other => ?_,
        fun up => ⟨_, silent up, leaveUp_rl _ _, leaveUp_holds _ _, leaveUp_young _ _⟩,
        fun tag ready up => ⟨_, stop tag ready up, leaveUp_rl _ _, leaveUp_holds _ _, leaveUp_young _ _⟩⟩
      · have expires : exec .resyncTimeout s = goesTo s (resyncExpired s.dev) := act_powered_on powered
        rw [expires, resyncExpired_last ⟨up, hold, timer⟩ last]; rfl
      · refine ⟨relayRestart_rl _, raise_holds_same _ _, fun urgent room => ?_⟩
        have nu : (relayRestart s.dev).nu = (emptyLink s.dev).nu := rfl
        rw [nu, emptyLink_allUrgent urgent room]
        exact ⟨rfl, rfl, rfl, rfl⟩
      · exact (act_powered_on powered).trans (congrArg _ (if_neg other))
  · intro returned count toDesk after
    refine ⟨fun urgent => ?_, fun routine => ?_, fun bulk => ?_⟩
    · have back : returned = _ := returnNotices_urgent urgent
      rw [back]; exact ⟨fun full => if_neg (Nat.not_lt.2 full), fun room => if_pos room⟩
    · have back : returned = _ := returnNotices_routine routine
      rw [back]; exact ⟨fun full => if_neg (Nat.not_lt.2 full), fun room => if_pos room⟩
    · have back : returned = _ := returnNotices_bulk bulk
      rw [back]; exact ⟨fun full => if_neg (Nat.not_lt.2 full), fun room => if_pos room⟩

end Sys2Proof.Machine
end

section
/-! SUPPORT. Zones written one after another (R162, R163): settling, SET_SUPERVISION and an idle check each put every zone's next
supervision, and a zone that enters or leaves FAULT sets ZONE and is marked. -/
namespace Sys2Proof.Machine

theorem nth_held {α : Type} {l : List α} {i : Nat} {a : α} (dflt : α) (h : l[i - 1]? = some a) : nth l i dflt = a := by
  unfold nth; rw [List.getD_eq_getElem?_getD, h]; rfl

/-- A request at a ready state is answered, and leaves the device, as it serves. -/
theorem act_request_gives {code tag : Nat} {serve : Device → Answer × Device} {s : State} {a : Answer} {d : Device} (ready : Ready s)
    (h : serve s.dev = (a, d)) : act (request code tag serve) s = answers s tag code a d := act_request_served ready h
/-- A request that is always taken and answered with an empty body. -/
theorem act_request_ok {code tag : Nat} {s : State} (f : Device → Device) (ready : Ready s) :
    act (request code tag fun d => (ok .empty, f d)) s = answers s tag code (ok .empty) (f s.dev) :=
  act_request_gives ready rfl

/-! ### One zone written -/

/-- The device with the supervision of zone z written. -/
def Device.withZone (z : Nat) (v : ZoneSupervision) (d : Device) : Device := { d with su.zones := setNth d.su.zones z v }

theorem withZone_set {z : Nat} (hz : 1 ≤ z) (v : ZoneSupervision) (d : Device) :
    d.withZone z v = { d with su.zones := d.su.zones.set (z - 1) v } := by
  unfold Device.withZone; rw [setNth_pos hz]
theorem withZone_withZone (z : Nat) (u v : ZoneSupervision) (d : Device) : (d.withZone z u).withZone z v = d.withZone z v := by
  unfold Device.withZone; dsimp only; rw [setNth_setNth]
theorem withZone_self (z : Nat) (d : Device) : d.withZone z (d.su.zone z) = d := by
  unfold Device.withZone Sounder.zone; rw [setNth_self]

section
variable {d : Device} {z w : Nat} {v : ZoneSupervision}

theorem zone_held (h : d.su.zones[z - 1]? = some v) : d.su.zone z = v := nth_held _ h

/-- Only a zone of the table is supervised. -/
theorem held_of_supervised (h : (d.su.zone z).supervised = true) : d.su.zones[z - 1]? = some (d.su.zone z) := by
  cases held : d.su.zones[z - 1]? with
  | some v => rw [zone_held held]
  | none =>
    have blank : d.su.zone z = ZoneSupervision.reset := by
      unfold Sounder.zone nth; rw [List.getD_eq_getElem?_getD, held]; rfl
    rw [blank] at h; cases h

theorem putZone_stays (h : v.fault = (d.su.zone z).fault) : d.putZone z v = d.withZone z v := if_pos h.symm
theorem putZone_moves (h : v.fault ≠ (d.su.zone z).fault) : d.putZone z v = ((d.withZone z v).raise .zone).markZone z :=
  if_neg h.symm
theorem putZone_self (z : Nat) (d : Device) : d.putZone z (d.su.zone z) = d := by
  rw [putZone_stays rfl, withZone_self]

theorem putZone_zones (z : Nat) (v : ZoneSupervision) (d : Device) : (d.putZone z v).su.zones = setNth d.su.zones z v := by
  unfold Device.putZone; dsimp only; split <;> rfl
theorem putZone_sense (z : Nat) (v : ZoneSupervision) (d : Device) : (d.putZone z v).sense = d.sense := by rw [putZone_frame]; rfl
/-- What a zone's supervision is moves no demand. -/
theorem putZone_engaged (z : Nat) (v : ZoneSupervision) (d : Device) (w : Nat) : (d.putZone z v).engaged w = d.engaged w := by
  rw [putZone_frame]; rfl

theorem putZone_same {u : ZoneSupervision} (hz : 1 ≤ z) (h : d.su.zones[z - 1]? = some u) :
    (d.putZone z v).su.zones[z - 1]? = some v := by
  obtain ⟨inside, -⟩ := List.getElem?_eq_some_iff.1 h
  rw [putZone_zones, setNth_pos hz, List.getElem?_set_self inside]
theorem putZone_other (hz : 1 ≤ z) (hw : 1 ≤ w) (h : z ≠ w) (v : ZoneSupervision) (d : Device) :
    (d.putZone z v).su.zones[w - 1]? = d.su.zones[w - 1]? := by
  rw [putZone_zones, setNth_pos hz, List.getElem?_set_ne (by omega)]
theorem putZone_zone_other (hz : 1 ≤ z) (hw : 1 ≤ w) (h : z ≠ w) (v : ZoneSupervision) (d : Device) :
    (d.putZone z v).su.zone w = d.su.zone w := by
  unfold Sounder.zone nth
  rw [List.getD_eq_getElem?_getD, List.getD_eq_getElem?_getD, putZone_other hz hw h]

theorem putZone_causes (z : Nat) (v : ZoneSupervision) (d : Device) : (d.putZone z v).op.causes =
    if v.fault != (d.su.zone z).fault then d.op.causes ||| Cause.zone.bit else d.op.causes := by
  by_cases h : v.fault = (d.su.zone z).fault
  · rw [putZone_stays h, h, bne_self_eq_false]; rfl
  · rw [putZone_moves h, bne_iff_ne.2 h]; rfl
theorem putZone_changed (hz : 1 ≤ z) (hw : 1 ≤ w) (h24 : w ≤ 24) (v : ZoneSupervision) (d : Device) :
    (d.putZone z v).op.changedZones.getLsbD (w - 1) =
      (d.op.changedZones.getLsbD (w - 1) || (v.fault != (d.su.zone z).fault && z == w)) := by
  by_cases h : v.fault = (d.su.zone z).fault
  · rw [putZone_stays h, h, bne_self_eq_false, Bool.false_and, Bool.or_false]; rfl
  · have bit : (1#24 <<< (z - 1)).getLsbD (w - 1) = (z == w) := by
      rw [BitVec.getLsbD_shiftLeft, BitVec.getLsbD_one, Bool.eq_iff_iff]
      simp only [Bool.and_eq_true, decide_eq_true_eq, Bool.not_eq_true', decide_eq_false_iff_not, beq_iff_eq]
      omega
    rw [putZone_moves h, bne_iff_ne.2 h, Bool.true_and, markZone_changedZones, BitVec.getLsbD_or, bit]; rfl

theorem withZone_zone {u : ZoneSupervision} (hz : 1 ≤ z) (held : d.su.zones[z - 1]? = some v) : (d.withZone z u).su.zone z = u := by
  obtain ⟨inside, -⟩ := List.getElem?_eq_some_iff.1 held
  exact nth_setNth_same _ _ _ _ hz (by omega)

/-- A zone written with its condition kept and then put is put at once. -/
theorem putZone_withZone {u x : ZoneSupervision} (hz : 1 ≤ z) (held : d.su.zones[z - 1]? = some v) (h : u.fault = v.fault) :
    (d.withZone z u).putZone z x = d.putZone z x := by
  have there : ((d.withZone z u).su.zone z).fault = (d.su.zone z).fault := by rw [withZone_zone hz held, zone_held held, h]
  by_cases stays : x.fault = (d.su.zone z).fault
  · rw [putZone_stays (stays.trans there.symm), putZone_stays stays, withZone_withZone]
  · rw [putZone_moves (by rw [there]; exact stays), putZone_moves stays, withZone_withZone]

/-- A zone whose timer is written and which is then checked is put as the check counts (R162). -/
theorem checkZone_timed (hz : 1 ≤ z) (held : d.su.zones[z - 1]? = some v) (t : Option Nat) :
    (d.withZone z { v with timer := t }).checkZone z = d.putZone z ({ v with timer := t }.counted (inZones d.sense z)) := by
  unfold Device.checkZone
  rw [withZone_zone hz held]
  exact putZone_withZone hz held rfl

end

/-! ### Each zone's next supervision -/

/-- The supervision of a zone settled, by whether it was and is engaged and whether its circuit is GOOD (R162). -/
def ZoneSupervision.settled (was now good : Bool) (v : ZoneSupervision) : ZoneSupervision :=
  if !v.supervised || was == now then v
  else if was then { v with timer := some 0 }
  else { v with timer := none }.counted good

/-- The supervision of a zone taken under supervision or freed of it, by whether it is engaged (R163). -/
def ZoneSupervision.setTo (on engaged : Bool) (v : ZoneSupervision) : ZoneSupervision :=
  if v.supervised = on then v
  else if on then { v with supervised := true, timer := if engaged then none else some 0 }
  else .reset

section
variable {was now good on engaged : Bool} {v : ZoneSupervision}

theorem settled_stands (h : v.supervised = false ∨ now = was) : v.settled was now good = v := by
  unfold ZoneSupervision.settled
  rcases h with free | same
  · rw [free]; rfl
  · rw [same, beq_self_eq_true, Bool.or_true]; rfl
theorem settled_idle (h : v.supervised = true) : v.settled true false good = { v with timer := some 0 } := by
  unfold ZoneSupervision.settled; rw [h]; rfl
theorem settled_engaged (h : v.supervised = true) : v.settled false true good = { v with timer := none }.counted good := by
  unfold ZoneSupervision.settled; rw [h]; rfl

theorem setTo_stands (h : v.supervised = on) : v.setTo on engaged = v := if_pos h
theorem setTo_supervised (h : v.supervised = false) :
    v.setTo true engaged = { v with supervised := true, timer := if engaged then none else some 0 } := by
  unfold ZoneSupervision.setTo; rw [h]; rfl
theorem setTo_freed (h : v.supervised = true) : v.setTo false engaged = .reset := by
  unfold ZoneSupervision.setTo; rw [h]; rfl

/-- SET_SUPERVISION moves a zone's condition exactly where it frees a zone in FAULT. -/
theorem setTo_fault (on engaged : Bool) (v : ZoneSupervision) :
    ((v.setTo on engaged).fault != v.fault) = (v.supervised && v.fault && !on) := by
  cases supervised : v.supervised <;> cases on
  · rw [setTo_stands supervised]; simp
  · rw [setTo_supervised supervised]; simp
  · rw [setTo_freed supervised]; cases v.fault <;> rfl
  · rw [setTo_stands supervised]; simp

end

theorem settleZone_put {z : Nat} (hz : 1 ≤ z) (was : Bool) (d : Device) :
    d.settleZone was z = d.putZone z ((d.su.zone z).settled was (d.engaged z) (inZones d.sense z)) := by
  unfold Device.settleZone ZoneSupervision.settled
  by_cases stands : (!(d.su.zone z).supervised || was == d.engaged z) = true
  · rw [if_pos stands, if_pos stands, putZone_self]
  · rw [if_neg stands, if_neg stands]
    cases was with
    | true => exact (putZone_stays (v := { d.su.zone z with timer := some 0 }) rfl).symm
    | false =>
      have supervised : (d.su.zone z).supervised = true := by simp at stands; exact stands.1
      exact checkZone_timed hz (held_of_supervised supervised) none

theorem setZone_put (zones : ZoneSet) (z : Nat) (d : Device) :
    setZone zones z d = d.putZone z ((d.su.zone z).setTo (inZones zones z) (d.engaged z)) := by
  unfold setZone
  split
  · rename_i stands; rw [setTo_stands stands, putZone_self]
  · rename_i moved
    split
    · rename_i on
      rw [on] at moved ⊢
      rw [setTo_supervised (Bool.eq_false_iff.2 moved)]
      exact (putZone_stays (v := { d.su.zone z with
        supervised := true, timer := if d.engaged z then none else some 0 }) rfl).symm
    · rename_i off
      rw [Bool.not_eq_true] at off
      rw [off] at moved ⊢
      rw [setTo_freed (by simpa using moved)]; rfl

/-! ### Every zone written -/

/-- Each zone of a list put as f has it from the zone's supervision. -/
def Device.putZones (f : Nat → ZoneSupervision → ZoneSupervision) (l : List Nat) (d : Device) : Device :=
  l.foldl (fun e z => e.putZone z (f z (e.su.zone z))) d

/-- Whether f moves zone z into or out of FAULT. -/
def Device.faultMoves (f : Nat → ZoneSupervision → ZoneSupervision) (d : Device) (z : Nat) : Bool :=
  (f z (d.su.zone z)).fault != (d.su.zone z).fault

/-- A walk whose step puts the zone by what its engagement and its circuit are puts them as they are at first. -/
theorem foldl_putZones {step : Device → Nat → Device} {g : Nat → Bool → Bool → ZoneSupervision → ZoneSupervision}
    (h : ∀ (e : Device) (z : Nat), 1 ≤ z → step e z = e.putZone z (g z (e.engaged z) (inZones e.sense z) (e.su.zone z)))
    (l : List Nat) (numbered : ∀ z ∈ l, 1 ≤ z) (d : Device) :
    l.foldl step d = d.putZones (fun z => g z (d.engaged z) (inZones d.sense z)) l := by
  induction l generalizing d with
  | nil => rfl
  | cons z l ih =>
    obtain ⟨hz, hl⟩ := List.forall_mem_cons.1 numbered
    rw [List.foldl_cons, h d z hz, ih hl]
    simp only [putZone_engaged, putZone_sense]
    rfl

theorem allZones_iff (z : Nat) : z ∈ allZones ↔ 1 ≤ z ∧ z ≤ 24 := by
  unfold allZones; rw [List.mem_range'_1]; omega
theorem allZones_numbered : ∀ z ∈ allZones, 1 ≤ z := fun z hz => ((allZones_iff z).1 hz).1
theorem allZones_nodup : allZones.Nodup := List.nodup_range'

theorem settling_putZones (change : Device → Device) (d : Device) : settling change d = (change d).putZones
    (fun z => ZoneSupervision.settled (d.engaged z) ((change d).engaged z) (inZones (change d).sense z)) allZones :=
  foldl_putZones (g := fun z => ZoneSupervision.settled (d.engaged z)) (fun e _ hz => settleZone_put hz _ e) _ allZones_numbered _

theorem setSupervision_putZones (zones : ZoneSet) (d : Device) : setSupervision zones d =
    d.putZones (fun z => ZoneSupervision.setTo (inZones zones z) (d.engaged z)) allZones :=
  foldl_putZones (g := fun z now _ => ZoneSupervision.setTo (inZones zones z) now) (fun e z _ => setZone_put zones z e) _
    allZones_numbered _

theorem putZones_frame (f : Nat → ZoneSupervision → ZoneSupervision) (l : List Nat) (d : Device) :
    d.putZones f l = d.settledAs (d.putZones f l) := by
  induction l generalizing d with
  | nil => rfl
  | cons z l ih => exact settledAs_trans (putZone_frame _ _ _) (ih _)

theorem putZones_tb (f : Nat → ZoneSupervision → ZoneSupervision) (l : List Nat) (d : Device) : (d.putZones f l).tb = d.tb :=
  foldl_keeps (·.tb) _ (fun _ _ => putZone_tb _ _ _) _ _
theorem putZones_nu (f : Nat → ZoneSupervision → ZoneSupervision) (l : List Nat) (d : Device) : (d.putZones f l).nu = d.nu :=
  foldl_keeps (·.nu) _ (fun e z => by rw [putZone_frame]; rfl) _ _
theorem putZones_length (f : Nat → ZoneSupervision → ZoneSupervision) (l : List Nat) (d : Device) :
    (d.putZones f l).su.zones.length = d.su.zones.length :=
  foldl_keeps (·.su.zones.length) _ (fun e z => by rw [putZone_zones, length_setNth]) _ _

section
variable {f : Nat → ZoneSupervision → ZoneSupervision} {l : List Nat} (numbered : ∀ z ∈ l, 1 ≤ z)
include numbered

theorem putZones_other {w : Nat} (hw : 1 ≤ w) (out : w ∉ l) (d : Device) :
    (d.putZones f l).su.zones[w - 1]? = d.su.zones[w - 1]? := by
  induction l generalizing d with
  | nil => rfl
  | cons z l ih =>
    obtain ⟨hz, hl⟩ := List.forall_mem_cons.1 numbered
    obtain ⟨other, rest⟩ := not_or.1 (mt List.mem_cons.2 out)
    exact (ih hl rest _).trans (putZone_other hz hw (Ne.symm other) _ _)

/-- A zone written moves no other zone's condition. -/
theorem faultMoves_after {z : Nat} (hz : 1 ≤ z) (fresh : z ∉ l) (v : ZoneSupervision) (d : Device) :
    ∀ w ∈ l, (d.putZone z v).faultMoves f w = d.faultMoves f w := fun w hw => by
  unfold Device.faultMoves
  rw [putZone_zone_other hz (numbered w hw) fun same => fresh (same ▸ hw)]

variable (once : l.Nodup)
include once

/-- Each zone of the list is written once, from what it was. -/
theorem putZones_zone {w : Nat} {v : ZoneSupervision} (hw : w ∈ l) {d : Device} (held : d.su.zones[w - 1]? = some v) :
    (d.putZones f l).su.zones[w - 1]? = some (f w v) := by
  induction l generalizing d with
  | nil => cases hw
  | cons z l ih =>
    obtain ⟨hz, hl⟩ := List.forall_mem_cons.1 numbered
    obtain ⟨fresh, rest⟩ := List.nodup_cons.1 once
    rcases List.mem_cons.1 hw with rfl | later
    · refine (putZones_other hl hz fresh _).trans ?_
      rw [← zone_held held]; exact putZone_same hz held
    · have other : z ≠ w := fun same => fresh (same ▸ later)
      exact ih hl rest later ((putZone_other hz (hl w later) other _ _).trans held)

/-- ZONE is set exactly when some zone's condition moves (R162, R163). -/
theorem putZones_causes (d : Device) : (d.putZones f l).op.causes =
    if l.any (d.faultMoves f) then d.op.causes ||| Cause.zone.bit else d.op.causes := by
  induction l generalizing d with
  | nil => rfl
  | cons z l ih =>
    obtain ⟨hz, hl⟩ := List.forall_mem_cons.1 numbered
    obtain ⟨fresh, rest⟩ := List.nodup_cons.1 once
    have later : l.any ((d.putZone z (f z (d.su.zone z))).faultMoves f) = l.any (d.faultMoves f) := by
      rw [Bool.eq_iff_iff, List.any_eq_true, List.any_eq_true]
      exact exists_congr fun w => and_congr_right fun hw => by rw [faultMoves_after hl hz fresh _ d w hw]
    refine (ih hl rest _).trans ?_
    rw [later, putZone_causes, List.any_cons]
    show (if l.any _ = true then (if d.faultMoves f z = true then _ else _) ||| _ else if d.faultMoves f z = true then _ else _) = _
    cases d.faultMoves f z <;> cases l.any (d.faultMoves f) <;> simp [BitVec.or_assoc]

/-- The zones marked are those whose condition moves. -/
theorem putZones_changed {w : Nat} (hw : 1 ≤ w) (h24 : w ≤ 24) (d : Device) :
    (d.putZones f l).op.changedZones.getLsbD (w - 1) =
      (d.op.changedZones.getLsbD (w - 1) || l.contains w && d.faultMoves f w) := by
  induction l generalizing d with
  | nil => simp [Device.putZones]
  | cons z l ih =>
    obtain ⟨hz, hl⟩ := List.forall_mem_cons.1 numbered
    obtain ⟨fresh, rest⟩ := List.nodup_cons.1 once
    refine (ih hl rest _).trans ?_
    rw [putZone_changed hz hw h24, List.contains_cons]
    show (_ || (d.faultMoves f z && z == w) || _) = _
    by_cases same : z = w
    · subst same; simp [fresh]
    · by_cases member : w ∈ l
      · rw [faultMoves_after hl hz fresh _ d w member]; simp [beq_false_of_ne same, member]
      · simp [beq_false_of_ne same, beq_false_of_ne (Ne.symm same), member]

end

end Sys2Proof.Machine
end

section
/-! O54: the count of a check, idle checks, SET_SUPERVISION, and the settling of every zone after a change (R161 to R163). -/
namespace Sys2Proof.Machine

/-! ### A check counted -/

section
variable {v : ZoneSupervision}

theorem counted_normal_good (normal : v.fault = false) : v.counted true = { v with bad := 0 } := by
  unfold ZoneSupervision.counted; rw [normal]; rfl
theorem counted_normal_bad (normal : v.fault = false) : v.counted false =
    if v.bad + 1 < 3 then { v with bad := v.bad + 1 } else { v with fault := true, bad := 0, good := 0 } := by
  unfold ZoneSupervision.counted; rw [normal]; rfl
theorem counted_fault_bad (fault : v.fault = true) : v.counted false = { v with good := 0 } := by
  unfold ZoneSupervision.counted; rw [fault]; rfl
theorem counted_fault_good (fault : v.fault = true) : v.counted true =
    if v.good + 1 < 3 then { v with good := v.good + 1 } else { v with fault := false, bad := 0, good := 0 } := by
  unfold ZoneSupervision.counted; rw [fault]; rfl

end

/-! ### An idle check -/

section
variable {d : Device} {z : Nat} {v : ZoneSupervision} (held : d.su.zones[z - 1]? = some v)
include held

theorem idleCheck_still (h : v.supervised = false ∨ v.timer = none) : idleCheck z d = d := by
  unfold idleCheck
  rw [zone_held held]
  refine if_neg fun counting => ?_
  obtain ⟨supervised, timed⟩ := (Bool.and_eq_true _ _).mp counting
  rcases h with free | stopped
  · rw [free] at supervised; cases supervised
  · rw [stopped] at timed; cases timed
theorem idleCheck_checks (hz : 1 ≤ z) (supervised : v.supervised = true) (timed : v.timer.isSome = true) :
    idleCheck z d = d.putZone z ({ v with timer := some 0 }.counted (inZones d.sense z)) := by
  unfold idleCheck
  rw [zone_held held]
  exact (if_pos ((Bool.and_eq_true _ _).mpr ⟨supervised, timed⟩)).trans (checkZone_timed hz held (some 0))

end

/-! ### Every zone settled, or set -/

/-- SET_SUPERVISION moves the condition of the zones in FAULT that it takes supervision from. -/
theorem setTo_faultMoves_iff {zones : ZoneSet} {d : Device} {z : Nat} :
    d.faultMoves (fun z => ZoneSupervision.setTo (inZones zones z) (d.engaged z)) z = true ↔
      ∃ v, d.su.zones[z - 1]? = some v ∧ v.supervised = true ∧ v.fault = true ∧ zones.getLsbD (z - 1) = false := by
  unfold Device.faultMoves
  rw [setTo_fault, Bool.and_eq_true, Bool.and_eq_true, Bool.not_eq_true']
  refine ⟨fun ⟨⟨supervised, fault⟩, off⟩ => ⟨_, held_of_supervised supervised, supervised, fault, off⟩, ?_⟩
  rintro ⟨v, held, supervised, fault, off⟩
  rw [zone_held held]; exact ⟨⟨supervised, fault⟩, off⟩

section
variable {f : Nat → ZoneSupervision → ZoneSupervision} {d : Device}

theorem putZones_causes_still (h : ∀ z, 1 ≤ z → z ≤ 24 → d.faultMoves f z ≠ true) :
    (d.putZones f allZones).op.causes = d.op.causes := by
  rw [putZones_causes allZones_numbered allZones_nodup]
  refine if_neg fun some => ?_
  obtain ⟨z, hz, moves⟩ := List.any_eq_true.1 some
  obtain ⟨h1, h24⟩ := (allZones_iff z).1 hz
  exact h z h1 h24 moves

variable {z : Nat} (h1 : 1 ≤ z) (h24 : z ≤ 24)
include h1 h24

theorem putZones_causes_moved (moves : d.faultMoves f z = true) :
    (d.putZones f allZones).op.causes = d.op.causes ||| Cause.zone.bit := by
  rw [putZones_causes allZones_numbered allZones_nodup]
  exact if_pos (List.any_eq_true.2 ⟨z, (allZones_iff z).2 ⟨h1, h24⟩, moves⟩)

theorem putZones_marked_iff : (d.putZones f allZones).op.changedZones.getLsbD (z - 1) = true ↔
    d.op.changedZones.getLsbD (z - 1) = true ∨ d.faultMoves f z = true := by
  have member : allZones.contains z = true := List.contains_iff_mem.2 ((allZones_iff z).2 ⟨h1, h24⟩)
  rw [putZones_changed allZones_numbered allZones_nodup h1 h24, member, Bool.true_and, Bool.or_eq_true]

theorem putZones_all {v : ZoneSupervision} (held : d.su.zones[z - 1]? = some v) :
    (d.putZones f allZones).su.zones[z - 1]? = some (f z v) :=
  putZones_zone allZones_numbered allZones_nodup ((allZones_iff z).2 ⟨h1, h24⟩) held

end

theorem exec_setSupervision {s : State} (tag : Nat) (zones : ZoneSet) (ready : Ready s) :
    exec (.setSupervision tag zones) s = answers s tag 67 (ok .empty) (setSupervision zones s.dev) :=
  act_request_ok (setSupervision zones) ready

/-- Settles O54: every part puts a zone's next supervision, and that by cases of what the zone was. -/
theorem zonesAreSupervised : Obligations.ZonesAreSupervised := by
  refine ⟨fun v => ?_, fun s z v powered h1 h24 held => ?_, fun s tag zones ready sized => ?_, fun change d => ⟨rfl, ?_⟩,
    fun d was z v h1 held => ?_⟩
  · refine ⟨counted_normal_good, fun normal few => ?_, fun normal many => ?_, counted_fault_bad, fun fault few => ?_,
      fun fault many => ?_⟩
    · rw [counted_normal_bad normal, if_pos (by omega)]
    · rw [counted_normal_bad normal, if_neg (by omega)]
    · rw [counted_fault_good fault, if_pos (by omega)]
    · rw [counted_fault_good fault, if_neg (by omega)]
  · intro new written
    have checks : exec (.idleCheck z) s = goesTo s (idleCheck z s.dev) := act_powered_on powered
    have write : written = s.dev.withZone z new := (withZone_set h1 _ _).symm
    rw [checks, write]
    refine ⟨fun still => by rw [idleCheck_still held still], fun supervised timed => ?_⟩
    rw [idleCheck_checks held h1 supervised timed]
    refine ⟨fun stays => ?_, fun moves => ?_⟩
    · rw [putZone_stays (by rw [zone_held held]; exact stays)]; rfl
    · rw [putZone_moves (by rw [zone_held held]; exact moves)]; rfl
  · have puts := setSupervision_putZones zones s.dev
    have frame := putZones_frame (fun z => ZoneSupervision.setTo (inZones zones z) (s.dev.engaged z)) allZones s.dev
    refine ⟨_, exec_setSupervision tag zones ready, ?_⟩
    rw [puts]
    refine ⟨putZones_tb _ _ _, putZones_nu _ _ _, (putZones_length _ _ _).trans sized, ?_⟩
    intro freed
    refine ⟨fun none => ?_, fun z h1 h24 is => ?_, fun z h1 h24 => ?_, fun z v h1 h24 held => ?_, frame⟩
    · exact putZones_causes_still fun z h1 h24 moves => none z h1 h24 (setTo_faultMoves_iff.1 moves)
    · exact putZones_causes_moved h1 h24 (setTo_faultMoves_iff.2 is)
    · rw [putZones_marked_iff h1 h24, setTo_faultMoves_iff]
    · rw [putZones_all h1 h24 held]
      refine ⟨fun stands => ?_, fun supervised off => ?_, fun free on => ?_⟩
      · exact congrArg some (setTo_stands stands)
      · have off : inZones zones z = false := off
        rw [off, setTo_freed supervised]; rfl
      · have on : inZones zones z = true := on
        rw [on, setTo_supervised free]
  · intro z v h1 h24 sized held new engaged after
    have settled : after = some (v.settled (d.engaged z) engaged (inZones (change d).sense z)) := by
      have puts := settling_putZones change d
      exact (congrArg (fun e : Device => e.su.zones[z - 1]?) puts).trans (putZones_all h1 h24 held)
    rw [settled]
    refine ⟨fun stands => by rw [settled_stands stands], fun supervised was idle => ?_, fun supervised was is => ?_⟩
    · rw [was, idle, settled_idle supervised]
    · have checked : v.settled (d.engaged z) engaged (inZones (change d).sense z) = new := by
        rw [was, is, settled_engaged supervised]; rfl
      refine ⟨by rw [checked], fun moves => ?_⟩
      have moved : (change d).faultMoves (fun z => ZoneSupervision.settled (d.engaged z) ((change d).engaged z)
          (inZones (change d).sense z)) z = true := by
        unfold Device.faultMoves
        rw [← checked] at moves
        rw [zone_held held]
        exact bne_iff_ne.2 moves
      rw [settling_putZones]
      refine ⟨?_, (putZones_marked_iff h1 h24).2 (.inr moved)⟩
      unfold OfficePort.holds
      rw [putZones_causes_moved h1 h24 moved]
      exact raise_holds_same .zone (change d)
  · intro put new
    have write (x : ZoneSupervision) : put x = d.withZone z x := (withZone_set h1 _ _).symm
    rw [settleZone_put h1, zone_held held, write, write]
    refine ⟨fun stands => ?_, fun supervised is idle => ?_, fun supervised was engaged => ?_⟩
    · rw [settled_stands stands, ← zone_held held, putZone_self]
    · rw [is, idle, settled_idle supervised, putZone_stays (by rw [zone_held held])]
    · rw [was, engaged, settled_engaged supervised]
      exact ⟨fun stays => putZone_stays (by rw [zone_held held]; exact stays),
        fun moves => putZone_moves (by rw [zone_held held]; exact moves)⟩

end Sys2Proof.Machine
end

section
/-! SUPPORT. The Sounder Unit changed, and every zone settled after the change (R161, R162): every request and event of chapter 9 that a
demand depends on is one such change. -/
namespace Sys2Proof.Machine

/-- The Sounder Unit becomes u, and the zones are settled. -/
def Device.resound (u : Sounder) (d : Device) : Device := settling (fun e => { e with su := u }) d

/-- Settling looks at what a change makes of the device it is made on, and no further. -/
theorem settling_congr {f g : Device → Device} {d : Device} (h : f d = g d) : settling f d = settling g d := by
  unfold settling; rw [h]
theorem settling_resound {change : Device → Device} {u : Sounder} {d : Device} (h : change d = { d with su := u }) :
    settling change d = d.resound u := settling_congr h

theorem su_of_settledAs {u : Sounder} {d e : Device} (h : e = ({ d with su := u } : Device).settledAs e) : e = { d with
    su := { u with zones := e.su.zones }, op.causes := e.op.causes, op.changedZones := e.op.changedZones } := h

section
variable (u : Sounder) (d : Device)

/-- Beside the change only zone supervision, the causes and the changed zones move. -/
theorem resound_frame : d.resound u = { d with
    su := { u with zones := (d.resound u).su.zones }
    op.causes := (d.resound u).op.causes, op.changedZones := (d.resound u).op.changedZones } :=
  su_of_settledAs (settling_frame (fun e => { e with su := u }) d)
theorem resound_su : (d.resound u).su = { u with zones := (d.resound u).su.zones } := by
  have frame := resound_frame u d
  generalize d.resound u = e at *
  rw [frame]

end

theorem resound_unsupervised {u : Sounder} (h : ∀ v ∈ u.zones, v.supervised = false) (d : Device) : d.resound u = { d with su := u } :=
  settling_unsupervised (change := fun e => { e with su := u }) h

end Sys2Proof.Machine
end

section
/-! O49: LOAD_PATTERN and QUERY_PATTERN (R152, Table 9-2). -/
namespace Sys2Proof.Machine

/-! ### Clamping by mode -/

section
variable (n p k r d : Nat)

theorem clamped_ring : (⟨.ring, n, p, k, r, d⟩ : Pattern).clamped = ⟨.ring, clampNat 1 600 n, p, k, r, d⟩ := rfl
theorem clamped_pulse : (⟨.pulse, n, p, k, r, d⟩ : Pattern).clamped =
    ⟨.pulse, n, clampNat 2 100 p, clampNat 1 (clampNat 2 100 p - 1) k, clampNat 1 99 r, d⟩ := rfl
theorem clamped_warble : (⟨.warble, n, p, k, r, d⟩ : Pattern).clamped =
    ⟨.warble, n, clampNat 2 40 p, k, r, clampNat 1 600 d⟩ := rfl
theorem clamped_chirp : (⟨.chirp, n, p, k, r, d⟩ : Pattern).clamped = ⟨.chirp, min 50 n, p, k, r, d⟩ := rfl

end

/-- Two patterns of one mode differ when a field differs. -/
theorem pattern_bne (m : PatternMode) (n p k r d n' p' k' r' d' : Nat) :
    ((⟨m, n, p, k, r, d⟩ : Pattern) != ⟨m, n', p', k', r', d'⟩) = decide (n ≠ n' ∨ p ≠ p' ∨ k ≠ k' ∨ r ≠ r' ∨ d ≠ d') := by
  rw [Bool.eq_iff_iff, bne_iff_ne, decide_eq_true_iff, ne_eq, Pattern.mk.injEq]
  tauto

/-! ### The requests -/

theorem modeCode_none {n : Nat} (h : n = 0 ∨ 4 < n) : modeCode n = none := by
  unfold modeCode
  split
  · omega
  · omega
  · omega
  · omega
  · rfl

section
variable {number : Nat} {dev : Device}

theorem serveLoadPattern_refuses {mode : Nat} (bad : number = 0 ∨ 16 < number ∨ mode = 0 ∨ 4 < mode) (n p k r d : Nat) :
    serveLoadPattern number mode n p k r d dev = refuse .range dev := by
  unfold serveLoadPattern
  split
  · rfl
  · rename_i m known
    refine checked_fails (numberBad_iff.2 ?_)
    rcases bad with zero | high | other
    · exact .inl zero
    · exact .inr high
    · rw [modeCode_none other] at known; cases known

theorem serveLoadPattern_taken {mode : Nat} {m : PatternMode} (known : modeCode mode = some m) (h1 : 1 ≤ number)
    (h16 : number ≤ 16) (n p k r d : Nat) : serveLoadPattern number mode n p k r d dev =
      (okClamped ((⟨m, n, p, k, r, d⟩ : Pattern).clamped != ⟨m, n, p, k, r, d⟩) .empty,
        { dev with su.patterns := dev.su.patterns.set (number - 1) (⟨m, n, p, k, r, d⟩ : Pattern).clamped }) := by
  unfold serveLoadPattern
  rw [known, ← setNth_pos h1]
  exact checked_passes (numberBad_not h1 h16)

theorem serveQueryPattern_refuses (bad : number = 0 ∨ 16 < number) : serveQueryPattern number dev = refuse .range dev :=
  checked_fails (numberBad_iff.2 bad)
theorem serveQueryPattern_taken {x : Pattern} (h1 : 1 ≤ number) (h16 : number ≤ 16)
    (held : dev.su.patterns[number - 1]? = some x) : serveQueryPattern number dev = (ok (.pattern x), dev) := by
  have entry : dev.su.pattern number = x := nth_held _ held
  rw [← entry]
  exact checked_passes (numberBad_not h1 h16)

end

/-- Settles O49: a mode of the table clamps the fields it uses, and the entry is replaced by what that leaves. -/
theorem patternsAreLoadedClamped : Obligations.PatternsAreLoadedClamped := by
  refine ⟨fun s tag number n p k r d ready => ?_, fun s tag number ready => ⟨fun bad => ?_, fun x h1 h16 held => ?_⟩⟩
  · intro within load put period on
    have clamp (lo hi v : Nat) (h : lo ≤ hi) : within lo hi v = clampNat lo hi v := (clampNat_eq h v).symm
    have clampPeriod : period = clampNat 2 100 p := clamp 2 100 p (by decide)
    have room : 2 ≤ clampNat 2 100 p := Nat.le_max_left _ _
    have clampOn : on = clampNat 1 (clampNat 2 100 p - 1) k := by rw [← clampPeriod] at room ⊢; exact clamp _ _ _ (by omega)
    refine ⟨fun mode bad => act_request_served ready (serveLoadPattern_refuses bad n p k r d), fun h1 h16 => ?_⟩
    have taken {mode : Nat} {m : PatternMode} (known : modeCode mode = some m) {x : Pattern} {clamped : Bool}
        (fields : (⟨m, n, p, k, r, d⟩ : Pattern).clamped = x) (told : (x != ⟨m, n, p, k, r, d⟩) = clamped) :
        load mode = put clamped x := by
      rw [← told, ← fields]
      exact act_request_served ready (serveLoadPattern_taken known h1 h16 n p k r d)
    rw [clampOn, clampPeriod, clamp 1 600 n (by decide), clamp 1 99 r (by decide), clamp 2 40 p (by decide), clamp 1 600 d (by decide)]
    refine ⟨taken rfl (clamped_ring n p k r d) ?_, taken rfl (clamped_pulse n p k r d) ?_,
      taken rfl (clamped_warble n p k r d) ?_, taken rfl (clamped_chirp n p k r d) ?_⟩ <;> simp [pattern_bne]
  · exact act_request_served ready (serveQueryPattern_refuses bad)
  · exact act_request_served ready (serveQueryPattern_taken h1 h16 held)

end Sys2Proof.Machine
end

section
/-! O50: the output of a pattern, the start of one, and a unit passing (R153 to R155, Table 9-4), with the zones settled after each. -/
namespace Sys2Proof.Machine

/-! ### Length and output by mode -/

section
variable {x : Pattern}

theorem ring_plays (ring : x.mode = .ring) (u : Nat) : x.length = x.n ∧ x.output u = if u < x.n then .steady else .silent := by
  unfold Pattern.length Pattern.output; rw [ring]; exact ⟨rfl, rfl⟩
theorem pulse_plays (pulse : x.mode = .pulse) (u : Nat) :
    x.length = x.p * x.r ∧ x.output u = if u % x.p < x.k then .steady else .silent := by
  unfold Pattern.length Pattern.output; rw [pulse]; exact ⟨rfl, rfl⟩
theorem warble_plays (warble : x.mode = .warble) (u : Nat) :
    x.length = x.d ∧ x.output u = if u % x.p < (x.p + 1) / 2 then .toneA else .toneB := by
  unfold Pattern.length Pattern.output; rw [warble]; exact ⟨rfl, rfl⟩
theorem chirp_plays (chirp : x.mode = .chirp) (u : Nat) :
    x.length = x.n + 1 ∧ x.output u = if u = x.n then .steady else .silent := by
  unfold Pattern.length Pattern.output; rw [chirp]; exact ⟨rfl, rfl⟩

end

/-! ### A generator started, and a unit passing on it -/

section
variable {su : Sounder} {g : Generator} {i : Nat}

theorem started_idle (idle : g.playing = none) : su.started i g = ⟨some ⟨i, su.pattern i, 0⟩, g.waiting⟩ := by
  unfold Sounder.started; rw [idle]; rfl

variable {q : Playing} (plays : g.playing = some q)
include plays

theorem started_gives_way (mode : q.copy.mode = .ring ∨ q.copy.mode = .chirp) :
    su.started i g = ⟨some ⟨i, su.pattern i, 0⟩, g.waiting⟩ := by
  unfold Sounder.started; rw [plays]
  rcases mode with mode | mode <;> (dsimp only; rw [mode]; rfl)
theorem started_waits (mode : q.copy.mode = .pulse ∨ q.copy.mode = .warble) : su.started i g = ⟨some q, some i⟩ := by
  unfold Sounder.started; rw [plays]
  rcases mode with mode | mode <;> (dsimp only; rw [mode])

theorem unitPassed_moves (before : q.elapsed + 1 < q.copy.length) :
    su.unitPassed g = ⟨some ⟨q.number, q.copy, q.elapsed + 1⟩, g.waiting⟩ := by
  unfold Sounder.unitPassed; rw [plays]; exact if_pos before
theorem unitPassed_ends (last : q.copy.length ≤ q.elapsed + 1) (empty : g.waiting = none) : su.unitPassed g = ⟨none, none⟩ := by
  unfold Sounder.unitPassed; rw [plays, empty]; exact if_neg (Nat.not_lt.2 last)
theorem unitPassed_next (last : q.copy.length ≤ q.elapsed + 1) (waits : g.waiting = some i) :
    su.unitPassed g = ⟨some ⟨i, su.pattern i, 0⟩, none⟩ := by
  unfold Sounder.unitPassed; rw [plays, waits]; exact if_neg (Nat.not_lt.2 last)

end
theorem unitPassed_idle {su : Sounder} {g : Generator} (idle : g.playing = none) : su.unitPassed g = g := by
  unfold Sounder.unitPassed; rw [idle]

/-! ### One generator written -/

/-- The Sounder Unit with generator g written. -/
def Sounder.play (g : Nat) (x : Generator) (su : Sounder) : Sounder := { su with generators := setNth su.generators g x }

section
variable (g : Nat) (x : Generator) (d : Device)

/-- The device with generator g written and the zones settled. -/
def Device.playOn : Device := d.resound (d.su.play g x)

theorem playOn_generators : (d.playOn g x).su.generators = setNth d.su.generators g x := by
  unfold Device.playOn; rw [resound_su]; rfl
theorem playOn_settles : d.playOn g x = settling (fun e => { e with su.generators := (d.playOn g x).su.generators }) d := by
  rw [playOn_generators]; exact (settling_resound rfl).symm
theorem playOn_frame : d.playOn g x = { d with
    su.generators := (d.playOn g x).su.generators, su.zones := (d.playOn g x).su.zones
    op.causes := (d.playOn g x).op.causes, op.changedZones := (d.playOn g x).op.changedZones } := by
  rw [playOn_generators]; unfold Device.playOn; exact resound_frame (d.su.play g x) d

variable {g} (h1 : 1 ≤ g)
include h1

theorem playOn_same (within : g ≤ d.su.generators.length) : (d.playOn g x).su.generator g = x := by
  unfold Sounder.generator; rw [playOn_generators]; exact nth_setNth_same _ _ _ _ h1 within
theorem playOn_other {h : Nat} (hh : 1 ≤ h) (other : h ≠ g) : (d.playOn g x).su.generator h = d.su.generator h := by
  unfold Sounder.generator; rw [playOn_generators]; exact nth_setNth_other _ _ _ _ _ h1 hh other.symm

end

theorem startPattern_playOn (g i : Nat) (d : Device) : startPattern g i d = d.playOn g (d.su.started i (d.su.generator g)) :=
  settling_resound rfl
theorem exec_generatorUnit {s : State} (powered : Powered s) (g : Nat) :
    exec (.generatorUnit g) s = goesTo s (s.dev.playOn g (s.dev.su.unitPassed (s.dev.su.generator g))) :=
  (act_powered_on powered).trans (congrArg (goesTo s) (settling_resound rfl))

/-- Settles O50: a start and a unit each write one generator, by what plays on it, and settle the zones. -/
theorem generatorsPlayPatterns : Obligations.GeneratorsPlayPatterns := by
  refine ⟨fun x u => ⟨fun ring => ring_plays ring u, fun pulse => pulse_plays pulse u, fun warble => warble_plays warble u,
    fun chirp => ?_⟩, fun d i g h1 within => ?_, fun s g powered h1 within => ⟨_, exec_generatorUnit powered g, ?_⟩⟩
  · exact ⟨(chirp_plays chirp u).1, fun _ => (chirp_plays chirp u).2⟩
  · rw [startPattern_playOn]
    intro gen after
    have same : after.generator g = d.su.started i gen := playOn_same _ d h1 within
    rw [same]
    exact ⟨playOn_settles _ _ _, fun h hh other => playOn_other _ d h1 hh other, started_idle, fun q => started_gives_way,
      fun q => started_waits⟩
  · rw [playOn_same _ s.dev h1 within]
    exact ⟨playOn_settles _ _ _, playOn_frame _ _ _, fun h hh other => playOn_other _ s.dev h1 hh other, unitPassed_idle,
      fun q => unitPassed_moves, fun q plays last => ⟨unitPassed_ends plays last, fun i => unitPassed_next plays last⟩⟩

end Sys2Proof.Machine
end

section
/-! O51: LOAD_ROUTE, QUERY_ROUTE, SWAP_BANK and SET_QUIET (R156 to R158), with the zones settled after each. -/
namespace Sys2Proof.Machine

/-! ### A route entry read from a request -/

/-- A route entry with a field outside Table 9-5, or a zone outside 1..24. -/
def BadRoute (e : RouteEntryOp) : Prop :=
  e.zone = 0 ∨ 24 < e.zone ∨ e.source = 0 ∨ 5 < e.source ∨ 1 < e.quietEligible ∨ e.faultLevel = 0 ∨ 2 < e.faultLevel

/-- The route entry whose fields are those of a request (Table 9-5). -/
def routeOf (e : RouteEntryOp) : RouteEntry :=
  ⟨if e.source = 1 then none else some (e.source - 1), e.quietEligible == 1, e.faultLevel == 2⟩

section
variable {n : Nat}

theorem bankCode_none (h1 : n ≠ 1) (h2 : n ≠ 2) : bankCode n = none := by
  unfold bankCode
  split
  · exact absurd rfl h1
  · exact absurd rfl h2
  · rfl
theorem sourceCode_of (h1 : 1 ≤ n) (h5 : n ≤ 5) : sourceCode n = some (if n = 1 then none else some (n - 1)) := by
  unfold sourceCode
  by_cases one : n = 1
  · rw [if_pos one, if_pos one]
  · rw [if_neg one, if_neg one, if_pos (by omega)]
theorem sourceCode_none (h : n = 0 ∨ 5 < n) : sourceCode n = none := (if_neg (by omega)).trans (if_neg (by omega))
theorem flagCode_value (h : n ≤ 1) : flagCode n = some (n == 1) := by interval_cases n <;> rfl
theorem faultLevelCode_of (h1 : 1 ≤ n) (h2 : n ≤ 2) : faultLevelCode n = some (n == 2) := by interval_cases n <;> rfl
theorem faultLevelCode_none (h : n = 0 ∨ 2 < n) : faultLevelCode n = none := by
  unfold faultLevelCode
  split
  · omega
  · omega
  · rfl

end

section
variable {e : RouteEntryOp}

theorem zoneRoute_good (good : ¬ BadRoute e) : zoneRoute e = some (e.zone, routeOf e) := by
  unfold BadRoute at good
  have entry : routeEntry e = some (routeOf e) := by
    unfold routeEntry
    rw [sourceCode_of (by omega) (by omega), flagCode_value (by omega), faultLevelCode_of (by omega) (by omega)]; rfl
  unfold zoneRoute
  rw [if_pos (by omega), entry]; rfl

theorem routeEntry_none (h : sourceCode e.source = none ∨ flagCode e.quietEligible = none ∨ faultLevelCode e.faultLevel = none) :
    routeEntry e = none := by
  unfold routeEntry
  split
  · rename_i source quiet level
    rw [source, quiet, level] at h
    rcases h with h | h | h <;> cases h
  · rfl
theorem zoneRoute_bad (bad : BadRoute e) : zoneRoute e = none := by
  unfold zoneRoute
  by_cases inside : 1 ≤ e.zone ∧ e.zone ≤ 24
  · have none : routeEntry e = none := by
      refine routeEntry_none ?_
      rcases bad with zone | zone | source | source | quiet | level | level
      · omega
      · omega
      · exact .inl (sourceCode_none (.inl source))
      · exact .inl (sourceCode_none (.inr source))
      · exact .inr (.inl (flagCode_none quiet))
      · exact .inr (.inr (faultLevelCode_none (.inl level)))
      · exact .inr (.inr (faultLevelCode_none (.inr level)))
    rw [if_pos inside, none]; rfl
  · exact if_neg inside

end

theorem zoneTwice_iff (l : List (Nat × RouteEntry)) : zoneTwice l = true ↔ ¬ (l.map Prod.fst).Nodup := by
  induction l with
  | nil => simp [zoneTwice]
  | cons e l ih =>
    have again : (l.any fun x => x.1 == e.1) = true ↔ e.1 ∈ l.map Prod.fst := by simp [List.any_eq_true]
    rw [zoneTwice, Bool.or_eq_true, again, ih, List.map_cons, List.nodup_cons]
    tauto

/-! ### Entries put into a bank -/

section
variable {l : List (Nat × RouteEntry)} (numbered : ∀ e ∈ l, 1 ≤ e.1)

theorem routed_cons (e : Nat × RouteEntry) (bank : List RouteEntry) : routed bank (e :: l) = routed (setNth bank e.1 e.2) l := rfl
theorem routed_length (bank : List RouteEntry) (l : List (Nat × RouteEntry)) : (routed bank l).length = bank.length := by
  induction l generalizing bank with
  | nil => rfl
  | cons e l ih => exact (ih _).trans (length_setNth _ _ _)

include numbered

theorem routed_other {z : Nat} (out : ∀ e ∈ l, e.1 ≠ z) (hz : 1 ≤ z) (bank : List RouteEntry) :
    (routed bank l)[z - 1]? = bank[z - 1]? := by
  induction l generalizing bank with
  | nil => rfl
  | cons e l ih =>
    obtain ⟨first, rest⟩ := List.forall_mem_cons.1 numbered
    obtain ⟨other, others⟩ := List.forall_mem_cons.1 out
    rw [routed_cons, ih rest others, setNth_pos first, List.getElem?_set_ne (by omega)]

/-- Where no zone is named twice, each entry named is in the bank. -/
theorem routed_named (once : (l.map Prod.fst).Nodup) {e : Nat × RouteEntry} (he : e ∈ l) {bank : List RouteEntry}
    (inside : e.1 ≤ bank.length) : (routed bank l)[e.1 - 1]? = some e.2 := by
  induction l generalizing bank with
  | nil => cases he
  | cons x l ih =>
    obtain ⟨first, rest⟩ := List.forall_mem_cons.1 numbered
    obtain ⟨fresh, others⟩ := List.nodup_cons.1 once
    rcases List.mem_cons.1 he with rfl | later
    · have other : ∀ y ∈ l, y.1 ≠ e.1 := fun y hy same => fresh (same ▸ List.mem_map_of_mem hy)
      rw [routed_cons, routed_other rest other first, setNth_pos first, List.getElem?_set_self (by omega)]
    · exact ih rest others later (by rw [length_setNth]; exact inside)

end

/-! ### The Sounder Unit after each -/

/-- The device with its banks written and the zones settled. -/
def Device.rerouted (a b : List RouteEntry) (d : Device) : Device := d.resound { d.su with bankA := a, bankB := b }
/-- The device with its active bank chosen and the zones settled. -/
def Device.routedBy (bank : Bank) (d : Device) : Device := d.resound { d.su with active := bank }
/-- The device with its QUIET flags written and the zones settled. -/
def Device.hushed (zones : ZoneSet) (d : Device) : Device := d.resound { d.su with quiet := zones }

section
variable (a b : List RouteEntry) (bank : Bank) (zones : ZoneSet) (d : Device)

theorem rerouted_banks : (d.rerouted a b).su.bankA = a ∧ (d.rerouted a b).su.bankB = b := by
  unfold Device.rerouted; rw [resound_su]; exact ⟨rfl, rfl⟩
theorem rerouted_settles : d.rerouted a b = settling (fun e => { e with su.bankA := a, su.bankB := b }) d :=
  (settling_resound rfl).symm
theorem rerouted_frame : d.rerouted a b = { d with
    su.bankA := a, su.bankB := b, su.zones := (d.rerouted a b).su.zones
    op.causes := (d.rerouted a b).op.causes, op.changedZones := (d.rerouted a b).op.changedZones } := by
  unfold Device.rerouted; exact resound_frame _ d

theorem routedBy_active : (d.routedBy bank).su.active = bank := by unfold Device.routedBy; rw [resound_su]
theorem routedBy_settles : d.routedBy bank = settling (fun e => { e with su.active := bank }) d := (settling_resound rfl).symm
theorem routedBy_frame : d.routedBy bank = { d with
    su.active := bank, su.zones := (d.routedBy bank).su.zones
    op.causes := (d.routedBy bank).op.causes, op.changedZones := (d.routedBy bank).op.changedZones } := by
  unfold Device.routedBy; exact resound_frame _ d

theorem hushed_settles : d.hushed zones = settling (fun e => { e with su.quiet := zones }) d := (settling_resound rfl).symm
theorem hushed_frame : d.hushed zones = { d with
    su.quiet := zones, su.zones := (d.hushed zones).su.zones
    op.causes := (d.hushed zones).op.causes, op.changedZones := (d.hushed zones).op.changedZones } := by
  unfold Device.hushed; exact resound_frame _ d

variable {d} (free : ∀ v ∈ d.su.zones, v.supervised = false)
include free

theorem rerouted_free : d.rerouted a b = { d with su.bankA := a, su.bankB := b } :=
  resound_unsupervised (u := { d.su with bankA := a, bankB := b }) free d
theorem routedBy_free : d.routedBy bank = { d with su.active := bank } :=
  resound_unsupervised (u := { d.su with active := bank }) free d
theorem hushed_free : d.hushed zones = { d with su.quiet := zones } :=
  resound_unsupervised (u := { d.su with quiet := zones }) free d

end

/-! ### The requests -/

section
variable {bank : Nat} {entries : List RouteEntryOp} {d : Device}

theorem bank_cases {which : Bank} (known : bankCode bank = some which) : bank = 1 ∧ which = .a ∨ bank = 2 ∧ which = .b := by
  unfold bankCode at known
  split at known
  · exact .inl ⟨rfl, (Option.some.inj known).symm⟩
  · exact .inr ⟨rfl, (Option.some.inj known).symm⟩
  · cases known

/-- A LOAD_ROUTE with a bank, a count of entries or a field outside its table. -/
def RouteOutside (bank : Nat) (entries : List RouteEntryOp) : Prop :=
  (bank ≠ 1 ∧ bank ≠ 2) ∨ entries = [] ∨ 24 < entries.length ∨ ∃ e ∈ entries, BadRoute e

theorem serveLoadRoute_refuses (outside : RouteOutside bank entries) : serveLoadRoute bank entries d = refuse .range d := by
  unfold serveLoadRoute
  split
  · rename_i which l known decoded
    have length : l.length = entries.length := by
      simpa using (congrArg List.length (decodeAll_some decoded)).symm
    refine checked_fails ?_
    rw [Bool.or_eq_true, List.isEmpty_iff, decide_eq_true_iff, length, ← List.length_eq_zero_iff, length]
    rcases outside with ⟨h1, h2⟩ | empty | many | ⟨e, he, bad⟩
    · rw [bankCode_none h1 h2] at known; cases known
    · exact .inl (List.length_eq_zero_iff.2 empty)
    · exact .inr many
    · rw [(decodeAll_none _ _).2 ⟨e, he, zoneRoute_bad bad⟩] at decoded; cases decoded
  · rfl

/-- The bank named, with a request's entries put into it. -/
def Sounder.loaded (bank : Nat) (entries : List RouteEntryOp) (su : Sounder) : List RouteEntry :=
  routed (if bank = 1 then su.bankA else su.bankB) (entries.map fun e => (e.zone, routeOf e))

theorem loaded_length {su : Sounder} {size : Nat} (sized : (if bank = 1 then su.bankA else su.bankB).length = size) :
    (su.loaded bank entries).length = size := (routed_length _ _).trans sized

section
variable {su : Sounder} (good : ∀ e ∈ entries, ¬ BadRoute e)
include good

theorem routes_numbered : ∀ x ∈ entries.map fun e => (e.zone, routeOf e), 1 ≤ x.1 :=
  List.forall_mem_map.2 fun e he => by have := good e he; unfold BadRoute at this; omega
theorem loaded_named (once : (entries.map (·.zone)).Nodup) {e : RouteEntryOp} (he : e ∈ entries)
    (sized : (if bank = 1 then su.bankA else su.bankB).length = 24) : (su.loaded bank entries)[e.zone - 1]? = some (routeOf e) := by
  refine routed_named (e := (e.zone, routeOf e)) (routes_numbered good) ?_
    (List.mem_map_of_mem (f := fun e : RouteEntryOp => (e.zone, routeOf e)) he) ?_
  · rw [List.map_map]; exact once
  · have := good e he; unfold BadRoute at this; omega
theorem loaded_other {z : Nat} (out : ∀ e ∈ entries, e.zone ≠ z) (hz : 1 ≤ z) :
    (su.loaded bank entries)[z - 1]? = (if bank = 1 then su.bankA else su.bankB)[z - 1]? :=
  routed_other (routes_numbered good) (List.forall_mem_map.2 out) hz _

end

/-- The device with a request's entries put into the bank named, and the zones settled. -/
def Device.loadedRoute (bank : Nat) (entries : List RouteEntryOp) (d : Device) : Device :=
  d.rerouted (if bank = 1 then d.su.loaded bank entries else d.su.bankA) (if bank = 1 then d.su.bankB else d.su.loaded bank entries)

variable (inside : ¬ RouteOutside bank entries)
include inside

theorem serveLoadRoute_checks : serveLoadRoute bank entries d =
    checked d [(zoneTwice (entries.map fun e => (e.zone, routeOf e)), .duplicate)] (ok .empty, d.loadedRoute bank entries) := by
  obtain ⟨coded, named, few, good⟩ :
      ¬ (bank ≠ 1 ∧ bank ≠ 2) ∧ entries ≠ [] ∧ entries.length ≤ 24 ∧ ∀ e ∈ entries, ¬ BadRoute e := by
    simpa only [RouteOutside, not_or, not_exists, not_and, Nat.not_lt] using inside
  have known : ∃ which, bankCode bank = some which := by
    rcases not_and_or.1 coded with one | two
    · rw [not_not.1 one]; exact ⟨_, rfl⟩
    · rw [not_not.1 two]; exact ⟨_, rfl⟩
  obtain ⟨which, known⟩ := known
  have written : settling (fun e => { e with
      su := e.su.putBank which (routed (e.su.bank which) (entries.map fun e => (e.zone, routeOf e))) }) d = d.loadedRoute bank entries := by
    unfold Device.loadedRoute Device.rerouted
    refine settling_resound ?_
    rcases bank_cases known with ⟨rfl, rfl⟩ | ⟨rfl, rfl⟩ <;> rfl
  unfold serveLoadRoute
  rw [known, decodeAll_of fun e he => zoneRoute_good (good e he)]
  dsimp only
  rw [written]
  refine checked_passes ?_
  rw [Bool.or_eq_false_iff, List.isEmpty_eq_false_iff, decide_eq_false_iff_not, List.length_map]
  exact ⟨mt List.map_eq_nil_iff.1 named, Nat.not_lt.2 few⟩

theorem serveLoadRoute_twice (twice : ¬ (entries.map (·.zone)).Nodup) : serveLoadRoute bank entries d = refuse .duplicate d := by
  rw [serveLoadRoute_checks inside]
  refine checked_fails ((zoneTwice_iff _).2 ?_)
  rw [List.map_map]; exact twice
theorem serveLoadRoute_taken (once : (entries.map (·.zone)).Nodup) :
    serveLoadRoute bank entries d = (ok .empty, d.loadedRoute bank entries) := by
  rw [serveLoadRoute_checks inside]
  refine checked_passes (Bool.eq_false_iff.2 fun twice => (zoneTwice_iff _).1 twice ?_)
  rw [List.map_map]; exact once

end

theorem serveQueryRoute_refuses {bank : Nat} {d : Device} (h1 : bank ≠ 1) (h2 : bank ≠ 2) :
    serveQueryRoute bank d = refuse .range d := by
  unfold serveQueryRoute; rw [bankCode_none h1 h2]

/-- Settles O51: the entries are put one by one into the bank named; each change is one of the Sounder Unit with the zones settled. -/
theorem routesAndQuietFlagsAreWritten : Obligations.RoutesAndQuietFlagsAreWritten := by
  refine ⟨fun s tag bank entries ready => ?_, fun s tag bank ready => ?_, fun s tag ready => ?_, fun s tag zones ready => ?_⟩
  · intro load bad outside
    refine ⟨fun out => act_request_served ready (serveLoadRoute_refuses out), fun inside twice => ?_,
      fun inside once sizedA sizedB => ?_⟩
    · exact act_request_served ready (serveLoadRoute_twice inside twice)
    · have loaded : load = answers s tag 57 (ok .empty) (s.dev.loadedRoute bank entries) :=
        act_request_gives ready (serveLoadRoute_taken inside once)
      have good : ∀ e ∈ entries, ¬ BadRoute e := fun e he is => inside (.inr (.inr (.inr ⟨e, he, is⟩)))
      have sized : (if bank = 1 then s.dev.su.bankA else s.dev.su.bankB).length = 24 := by split <;> assumption
      refine ⟨_, _, loaded, loaded_length sized, fun e he => loaded_named good once he sized,
        fun z h1 h24 out => loaded_other good out h1, ?_⟩
      unfold Device.loadedRoute
      rw [(rerouted_banks _ _ _).1, (rerouted_banks _ _ _).2]
      exact ⟨rfl, rfl, rerouted_settles _ _ _, rerouted_frame _ _ _, fun free => rerouted_free _ _ free⟩
  · exact ⟨fun h1 h2 => act_request_served ready (serveQueryRoute_refuses h1 h2), act_request_ready ready, act_request_ready ready⟩
  · have swap : exec (.swapBank tag) s = answers s tag 59 (ok .empty) (exchangeBanks s.dev) := act_request_ok exchangeBanks ready
    have routed : exchangeBanks s.dev = s.dev.routedBy (match s.dev.su.active with | .a => .b | .b => .a) := settling_resound rfl
    refine ⟨_, swap, rfl, ?_⟩
    rw [routed, routedBy_active]
    exact ⟨by cases s.dev.su.active <;> decide, routedBy_settles _ _, routedBy_frame _ _, fun free => routedBy_free _ free⟩
  · have quiet : exec (.setQuiet tag zones) s = answers s tag 60 (ok .empty) (setQuiet zones s.dev) :=
      act_request_ok (setQuiet zones) ready
    have hushed : setQuiet zones s.dev = s.dev.hushed zones := settling_resound rfl
    rw [quiet, hushed]
    exact ⟨_, rfl, hushed_settles _ _, hushed_frame _ _, fun free => hushed_free _ free⟩

end Sys2Proof.Machine
end

section
/-! O52: ALERT and PA by their requests and inputs, and the alert warble (R159, R160), with the zones settled after each. -/
namespace Sys2Proof.Machine

/-! ### The Sounder Unit changed, ALERT set or not -/

/-- The Sounder Unit becomes u, the zones are settled, and ALERT is set where raised. -/
def Device.alerted (raised : Bool) (u : Sounder) (d : Device) : Device :=
  if raised then (d.resound u).raise .alert else d.resound u

theorem alerted_false (u : Sounder) (d : Device) : d.alerted false u = d.resound u := rfl
theorem alerted_true (u : Sounder) (d : Device) : d.alerted true u = (d.resound u).raise .alert := rfl

/-- e is d with its Sounder Unit u, the zones settled and ALERT set where raised, and nothing else moved. -/
def Alerted (raised : Bool) (u : Sounder) (d e : Device) : Prop :=
  let moved := settling (fun e => { e with su := u }) d
  e = (if raised then moved.raise .alert else moved) ∧
  e = { d with su := { u with zones := e.su.zones }, op.causes := e.op.causes, op.changedZones := e.op.changedZones } ∧
  (raised = true → e.op.holds .alert = true) ∧
  ((∀ v ∈ d.su.zones, v.supervised = false) →
    e = if raised then ({ d with su := u } : Device).raise .alert else { d with su := u })

theorem resound_frame_raised {u : Sounder} {d e : Device} (c : Cause) (h : e = { d with
    su := { u with zones := e.su.zones }, op.causes := e.op.causes, op.changedZones := e.op.changedZones }) : e.raise c = { d with
    su := { u with zones := (e.raise c).su.zones }, op.causes := (e.raise c).op.causes
    op.changedZones := (e.raise c).op.changedZones } := by
  conv_lhs => rw [h]
  rfl

theorem alerted_is (raised : Bool) {u : Sounder} {d : Device} (kept : u.zones = d.su.zones) : Alerted raised u d (d.alerted raised u) := by
  have free (h : ∀ v ∈ d.su.zones, v.supervised = false) : d.resound u = { d with su := u } :=
    resound_unsupervised (by rw [kept]; exact h) d
  cases raised with
  | false =>
    rw [alerted_false]
    exact ⟨rfl, resound_frame u d, nofun, free⟩
  | true =>
    rw [alerted_true]
    exact ⟨(if_pos rfl).symm, resound_frame_raised .alert (resound_frame u d), fun _ => raise_holds_same .alert (d.resound u),
      fun h => (congrArg (Device.raise .alert) (free h)).trans (if_pos rfl).symm⟩

/-- A change of ALERT sets its cause where the state or the mask moves (R159). -/
theorem changeAlert_alerted {f : Sounder → Sounder} {d : Device} {raised : Bool} {u : Sounder} (becomes : f d.su = u)
    (moves : raised = true ↔ ¬ (u.alert.isSome = d.su.alert.isSome ∧ u.alertZones = d.su.alertZones)) :
    changeAlert f d = d.alerted raised u := by
  have settles : settling (fun d => { d with su := f d.su }) d = d.resound u := settling_resound (by rw [becomes])
  unfold changeAlert Device.alerted
  dsimp only
  rw [settles, becomes]
  split
  · rename_i same
    exact (if_neg fun is => moves.1 is same).symm
  · rename_i changed
    exact (if_pos (moves.2 changed)).symm

section
variable {zones : ZoneSet} {d : Device}

theorem alertRaised_idle (idle : d.su.alert = none) :
    changeAlert (Sounder.raised zones) d = d.alerted true { d.su with alert := some ⟨zones, 0⟩ } := by
  refine changeAlert_alerted (by unfold Sounder.raised; rw [idle]) ?_
  rw [idle]; simp
theorem alertRaised_active {a : Alert} (active : d.su.alert = some a) : changeAlert (Sounder.raised zones) d =
    d.alerted (a.zones ||| zones != a.zones) { d.su with alert := some { a with zones := a.zones ||| zones } } := by
  refine changeAlert_alerted (by unfold Sounder.raised; rw [active]) ?_
  unfold Sounder.alertZones
  rw [active]; simp
theorem alertStopped :
    changeAlert (fun su => { su with alert := none }) d = d.alerted d.su.alert.isSome { d.su with alert := none } := by
  refine changeAlert_alerted rfl ?_
  unfold Sounder.alertZones
  cases d.su.alert with
  | none => simp
  | some a => simp

end

/-! ### PA -/

section
variable (zones : ZoneSet) (held : Bool) (d : Device)

theorem paStop_alerted : paStop d = d.alerted false { d.su with paRequest := 0 } := by
  rw [alerted_false]; exact settling_resound rfl
theorem setPaKey_alerted : setPaKey zones d = d.alerted false { d.su with paKeyZones := zones } := by
  rw [alerted_false]; exact settling_resound rfl
theorem paKeyIs_alerted : paKeyIs held d = d.alerted false { d.su with paKeyHeld := held } := by
  rw [alerted_false]; exact settling_resound rfl

end

/-! ### The requests -/

section
variable {zones : ZoneSet} {d : Device}

theorem serveAlertStart_empty (empty : zones = 0) : serveAlertStart zones d = refuse .range d := checked_fails (beq_iff_eq.2 empty)
theorem serveSetAlertInput_empty (empty : zones = 0) : serveSetAlertInput zones d = refuse .range d :=
  checked_fails (beq_iff_eq.2 empty)
theorem servePaStart_empty (empty : zones = 0) : servePaStart zones d = refuse .range d := checked_fails (beq_iff_eq.2 empty)
theorem serveAlertStop_held (active : d.su.alertLevel = true) : serveAlertStop d = refuse .state d := checked_fails active

end

section
variable {s : State} {tag : Nat} {zones : ZoneSet} {e : Device} (ready : Ready s)
include ready

theorem exec_alertStart (given : zones ≠ 0) (h : changeAlert (Sounder.raised zones) s.dev = e) :
    exec (.alertStart tag zones) s = answers s tag 61 (ok .empty) e :=
  act_request_gives ready (h ▸ checked_passes (beq_false_of_ne given))
theorem exec_setAlertInput (given : zones ≠ 0) :
    exec (.setAlertInput tag zones) s = answers s tag 63 (ok .empty) { s.dev with su.alertInputZones := zones } :=
  act_request_gives ready (checked_passes (beq_false_of_ne given))
theorem exec_paStart (given : zones ≠ 0) :
    exec (.paStart tag zones) s = answers s tag 64 (ok .empty) (s.dev.alerted false { s.dev.su with paRequest := zones }) :=
  act_request_gives ready (checked_passes (beq_false_of_ne given))
theorem exec_alertStop (inactive : s.dev.su.alertLevel = false) : exec (.alertStop tag) s =
    answers s tag 62 (ok .empty) (s.dev.alerted s.dev.su.alert.isSome { s.dev.su with alert := none }) :=
  act_request_gives ready (alertStopped ▸ checked_passes inactive)

end

/-! ### The inputs and the warble -/

section
variable {d : Device}

/-- Settling does not look at the level of the alert input. -/
theorem alerted_of_level (level raised : Bool) (u : Sounder) :
    ({ d with su.alertLevel := level } : Device).alerted raised u = d.alerted raised u := rfl

theorem alertInputIs_same {level : Bool} (h : d.su.alertLevel = level) : alertInputIs level d = d := if_pos h
theorem alertInputIs_inactive (h : d.su.alertLevel = true) : alertInputIs false d = { d with su.alertLevel := false } :=
  if_neg (by rw [h]; decide)
theorem alertInputIs_active (h : d.su.alertLevel = false) : alertInputIs true d =
    changeAlert (Sounder.raised d.su.alertInputZones) { d with su.alertLevel := true } := if_neg (by rw [h]; decide)

theorem alertInputIs_idle (inactive : d.su.alertLevel = false) (idle : d.su.alert = none) : alertInputIs true d =
    d.alerted true { d.su with alertLevel := true, alert := some ⟨d.su.alertInputZones, 0⟩ } := by
  rw [alertInputIs_active inactive, ← alerted_of_level true]
  exact alertRaised_idle (d := { d with su.alertLevel := true }) idle
theorem alertInputIs_grows (inactive : d.su.alertLevel = false) {a : Alert} (active : d.su.alert = some a) : alertInputIs true d =
    d.alerted (a.zones ||| d.su.alertInputZones != a.zones)
      { d.su with alertLevel := true, alert := some { a with zones := a.zones ||| d.su.alertInputZones } } := by
  rw [alertInputIs_active inactive, ← alerted_of_level true]
  exact alertRaised_active (d := { d with su.alertLevel := true }) active

theorem warbleUnit_idle (idle : d.su.alert = none) : warbleUnit d = d := by
  unfold warbleUnit
  rw [idle, Option.map_none, ← idle]
theorem warbleUnit_active {a : Alert} (active : d.su.alert = some a) :
    warbleUnit d = { d with su.alert := some ⟨a.zones, (a.phase + 1) % 10⟩ } := by
  unfold warbleUnit
  rw [active]; rfl

/-- The warble is TONE_A for five units and TONE_B for five (R159). -/
theorem level_iff (a : Alert) : (a.level = .toneA ↔ a.phase < 5) ∧ (a.level = .toneB ↔ 5 ≤ a.phase) := by
  by_cases early : a.phase < 5
  · have level : a.level = .toneA := if_pos early
    rw [level]; exact ⟨iff_of_true rfl early, iff_of_false nofun (Nat.not_le.2 early)⟩
  · have level : a.level = .toneB := if_neg early
    rw [level]; exact ⟨iff_of_false nofun early, iff_of_true rfl (Nat.not_lt.1 early)⟩

end

/-- Settles O52: each request and input is one change of the Sounder Unit, by the alert before it. -/
theorem alertAndPaAreSet : Obligations.AlertAndPaAreSet := by
  unfold Obligations.AlertAndPaAreSet
  intro settled
  refine ⟨fun s tag zones ready => ?_, fun s powered => ?_, fun s powered => ?_, fun s level off => ?_⟩
  · intro su served
    refine ⟨fun empty => ?_, fun given => ⟨fun idle => ?_, fun a active => ?_, exec_setAlertInput ready given, ?_⟩, fun active => ?_,
      fun inactive => ⟨_, exec_alertStop ready inactive, alerted_is _ rfl⟩, ?_, ?_⟩
    · exact ⟨act_request_served ready (serveAlertStart_empty empty), act_request_served ready (serveSetAlertInput_empty empty),
        act_request_served ready (servePaStart_empty empty)⟩
    · exact ⟨_, exec_alertStart ready given (alertRaised_idle idle), alerted_is _ rfl⟩
    · exact ⟨_, exec_alertStart ready given (alertRaised_active active), alerted_is _ rfl⟩
    · exact ⟨_, exec_paStart ready given, alerted_is _ rfl⟩
    · exact act_request_served ready (serveAlertStop_held active)
    · have stop : exec (.paStop tag) s = answers s tag 65 (ok .empty) (paStop s.dev) := act_request_ok paStop ready
      rw [stop, paStop_alerted]
      exact ⟨_, rfl, alerted_is false rfl⟩
    · have key : exec (.setPaKey tag zones) s = answers s tag 66 (ok .empty) (setPaKey zones s.dev) :=
        act_request_ok (setPaKey zones) ready
      rw [key, setPaKey_alerted]
      exact ⟨_, rfl, alerted_is false rfl⟩
  · intro su seen
    have key (held : Bool) : exec (.paKey held) s = goesTo s (paKeyIs held s.dev) := congrArg (goesTo s) (if_pos powered)
    have input (level : Bool) : exec (.alertInput level) s = goesTo s (alertInputIs level s.dev) := congrArg (goesTo s) (if_pos powered)
    refine ⟨fun held => ?_, fun level same => ?_, fun active => ?_,
      fun inactive => ⟨fun idle => ?_, fun a active => ?_⟩⟩
    · rw [key, paKeyIs_alerted]
      exact ⟨_, rfl, alerted_is false rfl⟩
    · rw [input, alertInputIs_same same]
    · rw [input, alertInputIs_inactive active]
    · rw [input, alertInputIs_idle inactive idle]
      exact ⟨_, rfl, alerted_is _ rfl⟩
    · rw [input, alertInputIs_grows inactive active]
      exact ⟨_, rfl, alerted_is _ rfl⟩
  · have unit : exec .alertWarbleUnit s = goesTo s (warbleUnit s.dev) := act_powered_on powered
    rw [unit]
    exact ⟨fun idle => by rw [warbleUnit_idle idle],
      fun a active => ⟨by rw [warbleUnit_active active], level_iff a⟩⟩
  · have powerless : ¬ s.dev.mainPower = true := Bool.eq_false_iff.1 off
    exact ⟨congrArg (goesTo s) (if_neg powerless), congrArg (goesTo s) (if_neg powerless)⟩

end Sys2Proof.Machine
end

section
/-! O53: the demand, engagement and line of each zone, as QUERY_ZONES gives them, and QUERY_SOUNDER (R161, R164). -/
namespace Sys2Proof.Machine

/-! ### What a demand turns on -/

theorem inAlert_iff {su : Sounder} {z : Nat} :
    inZones su.alertZones z = true ↔ ∃ a, su.alert = some a ∧ a.zones.getLsbD (z - 1) = true := by
  unfold inZones Sounder.alertZones
  cases su.alert with
  | none => simp
  | some a => simp
theorem inPa_iff {su : Sounder} {z : Nat} : inZones su.paZones z = true ↔
    su.paRequest.getLsbD (z - 1) = true ∨ su.paKeyHeld = true ∧ su.paKeyZones.getLsbD (z - 1) = true := by
  unfold inZones Sounder.paZones
  cases su.paKeyHeld with
  | false => simp
  | true => simp

section
variable {d : Device} {z : Nat}

/-- Zone z is silent where no alert and no PA reaches it: the clock is INVALID, the source is NONE, or the zone is quiet (R161). -/
def Device.Hushed (d : Device) (z : Nat) : Prop := d.tb.validity = .invalid ∨ (d.su.route z).source = none ∨
  d.su.quiet.getLsbD (z - 1) = true ∧ (d.su.route z).quietEligible = true

/-! ### The demand by the first step that applies -/

theorem demand_alerted (alerted : inZones d.su.alertZones z = true) : d.demand z = .alertWarble := if_pos alerted
theorem demand_paged (calm : ¬ inZones d.su.alertZones z = true) (paged : inZones d.su.paZones z = true) : d.demand z = .paLine :=
  (if_neg calm).trans (if_pos paged)

section
variable (calm : ¬ inZones d.su.alertZones z = true) (unpaged : ¬ inZones d.su.paZones z = true)
include calm unpaged

theorem demand_routed : d.demand z = if !d.clockValid || (inZones d.su.quiet z && (d.su.route z).quietEligible) then .silent
    else match (d.su.route z).source with
      | none => .silent
      | some g => .generator g := (if_neg calm).trans (if_neg unpaged)
theorem demand_hushed (hushed : d.Hushed z) : d.demand z = .silent := by
  rw [demand_routed calm unpaged]
  rcases hushed with invalid | noSource | ⟨quiet, eligible⟩
  · exact if_pos (by rw [(clockValid_false_iff d).2 invalid]; rfl)
  · rw [noSource]; split <;> rfl
  · have quiet : inZones d.su.quiet z = true := quiet
    exact if_pos (by rw [quiet, eligible, Bool.and_self, Bool.or_true])
theorem demand_generator (sounds : ¬ d.Hushed z) {g : Nat} (source : (d.su.route z).source = some g) : d.demand z = .generator g := by
  obtain ⟨valid, -, loud⟩ := by simpa only [Device.Hushed, not_or] using sounds
  rw [demand_routed calm unpaged, if_neg, source]
  rw [Bool.or_eq_true, Bool.not_eq_true', clockValid_false_iff, Bool.and_eq_true]
  exact not_or.2 ⟨valid, loud⟩

end

/-- While the clock is INVALID no zone carries a generator (R161). -/
theorem demand_invalid (invalid : d.tb.validity = .invalid) (g : Nat) : d.demand z ≠ .generator g := by
  by_cases alerted : inZones d.su.alertZones z = true
  · rw [demand_alerted alerted]; nofun
  · by_cases paged : inZones d.su.paZones z = true
    · rw [demand_paged alerted paged]; nofun
    · rw [demand_hushed alerted paged (.inl invalid)]; nofun

theorem engaged_eq (d : Device) (z : Nat) : d.engaged z = demandEngages d.su (d.demand z) := rfl

/-! ### The line -/

theorem lineLevel_fault (fault : (d.su.zone z).fault = true) :
    d.lineLevel z = if (d.su.route z).steadyFault then .steady else .silent := if_pos fault
theorem lineLevel_normal (normal : (d.su.zone z).fault = false) : d.lineLevel z = demandLevel d.su (d.demand z) :=
  if_neg (Bool.eq_false_iff.1 normal)

theorem demandLevel_alert {su : Sounder} {a : Alert} (active : su.alert = some a) :
    demandLevel su .alertWarble = if a.phase < 5 then .toneA else .toneB := by
  unfold demandLevel; rw [active]; rfl
theorem output_idle {g : Generator} (idle : g.playing = none) : g.output = .silent := by unfold Generator.output; rw [idle]
theorem output_playing {g : Generator} {q : Playing} (plays : g.playing = some q) : g.output = q.copy.output q.elapsed := by
  unfold Generator.output; rw [plays]

end

/-! ### The replies -/

theorem zonesReply_at {d : Device} {z : Nat} (h1 : 1 ≤ z) (h24 : z ≤ 24) :
    (allZones.map d.zoneReply)[z - 1]? = some (d.zoneReply z) := by
  have place : allZones[z - 1]? = some z := by
    unfold allZones; rw [List.getElem?_range' (by omega)]; congr 1; omega
  rw [List.getElem?_map, place]; rfl

theorem route_held {su : Sounder} {z : Nat} {e : RouteEntry}
    (held : (match su.active with | .a => su.bankA | .b => su.bankB)[z - 1]? = some e) : su.route z = e := by
  refine nth_held _ ?_
  unfold Sounder.bank
  exact held

/-- Settles O53: the demand by its steps, and from it engagement and the line. -/
theorem zonesAreDrivenByTheFirstDemand : Obligations.ZonesAreDrivenByTheFirstDemand := by
  refine ⟨fun s tag ready => ?_, fun s tag ready => ?_⟩
  · refine ⟨allZones.map s.dev.zoneReply, act_request_ready ready, rfl, fun z r h1 h24 given => ?_⟩
    obtain rfl : s.dev.zoneReply z = r := Option.some.inj ((zonesReply_at h1 h24).symm.trans given)
    intro su has alerted paged hushed
    have inAlert : inZones su.alertZones z = true ↔ alerted := inAlert_iff
    have inPa : inZones su.paZones z = true ↔ paged := inPa_iff
    have engaged {x : Demand} (demand : s.dev.demand z = x) : (s.dev.zoneReply z).engaged = demandEngages su x :=
      (engaged_eq s.dev z).trans (by rw [demand])
    have normal {x : Demand} (fine : (s.dev.zoneReply z).fault = false) (demand : (s.dev.zoneReply z).demand = x) :
        (s.dev.zoneReply z).level = demandLevel su x := demand ▸ lineLevel_normal fine
    refine ⟨fun e held => route_held held, Iff.rfl, inAlert, inPa, fun is => ?_, fun calm is => ?_, fun calm unpaged is => ?_,
      fun g calm unpaged sounds source => ?_, fun g invalid => demand_invalid invalid g, fun v held => ?_, lineLevel_fault,
      fun fine => ?_⟩
    · have demand := demand_alerted (d := s.dev) (inAlert.2 is)
      exact ⟨demand, engaged demand⟩
    · have demand := demand_paged (d := s.dev) (mt inAlert.1 calm) (inPa.2 is)
      exact ⟨demand, engaged demand⟩
    · have demand := demand_hushed (d := s.dev) (mt inAlert.1 calm) (mt inPa.1 unpaged) is
      exact ⟨demand, engaged demand⟩
    · have demand := demand_generator (d := s.dev) (mt inAlert.1 calm) (mt inPa.1 unpaged) sounds source
      exact ⟨demand, engaged demand⟩
    · have zone := zone_held held
      exact ⟨congrArg (·.supervised) zone, congrArg (·.fault) zone, congrArg (·.bad) zone, congrArg (·.good) zone⟩
    · refine ⟨fun a is active => ?_, fun page => normal fine page, fun silent => normal fine silent, fun g carries => ?_⟩
      · rw [normal fine (demand_alerted (inAlert.2 is)), demandLevel_alert active]
      · rw [normal fine carries]
        exact ⟨output_idle, fun q => output_playing⟩
  · refine ⟨_, act_request_ready ready, List.length_map _, fun i g x held given => ?_, rfl, rfl, rfl, rfl, rfl, rfl, rfl⟩
    have reply : x = g.reply := by
      rw [List.getElem?_map, held] at given; exact (Option.some.inj given).symm
    subst reply
    unfold Generator.reply
    refine ⟨rfl, fun idle => ?_, fun q plays => ?_⟩
    · rw [idle]; exact ⟨rfl, output_idle idle⟩
    · rw [plays]; exact ⟨rfl, rfl, rfl, rfl, output_playing plays⟩

end Sys2Proof.Machine
end

section
/-! SUPPORT. The Gate Bus's operations said once: the address the round polls next, and a station's record found in its table
(R166, R167). -/
namespace Sys2Proof.Machine

/-! ### The next poll -/

/-- The round polls address a now, at the one it has reached or behind it (R167). -/
def GateBus.Due (gb : GateBus) (a : Nat) : Prop :=
  gb.reached ≤ a ∧ ((gb.station a).state = .syncing ∨ (gb.station a).state = .active ∨
    ((gb.station a).state = .searching ∨ (gb.station a).state = .lost) ∧ gb.round + 1 = a)

section
variable {gb : GateBus} {a : Nat}

theorem pollable_iff : gb.pollable a = true ↔ (gb.station a).state = .syncing ∨ (gb.station a).state = .active ∨
    ((gb.station a).state = .searching ∨ (gb.station a).state = .lost) ∧ gb.round + 1 = a := by
  unfold GateBus.pollable
  cases (gb.station a).state <;> simp

theorem due_iff : (decide (gb.reached ≤ a) && gb.pollable a) = true ↔ gb.Due a := by
  rw [Bool.and_eq_true, decide_eq_true_iff, pollable_iff]; rfl

theorem nextPoll_first (h1 : 1 ≤ a) (h8 : a ≤ 8) (due : gb.Due a) (first : ∀ c, 1 ≤ c → c < a → ¬ gb.Due c) :
    gb.nextPoll = some a := by
  refine List.find?_range'_eq_some.2 ⟨due_iff.2 due, List.mem_range'_1.2 (by omega), fun c hc hca => ?_⟩
  rw [Bool.not_eq_true', Bool.eq_false_iff]
  exact mt due_iff.1 (first c hc hca)
theorem nextPoll_none (past : ∀ a, 1 ≤ a → a ≤ 8 → ¬ gb.Due a) : gb.nextPoll = none := by
  refine List.find?_range'_eq_none.2 fun a h1 h9 => ?_
  rw [Bool.not_eq_true', Bool.eq_false_iff]
  exact mt due_iff.1 (past a h1 (by omega))

theorem atRest_iff : gb.atRest = true ↔ gb.inFlight = none ∧ gb.records = [] := by
  unfold GateBus.atRest
  rw [Bool.and_eq_true, beq_iff_eq, List.isEmpty_iff]

end

/-! ### The place of the round -/

section
variable {d : Device}

theorem settleRound_stands (h : d.gb.inFlight ≠ none ∨ d.gb.reached = 0) : settleRound d = d := by
  have stands : d.gb.settled = d.gb := if_neg fun ⟨idle, begun⟩ => h.elim (· idle) begun
  unfold settleRound; rw [stands]
theorem settleRound_moves (idle : d.gb.inFlight = none) (begun : d.gb.reached ≠ 0) :
    settleRound d = { d with gb.reached := d.gb.nextPoll.getD 9 } := by
  have moves : d.gb.settled = { d.gb with reached := d.gb.nextPoll.getD 9 } := if_pos ⟨idle, begun⟩
  unfold settleRound; rw [moves]

end

/-! ### A station's record -/

section
variable {a : Nat} {st : Station} {d : Device}

theorem station_held {gb : GateBus} (held : gb.stations[a - 1]? = some st) : gb.station a = st := nth_held _ held
theorem putStation_at (h1 : 1 ≤ a) (st : Station) (d : Device) :
    d.putStation a st = { d with gb.stations := d.gb.stations.set (a - 1) st } := by
  unfold Device.putStation; rw [setNth_pos h1]

end

end Sys2Proof.Machine
end

section
/-! O55: SET_STATION, QUERY_STATIONS, the start of a round and the next poll (R166 to R169, R174). -/
namespace Sys2Proof.Machine

/-! ### SET_STATION -/

section
variable {st : Station} (site : Nat)

theorem set_joins (off : st.state = .disabled) :
    st.set true site = ⟨.searching, site, 0, [], [], st.missedTotal, st.repeatTotal⟩ := by
  unfold Station.set Station.enabled; rw [off]; rfl
theorem set_keeps (on : st.state ≠ .disabled) : st.set true site = { st with site := site } := by
  have enabled : st.enabled = true := bne_iff_ne.2 on
  unfold Station.set; rw [enabled]; rfl
theorem set_stays_off (off : st.state = .disabled) : st.set false site = { st with site := site } := by
  unfold Station.set Station.enabled; rw [off]; rfl
theorem set_leaves (on : st.state ≠ .disabled) :
    st.set false site = ⟨.disabled, site, 0, [], [], st.missedTotal, st.repeatTotal⟩ := by
  have enabled : st.enabled = true := bne_iff_ne.2 on
  unfold Station.set; rw [enabled]; rfl

end

/-- The device once its waiting records are taken, with station a's record written, the reply in flight to be dropped or not, and the
round settled. -/
def Device.stationSet (a : Nat) (new : Station) (drop : Bool) (d : Device) : Device :=
  let b := takeWaiting d
  settleRound { b with gb.stations := b.gb.stations.set (a - 1) new, gb.replyDropped := drop }

section
variable {a site : Nat} {enabled : Bool} (d : Device)

theorem takeWaiting_replyDropped : (takeWaiting d).gb.replyDropped = d.gb.replyDropped := by rw [takeWaiting_move d]

/-- Enabling a station leaves the reply in flight as it stands. -/
theorem setStation_enables (h1 : 1 ≤ a) :
    setStation a true site d = d.stationSet a (((takeWaiting d).gb.station a).set true site) d.gb.replyDropped := by
  unfold setStation Device.stationSet
  rw [← takeWaiting_replyDropped d]
  dsimp only
  rw [putStation_at h1]; rfl
/-- Disabling a station has its reply in flight dropped (R173). -/
theorem setStation_disables (h1 : 1 ≤ a) : setStation a false site d = d.stationSet a
    (((takeWaiting d).gb.station a).set false site) (d.gb.replyDropped || decide (d.gb.inFlight = some a)) := by
  have polled : decide (d.gb.inFlight = some a) = (d.gb.inFlight == some a) := by
    rw [Bool.eq_iff_iff, decide_eq_true_iff, beq_iff_eq]
  unfold setStation Device.stationSet
  rw [polled, ← takeWaiting_replyDropped d, ← (takeWaiting_move d).inFlight]
  dsimp only
  rw [putStation_at h1]; rfl

theorem serveSetStation_checks : serveSetStation a (if enabled then 1 else 0) site d =
    checked d [(a == 0 || 8 < a || 2 < site, .range), (d.rolling, .busy)] (ok .empty, setStation a enabled site d) := by
  unfold serveSetStation; rw [flagCode_of]

theorem station_inRange (inside : 1 ≤ a ∧ a ≤ 8 ∧ site ≤ 2) : (a == 0 || decide (8 < a) || decide (2 < site)) = false := by
  rw [Bool.or_eq_false_iff, Bool.or_eq_false_iff, beq_eq_false_iff_ne, decide_eq_false_iff_not, decide_eq_false_iff_not]; omega

theorem serveSetStation_outside (outside : ¬ (1 ≤ a ∧ a ≤ 8 ∧ site ≤ 2)) :
    serveSetStation a (if enabled then 1 else 0) site d = refuse .range d := by
  rw [serveSetStation_checks]
  refine checked_fails ?_
  rw [Bool.or_eq_true, Bool.or_eq_true, beq_iff_eq, decide_eq_true_iff, decide_eq_true_iff]; omega
theorem serveSetStation_busy (inside : 1 ≤ a ∧ a ≤ 8 ∧ site ≤ 2) (rolls : d.tb.rollover.isSome = true) :
    serveSetStation a (if enabled then 1 else 0) site d = refuse .busy d :=
  (serveSetStation_checks d).trans ((inRange_checks (station_inRange inside)).1 rolls)
theorem serveSetStation_taken (inside : 1 ≤ a ∧ a ≤ 8 ∧ site ≤ 2) (idle : d.tb.rollover = none) :
    serveSetStation a (if enabled then 1 else 0) site d = (ok .empty, setStation a enabled site d) :=
  (serveSetStation_checks d).trans ((inRange_checks (station_inRange inside)).2 idle)
theorem serveSetStation_flag {flag : Nat} (h : 1 < flag) : serveSetStation a flag site d = refuse .range d := by
  unfold serveSetStation; rw [flagCode_none h]

end

/-! ### QUERY_STATIONS -/

theorem reply_at {l : List Station} {i : Nat} {st : Station} {r : StationReply} (held : l[i]? = some st)
    (given : (l.map Station.reply)[i]? = some r) : r = st.reply := by
  rw [List.getElem?_map, held] at given
  exact (Option.some.inj given).symm

theorem reply_enabled (st : Station) : st.reply.enabled = true ↔ st.state ≠ .disabled := bne_iff_ne

/-! ### Rounds and polls -/

/-- Nothing keeps a round or a poll from beginning: no rollover is ACTIVE, and the exchange before has ended with its records taken. -/
def Device.BusRests (d : Device) : Prop := d.tb.rollover = none ∧ d.gb.inFlight = none ∧ d.gb.records = []

section
variable {d : Device}

theorem busRests_iff : (!d.rolling && d.gb.atRest) = true ↔ d.BusRests := by
  unfold Device.rolling Device.BusRests
  rw [Bool.and_eq_true, atRest_iff, Bool.not_eq_true', Option.isSome_eq_false_iff, Option.isNone_iff_eq_none]

theorem beginRound_waits (busy : ¬ d.BusRests) : beginRound d = d := by
  refine if_neg fun begins => busy (busRests_iff.1 ?_)
  exact (Bool.and_eq_true_iff.1 begins).1
theorem pollNext_waits (busy : ¬ d.BusRests) : pollNext d = d := if_neg (mt busRests_iff.1 busy)

/-- A round begins where the one before has no address left to poll. -/
theorem beginRound_begins (rests : d.BusRests) (ended : d.gb.nextPoll = none) : beginRound d =
    { d with gb.round := (d.gb.round + 1) % 8, gb.reached := 0, gb.frame := some d.broadcast } := by
  refine if_pos (Bool.and_eq_true_iff.2 ⟨busRests_iff.2 rests, ?_⟩)
  rw [ended]; rfl
theorem beginRound_unended {a : Nat} (next : d.gb.nextPoll = some a) : beginRound d = d := by
  refine if_neg fun begins => ?_
  have ended := (Bool.and_eq_true_iff.1 begins).2
  rw [next] at ended; cases ended

theorem pollNext_ends (rests : d.BusRests) (ended : d.gb.nextPoll = none) : pollNext d = { d with gb.reached := 9 } := by
  unfold pollNext; rw [if_pos (busRests_iff.2 rests), ended]
theorem pollNext_polls {a : Nat} (rests : d.BusRests) (next : d.gb.nextPoll = some a) : pollNext d = pollStation a d := by
  unfold pollNext; rw [if_pos (busRests_iff.2 rests), next]

theorem pollStation_held {a : Nat} {st : Station} (h1 : 1 ≤ a) (held : d.gb.stations[a - 1]? = some st) : pollStation a d = { d with
    gb.stations := d.gb.stations.set (a - 1) { st with owed := [] }, gb.inFlight := some a, gb.replyDropped := false
    gb.reached := a + 1, gb.frame := some (.poll a st.owed) } := by
  unfold pollStation
  dsimp only
  rw [station_held held, putStation_at h1]

end

/-- Settles O55: the first address due is the next poll's; SET_STATION writes one record by what it was, and a round or a poll begins
only where the bus rests. -/
theorem stationsArePolledInRounds : Obligations.StationsArePolledInRounds := by
  unfold Obligations.StationsArePolledInRounds
  intro due
  refine ⟨fun d => ⟨settleRound_stands, fun idle begun => ⟨fun a h1 h8 is first => ?_, fun past => ?_⟩⟩,
    fun s tag a site enabled ready _ => ?_, fun s tag a flag site ready bad => act_request_served ready (serveSetStation_flag _ bad),
    fun s tag ready => ?_, fun s powered => ?_⟩
  · rw [settleRound_moves idle begun, nextPoll_first h1 h8 is first]; rfl
  · rw [settleRound_moves idle begun, nextPoll_none past]; rfl
  · intro set inside b st put fresh stays dropped
    have taken (within : inside) (idle : s.dev.tb.rollover = none) :
        set = answers s tag 70 (ok .empty) (setStation a enabled site s.dev) :=
      act_request_gives ready (serveSetStation_taken _ within idle)
    refine ⟨takeWaiting_none, takeWaiting_records _, (takeWaiting_move _).inFlight, takeWaiting_tb _,
      fun outside => act_request_served ready (serveSetStation_outside _ outside),
      fun within rolls => act_request_served ready (serveSetStation_busy _ within rolls), fun within idle => ?_⟩
    rw [taken within idle]
    refine ⟨fun off on => ?_, fun was on => ?_, fun off no => ?_, fun was no => ?_⟩
    · rw [on, setStation_enables _ within.1, set_joins _ off]; rfl
    · rw [on, setStation_enables _ within.1, set_keeps _ was]; rfl
    · rw [no, setStation_disables _ within.1, set_stays_off _ off]; rfl
    · rw [no, setStation_disables _ within.1, set_leaves _ was]; rfl
  · refine ⟨s.dev.gb.stations.map Station.reply, act_request_ready ready, List.length_map _, fun i st r held given => ?_⟩
    obtain rfl := reply_at held given
    exact ⟨reply_enabled st, rfl, rfl, rfl, rfl, rfl, rfl, rfl, rfl⟩
  · intro gb rest
    have start : exec .gateRoundStart s = goesTo s (beginRound s.dev) := act_powered_on powered
    have poll : exec .poll s = goesTo s (pollNext s.dev) := act_powered_on powered
    rw [start, poll]
    refine ⟨fun busy => ?_, fun rests past => ?_, fun a st rests h1 h8 is first held => ?_⟩
    · rw [beginRound_waits busy, pollNext_waits busy]; exact ⟨rfl, rfl⟩
    · have ended := nextPoll_none past
      rw [pollNext_ends rests ended, beginRound_begins rests ended]; exact ⟨rfl, rfl⟩
    · have next := nextPoll_first h1 h8 is first
      rw [beginRound_unended next, pollNext_polls rests next, pollStation_held h1 held]; exact ⟨rfl, rfl⟩

end Sys2Proof.Machine
end

section
/-! O56: replies and missed replies, and the records they leave waiting (R169 to R171, R173). -/
namespace Sys2Proof.Machine

/-! ### The tests of a good reply -/

section
variable {checkAgrees lengthAgrees : Bool} {a address fresh : Nat} {records : List GateRecord}

theorem known_iff (r : GateRecord) : GateRecord.known r = true ↔
    r.seq ≤ 15 ∧ (r.presentedAs = 1 ∨ r.presentedAs = 2 ∧ r.number ≤ 65535) ∧ (r.direction = 1 ∨ r.direction = 2) := by
  simp only [GateRecord.known, Bool.and_eq_true, Bool.or_eq_true, decide_eq_true_iff, beq_iff_eq, and_assoc]
  omega

theorem goodReply_iff : goodReply a checkAgrees lengthAgrees address fresh records = true ↔
    checkAgrees = true ∧ lengthAgrees = true ∧ address = a ∧ fresh ≤ 1 ∧ records.length ≤ 4 ∧ ∀ r ∈ records,
      r.seq ≤ 15 ∧ (r.presentedAs = 1 ∨ r.presentedAs = 2 ∧ r.number ≤ 65535) ∧ (r.direction = 1 ∨ r.direction = 2) := by
  simp only [goodReply, Bool.and_eq_true, decide_eq_true_iff, beq_iff_eq, and_assoc, List.all_eq_true, known_iff, Nat.lt_succ_iff]

end

/-! ### The end of an exchange, by what it found in flight -/

section
variable {checkAgrees lengthAgrees : Bool} {address fresh : Nat} {records : List GateRecord} {d : Device}

theorem receiveReply_unpolled (idle : d.gb.inFlight = none) : receiveReply checkAgrees lengthAgrees address fresh records d = d := by
  unfold receiveReply; rw [idle]
theorem replyTimedOut_unpolled (idle : d.gb.inFlight = none) : replyTimedOut d = d := by unfold replyTimedOut; rw [idle]

theorem receiveReply_dropped (polled : d.gb.inFlight ≠ none) (dropped : d.gb.replyDropped = true) :
    receiveReply checkAgrees lengthAgrees address fresh records d = dropReply d := by
  obtain ⟨a, polled⟩ := Option.ne_none_iff_exists'.1 polled
  unfold receiveReply; rw [polled]; exact if_pos dropped
theorem replyTimedOut_dropped (polled : d.gb.inFlight ≠ none) (dropped : d.gb.replyDropped = true) : replyTimedOut d = dropReply d := by
  obtain ⟨a, polled⟩ := Option.ne_none_iff_exists'.1 polled
  unfold replyTimedOut; rw [polled]; exact if_pos dropped

variable {a : Nat} (polled : d.gb.inFlight = some a) (heeded : d.gb.replyDropped = false)
include polled heeded

theorem receiveReply_heeded : receiveReply checkAgrees lengthAgrees address fresh records d =
    if goodReply a checkAgrees lengthAgrees address fresh records then takeReply a fresh records d else missedReply a d := by
  unfold receiveReply; rw [polled]; exact if_neg (Bool.eq_false_iff.1 heeded)
theorem replyTimedOut_heeded : replyTimedOut d = missedReply a d := by
  unfold replyTimedOut; rw [polled]; exact if_neg (Bool.eq_false_iff.1 heeded)

end

/-! ### A station's move (Table 10-2) -/

/-- The missed total one higher, at its limit at most (R169). -/
def Station.missCounted (st : Station) : Station := { st with missedTotal := min 65535 (st.missedTotal + 1) }

/-- FRESH empties the verdicts (R171). -/
def Station.heard (fresh : Nat) (st : Station) : Station := if fresh = 1 then { st with stored := [], owed := [] } else st

section
variable {st : Station}

theorem missed_unheard (h : st.state = .searching ∨ st.state = .lost) : st.missed = st.missCounted := by
  unfold Station.missed Station.missCounted
  rcases h with h | h <;> rw [h] <;> rfl
theorem missed_syncing (h : st.state = .syncing) : st.missed = { st.missCounted with state := .searching } := by
  unfold Station.missed; rw [h]; rfl
theorem missed_first (h : st.state = .active) (first : st.misses = 0) : st.missed = { st.missCounted with misses := 1 } := by
  unfold Station.missed Station.missCounted; rw [h, first]; rfl
theorem missed_second (h : st.state = .active) (again : 1 ≤ st.misses) :
    st.missed = { st.missCounted with state := .lost, misses := 0 } := by
  unfold Station.missed; rw [h]; exact if_neg (by omega)

/-- Whether FRESH empties the verdicts before the state moves or after, the record is the same. -/
theorem good_heard (fresh : Nat) (st : Station) :
    (if fresh = 1 then st.good.forgotten else st.good) = (st.heard fresh).good := by
  unfold Station.heard
  split
  · obtain ⟨state, site, misses, stored, owed, missedTotal, repeatTotal⟩ := st
    cases state <;> rfl
  · rfl
theorem heard_state (fresh : Nat) (st : Station) : (st.heard fresh).state = st.state := by
  unfold Station.heard; split <;> rfl

theorem good_joins (h : st.state = .searching ∨ st.state = .lost) : st.good = { st with state := .syncing } := by
  unfold Station.good
  rcases h with h | h <;> rw [h]
theorem good_syncing (h : st.state = .syncing) : st.good = { st with state := .active, misses := 0 } := by
  unfold Station.good; rw [h]
theorem good_active (h : st.state = .active) : st.good = { st with misses := 0 } := by
  unfold Station.good; rw [h]

end

/-- The exchange with station a has ended, with its record written. -/
def Device.ended (a : Nat) (new : Station) (d : Device) : Device :=
  { d with gb.inFlight := none, gb.stations := d.gb.stations.set (a - 1) new }

/-- STATION is set and station a marked (R170). -/
def Device.reported (a : Nat) (d : Device) : Device := { d with
  op.causes := d.op.causes ||| 0x200#12, op.changedStations := d.op.changedStations ||| (1#8 <<< (a - 1)) }

section
variable {a : Nat} {st new : Station} {d : Device} (h1 : 1 ≤ a) (held : d.gb.stations[a - 1]? = some st)
include h1 held

theorem moveStation_silent (silent : new.state = st.state ∨ new.state.reported = false) :
    moveStation a new { d with gb.inFlight := none } = d.ended a new := by
  have read : GateBus.station { d.gb with inFlight := none } a = st := station_held held
  unfold moveStation
  dsimp only
  rw [read, putStation_at h1]
  exact if_neg fun ⟨moved, reported⟩ => silent.elim moved fun no => by rw [no] at reported; cases reported
theorem moveStation_reported (moved : new.state ≠ st.state) (reported : new.state.reported = true) :
    moveStation a new { d with gb.inFlight := none } = (d.ended a new).reported a := by
  have read : GateBus.station { d.gb with inFlight := none } a = st := station_held held
  unfold moveStation
  dsimp only
  rw [read, putStation_at h1]
  exact if_pos ⟨moved, reported⟩

theorem missedReply_silent (silent : st.missed.state = st.state ∨ st.missed.state.reported = false) :
    missedReply a d = settleRound (d.ended a st.missed) := by
  unfold missedReply; rw [station_held held, moveStation_silent h1 held silent]
theorem missedReply_reported (moved : st.missed.state ≠ st.state) (reported : st.missed.state.reported = true) :
    missedReply a d = settleRound ((d.ended a st.missed).reported a) := by
  unfold missedReply; rw [station_held held, moveStation_reported h1 held moved reported]

variable {fresh : Nat} {records : List GateRecord}

theorem takeReply_silent (silent : (st.heard fresh).good.state = st.state ∨ (st.heard fresh).good.state.reported = false) :
    takeReply a fresh records d =
      settleRound { d.ended a (st.heard fresh).good with gb.records := records.map fun r => ⟨a, r⟩ } := by
  unfold takeReply
  dsimp only
  rw [station_held held, good_heard]
  exact congrArg settleRound
    (moveStation_silent (d := { d with gb.records := records.map fun r => ⟨a, r⟩ }) h1 held silent)
theorem takeReply_reported (moved : (st.heard fresh).good.state ≠ st.state) (reported : (st.heard fresh).good.state.reported = true) :
    takeReply a fresh records d =
      settleRound { (d.ended a (st.heard fresh).good).reported a with gb.records := records.map fun r => ⟨a, r⟩ } := by
  unfold takeReply
  dsimp only
  rw [station_held held, good_heard]
  exact congrArg settleRound
    (moveStation_reported (d := { d with gb.records := records.map fun r => ⟨a, r⟩ }) h1 held moved reported)

end

/-! ### One record taken -/

theorem signOutCode_eq (n : Nat) : signOutCode n = if n = 1 then .appointment else if n = 2 then .ill else .other := by
  unfold signOutCode
  split
  · rfl
  · rfl
  · rename_i not1 not2
    rw [if_neg not1, if_neg not2]

section
variable {d : Device} {a : Nat} {r : GateRecord} {rest : List ReplyRecord}

theorem takeNextRecord_none (empty : d.gb.records = []) : takeNextRecord d = d := by unfold takeNextRecord; rw [empty]
theorem takeNextRecord_first (waits : d.gb.records = ⟨a, r⟩ :: rest) :
    takeNextRecord d = takeRecord a r { d with gb.records := rest } := by unfold takeNextRecord; rw [waits]

/-- A sequence whose verdict is stored is a repeat (R171). -/
theorem takeRecord_repeat {v : SeqVerdict} (found : (d.gb.station a).stored.find? (·.seq == r.seq) = some v) :
    takeRecord a r d = d.putStation a { d.gb.station a with
      owed := (d.gb.station a).owed.filter (·.seq != r.seq) ++ [v]
      repeatTotal := min 65535 ((d.gb.station a).repeatTotal + 1) } := by
  have same : v.seq = r.seq := beq_iff_eq.1 (List.find?_some (p := fun w : SeqVerdict => w.seq == r.seq) found)
  unfold takeRecord Station.repeated
  dsimp only
  rw [found, ← same]; rfl

/-- Any other record is an arrival, its verdict stored and owed (R171). -/
theorem takeRecord_new (new : ∀ v ∈ (d.gb.station a).stored, v.seq ≠ r.seq) :
    takeRecord a r d = (takeArrival (arrivalOf a (d.gb.station a).site r) d).2.putStation a
      ((d.gb.station a).accepted ⟨r.seq, (takeArrival (arrivalOf a (d.gb.station a).site r) d).1⟩) := by
  have missing : (d.gb.station a).stored.find? (·.seq == r.seq) = none :=
    List.find?_eq_none.2 fun v hv => mt beq_iff_eq.1 (new v hv)
  unfold takeRecord
  dsimp only
  rw [missing]

theorem arrivalOf_eq (site : Nat) : arrivalOf a site r = ⟨a, site, r.number, r.presentedAs == 2, r.direction == 1,
    if r.reason = 1 then .appointment else if r.reason = 2 then .ill else .other⟩ := by
  unfold arrivalOf; rw [signOutCode_eq]

end

section
variable {st : Station} (v : SeqVerdict)

theorem accepted_room (room : st.stored.length < 4) :
    st.accepted v = { st with stored := st.stored ++ [v], owed := st.owed ++ [v] } := by
  have stays : (if Config.maxVerdicts ≤ st.stored.length then st.stored.tail else st.stored) = st.stored := if_neg (Nat.not_le.2 room)
  unfold Station.accepted; rw [stays]
theorem accepted_full (full : 4 ≤ st.stored.length) :
    st.accepted v = { st with stored := st.stored.tail ++ [v], owed := st.owed ++ [v] } := by
  have drops : (if Config.maxVerdicts ≤ st.stored.length then st.stored.tail else st.stored) = st.stored.tail := if_pos full
  unfold Station.accepted; rw [drops]

end

/-- Settles O56: an exchange ends dropped, missed or good, by what is in flight and the tests of R169, and moves the station by its state;
a record is a repeat or new by its sequence. -/
theorem repliesMoveStations : Obligations.RepliesMoveStations := by
  unfold Obligations.RepliesMoveStations
  refine ⟨fun s checkAgrees lengthAgrees address fresh records powered => ?_, fun s powered => ?_⟩
  · intro reply
    have received : reply = goesTo s (receiveReply checkAgrees lengthAgrees address fresh records s.dev) := act_powered_on powered
    have timeout : exec .gateReplyTimeout s = goesTo s (replyTimedOut s.dev) := act_powered_on powered
    rw [received, timeout]
    refine ⟨fun idle => ?_, fun polled dropped => ?_, fun a st polled heeded h1 held => ?_⟩
    · rw [receiveReply_unpolled idle, replyTimedOut_unpolled idle]; exact ⟨rfl, rfl⟩
    · rw [receiveReply_dropped polled dropped, replyTimedOut_dropped polled dropped]; exact ⟨rfl, rfl⟩
    · intro good put reported missed heard waits
      have taken (is : good) : receiveReply checkAgrees lengthAgrees address fresh records s.dev = takeReply a fresh records s.dev :=
        (receiveReply_heeded polled heeded).trans (if_pos (goodReply_iff.2 is))
      rw [replyTimedOut_heeded polled heeded]
      refine ⟨fun bad => ?_, fun unheard => ?_, fun syncing => ?_, fun active first => ?_, fun active second => ?_,
        fun is unheard => ?_, fun is syncing => ?_, fun is active => ?_⟩
      · rw [receiveReply_heeded polled heeded, if_neg (mt goodReply_iff.1 bad)]
      · have becomes := missed_unheard unheard
        rw [missedReply_silent h1 held (.inl (congrArg (·.state) becomes)), becomes]; rfl
      · have becomes := missed_syncing syncing
        rw [missedReply_silent h1 held (.inr (congrArg (·.state.reported) becomes)), becomes]; rfl
      · have becomes := missed_first active first
        rw [missedReply_silent h1 held (.inl (congrArg (·.state) becomes)), becomes]; rfl
      · have becomes := missed_second active second
        rw [missedReply_reported h1 held (by rw [becomes, active]; nofun) (congrArg (·.state.reported) becomes), becomes]; rfl
      · have becomes := good_joins (st := st.heard fresh) (by rwa [heard_state])
        rw [taken is, takeReply_silent h1 held (.inr (congrArg (·.state.reported) becomes)), becomes]; rfl
      · have becomes := good_syncing (st := st.heard fresh) (by rwa [heard_state])
        rw [taken is, takeReply_reported h1 held (by rw [becomes, syncing]; nofun) (congrArg (·.state.reported) becomes), becomes]; rfl
      · have becomes := good_active (st := st.heard fresh) (by rwa [heard_state])
        have state : (st.heard fresh).good.state = st.state := (congrArg (·.state) becomes).trans (heard_state fresh st)
        rw [taken is, takeReply_silent h1 held (.inl state), becomes]; rfl
  · have record : exec .arrivalRecord s = goesTo s (takeNextRecord s.dev) := act_powered_on powered
    rw [record]
    refine ⟨fun empty => ⟨?_, takeWaiting_none empty⟩, fun d goes => ?_, fun a r rest waits => ?_⟩
    · rw [takeNextRecord_none empty]
    · obtain rfl := goesTo_inj goes
      exact (takeWaiting_next s.dev).symm
    · intro st left
      have first : takeNextRecord s.dev = takeRecord a r left := takeNextRecord_first waits
      rw [first]
      refine ⟨fun v found => ?_, fun new => ?_⟩
      · rw [takeRecord_repeat (d := left) found]; rfl
      · intro taken v
        rw [takeRecord_new (d := left) new, arrivalOf_eq]
        refine ⟨fun room => ?_, fun full => ?_⟩
        · exact congrArg (fun x => goesTo s (taken.2.putStation a x)) (accepted_room v room)
        · exact congrArg (fun x => goesTo s (taken.2.putStation a x)) (accepted_full v full)

end Sys2Proof.Machine
end

section
/-! O2, O3, O4: every command is answered, a request that is refused changes nothing, and the office line holds one request at a time
(R176 to R178). -/
namespace Sys2Proof.Machine

/-! ### Every command is answered -/

/-- A command's meaning that always takes the device to a next condition, with the queue left alone. -/
def AlwaysGoes (run : State → Host.Outcome State Fault Refusal) : Prop := ∀ s, ∃ d, run s = goesTo s d

theorem act_goes (f : Device → Device) : AlwaysGoes (act f) := fun s => ⟨f s.dev, rfl⟩

/-- A request is `request` of what it serves, and an event is one change of the device: both are `act`. -/
theorem exec_goes (c : Instr) : AlwaysGoes (exec c) := by
  cases asked : requestOfInstr c with
  | some q =>
    obtain ⟨serve, run, -⟩ := request_served c q.1 q.2 asked
    intro s
    rw [run s]; exact act_goes _ s
  | none =>
    cases c
    case unknownRequest | wrongBodyLength => exact act_goes (request _ _ _)
    case officeBadFrame | officeByteTimeout => exact act_goes id
    case oscillatorTick | powerUp | retentionLoss | mainPowerLoss => exact act_goes _
    case alertInput active => exact (act_goes _ : AlwaysGoes (execAlertInput active))
    case paKey held => exact (act_goes _ : AlwaysGoes (execPaKey held))
    case overrun | replyComplete | warmReset | masterMark | markSilenceExpiry | rolloverStep | closeSweepStep | confirmSweepStep
        | gateRoundStart | poll | gateReply | gateReplyTimeout | arrivalRecord | outcomeTimeout | relayDownFallback | fanoutStep
        | rxMsg | rxMark | rxIdle | rxResync | rxStart | rxBadFrame | relayByteTimeout | txLineFree | startTimer | markDue | idleDue
        | silenceTimeout | resyncTimeout | autoRestart | generatorUnit | alertWarbleUnit | idleCheck => exact act_goes (powered _)
    all_goals cases asked

/-- Settles O2: every command, request or event, is one change of the device. -/
theorem everyCommandIsAnswered : Obligations.EveryCommandIsAnswered := exec_goes

/-! ### A request refused -/

/-- A clean answer other than OK is a refusal: no flags, no body, and the device as it was (R178). -/
theorem Clean.refused {d : Device} {t : Answer × Device} (h : Clean d t) (notOk : t.1.result ≠ .ok) :
    t.2 = d ∧ t.1.flags = {} ∧ t.1.body = .empty := by
  rcases h with isOk | ⟨r, rfl⟩
  · exact absurd isOk notOk
  · exact ⟨rfl, rfl, rfl⟩

/-- Settles O3: every request answers with what it serves, which is clean. -/
theorem refusedRequestChangesNothing : Obligations.RefusedRequestChangesNothing := by
  intro c s tag code ready asked
  obtain ⟨serve, run, kept⟩ := request_served c tag code asked
  exact ⟨_, _, (run s).trans (act_request_ready ready), (kept.clean s.dev).refused⟩

/-! ### One request in hand -/

section
variable {s : State}

/-- A good frame while a request is in hand only sets OVERRUN (R177). -/
theorem act_request_overrun {code tag : Nat} {serve : Device → Answer × Device} (power : Powered s)
    (busy : s.dev.op.inHand.isSome = true) : act (request code tag serve) s = goesTo s (s.dev.raise .overrun) := by
  obtain ⟨r, held⟩ := Option.isSome_iff_exists.1 busy
  rw [act_eq, request_overrun power held]; rfl

theorem overrunFrame_busy {d : Device} (busy : d.op.inHand.isSome = true) : overrunFrame d = d.raise .overrun := if_pos busy
theorem overrunFrame_free {d : Device} (free : d.op.inHand = none) : overrunFrame d = d := if_neg (by rw [free]; exact Bool.false_ne_true)

theorem exec_overrun (power : Powered s) : exec .overrun s = goesTo s (overrunFrame s.dev) := act_powered_on power

end

/-- Settles O4: every good frame goes through `request`, by whether a request is in hand; a bad one leaves the device alone. -/
theorem officeLineTakesOneRequest : Obligations.OfficeLineTakesOneRequest := by
  refine ⟨fun c s tag code power busy asked => ?_, fun s tag code power busy => ⟨?_, ?_, ?_⟩, fun s tag code ready => ⟨?_, ?_, ?_⟩,
    fun _ => ⟨rfl, rfl⟩⟩
  · obtain ⟨serve, run, -⟩ := request_served c tag code asked
    rw [run]; exact act_request_overrun power busy
  · exact act_request_overrun power busy
  · exact act_request_overrun power busy
  · rw [exec_overrun power, overrunFrame_busy busy]
  · exact act_request_ready ready
  · exact act_request_ready ready
  · rw [exec_overrun ready.1, overrunFrame_free ready.2]

end Sys2Proof.Machine
end

section
/-! O57: the attention line, STATUS and SET_ATTENTION_MASK (R179 to R181). -/
namespace Sys2Proof.Machine

/-! ### The attention line -/

/-- A set of bits is not empty when it holds one. -/
theorem bits_ne_zero_iff {w : Nat} (x : BitVec w) : x ≠ 0 ↔ ∃ i, i < w ∧ x.getLsbD i = true := by
  refine ⟨fun nonzero => ?_, fun ⟨i, _, held⟩ empty => ?_⟩
  · by_contra unset
    refine nonzero (BitVec.eq_of_getLsbD_eq fun i hi => ?_)
    have clear : x.getLsbD i = false := Bool.eq_false_iff.2 fun held => unset ⟨i, hi, held⟩
    rw [clear]; exact BitVec.getLsbD_zero.symm
  · rw [empty] at held; exact absurd held (by simp)

theorem attention_iff (op : OfficePort) :
    op.attention = true ↔ ∃ i, i < 12 ∧ op.causes.getLsbD i = true ∧ op.mask.getLsbD i = true := by
  unfold OfficePort.attention
  simp only [bne_iff_ne, bits_ne_zero_iff, BitVec.getLsbD_and, Bool.and_eq_true]

/-! ### The zones in FAULT -/

theorem zoneBit_getLsbD {z w : Nat} (hz : 1 ≤ z) (hw : 1 ≤ w) (h24 : w ≤ 24) : (1#24 <<< (z - 1)).getLsbD (w - 1) = (z == w) := by
  rw [BitVec.getLsbD_shiftLeft, BitVec.getLsbD_one, Bool.eq_iff_iff]
  simp only [Bool.and_eq_true, decide_eq_true_eq, Bool.not_eq_true', decide_eq_false_iff_not, beq_iff_eq]
  omega

/-- A walk that adds the bit of each zone of a list with a property: the set it ends with. -/
theorem foldl_zoneBits {p : Nat → Bool} {l : List Nat} (numbered : ∀ z ∈ l, 1 ≤ z) {w : Nat} (hw : 1 ≤ w) (h24 : w ≤ 24)
    (set : ZoneSet) : (l.foldl (fun acc z => if p z then acc ||| (1#24 <<< (z - 1)) else acc) set).getLsbD (w - 1) =
      (set.getLsbD (w - 1) || l.contains w && p w) := by
  induction l generalizing set with
  | nil => simp
  | cons z l ih =>
    obtain ⟨hz, hl⟩ := List.forall_mem_cons.1 numbered
    have added : (if p z then set ||| (1#24 <<< (z - 1)) else set).getLsbD (w - 1) =
        (set.getLsbD (w - 1) || (z == w && p z)) := by
      cases p z
      · simp
      · simp [zoneBit_getLsbD hz hw h24]
    rw [List.foldl_cons, ih hl, added, List.contains_cons]
    by_cases same : z = w
    · subst same; cases p z <;> simp
    · simp [beq_false_of_ne same, beq_false_of_ne (Ne.symm same)]

theorem faults_getLsbD (su : Sounder) {z : Nat} (h1 : 1 ≤ z) (h24 : z ≤ 24) : su.faults.getLsbD (z - 1) = (su.zone z).fault := by
  have member : allZones.contains z = true := List.contains_iff_mem.2 ((allZones_iff z).2 ⟨h1, h24⟩)
  unfold Sounder.faults
  rw [foldl_zoneBits (p := fun z => (su.zone z).fault) allZones_numbered h1 h24, member, Bool.true_and]
  exact (congrArg (· || _) BitVec.getLsbD_zero).trans (Bool.false_or _)

/-! ### SET_ATTENTION_MASK -/

section
variable {causes : Nat} (d : Device)

theorem serveSetAttentionMask_outside (outside : 4096 ≤ causes) : serveSetAttentionMask causes d = refuse .range d :=
  checked_fails (by
    simp only [fitsMask, Bool.not_eq_true', decide_eq_false_iff_not]; omega)
theorem serveSetAttentionMask_inside (inside : causes < 4096) :
    serveSetAttentionMask causes d = (ok .empty, { d with op.mask := BitVec.ofNat 12 causes }) :=
  checked_passes (by
    simp only [fitsMask, Bool.not_eq_false', decide_eq_true_eq]; omega)

end

/-- Settles O57: the line by the bits both sets hold, STATUS field by field, and the mask by its range. -/
theorem attentionIsRaisedAndRead : Obligations.AttentionIsRaisedAndRead := by
  refine ⟨attention_iff, fun d c x => raise_holds c x d, fun s tag ready => ?_,
    fun s tag causes ready => ⟨fun outside => ?_, fun inside => ?_⟩⟩
  · exact ⟨s.dev.statusReply, act_request_gives ready rfl, rfl, rfl, rfl, rfl, rfl, rfl, rfl, rfl, rfl, rfl, rfl, rfl,
      fun _ h1 h24 => faults_getLsbD s.dev.su h1 h24⟩
  · exact act_request_served ready (serveSetAttentionMask_outside _ outside)
  · exact act_request_served ready (serveSetAttentionMask_inside _ inside)

end Sys2Proof.Machine
end

section
/-! O1: one step, by the queue (log 1). -/
namespace Sys2Proof.Machine

section
variable {s : State}

theorem step_idle (none : s.pending = []) : step s = .next s := by
  unfold step; rw [none]

theorem step_front {c : Instr} {rest : List Instr} (front : s.pending = c :: rest) : step s = exec c { s with pending := rest } := by
  unfold step; rw [front]

end

/-- Settles O1: the two equations of a step, for a queue that is empty and for one with a front command. -/
theorem stepTakesTheFrontCommand : Obligations.StepTakesTheFrontCommand :=
  fun _ => ⟨step_idle, fun _ _ => step_front⟩

end Sys2Proof.Machine
end
